-- ==== Sys2Proof/Word.lean ====
section
/-! DEFINITION. Word types of the module and their plainest arithmetic: bit fields of a number, saturating
counters, sign extension. Addresses, line numbers and cycle counts are computed as natural numbers; register
contents, which wrap and which software reads as words, are bit vectors. -/

namespace Sys2Proof

/-- A 32-bit register word. -/
abbrev Word := BitVec 32
/-- A 64-bit scalar register or counter. -/
abbrev DWord := BitVec 64
/-- One byte of a memory. -/
abbrev Byte := BitVec 8

/-- Bits `hi` down to `lo` of `w`, as a number. -/
def fld (w hi lo : Nat) : Nat := (w >>> lo) % 2 ^ (hi + 1 - lo)

/-- Bit `i` of `w`. -/
def bit (w i : Nat) : Bool := w.testBit i

/-- A Boolean as the number 0 or 1. -/
def b2n (b : Bool) : Nat := if b then 1 else 0

/-- A counter that stops at `max` (the saturating counters of the register tables). -/
def satAdd (max n k : Nat) : Nat := if n + k ≤ max then n + k else max

/-- The two's complement value of the low `w` bits of `n`. -/
def sext (w n : Nat) : Int :=
  let m := n % 2 ^ w
  if m < 2 ^ (w - 1) then (m : Int) else (m : Int) - (2 ^ w : Nat)

/-- An integer modulo `2 ^ w`, as a number. -/
def wrapInt (w : Nat) (i : Int) : Nat := (i % ((2 ^ w : Nat) : Int)).toNat

/-- `n / d` rounded up. -/
def ceilDiv (n d : Nat) : Nat := (n + d - 1) / d

/-- The little-endian value of a list of bytes held as numbers. -/
def leVal : List Nat → Nat
  | [] => 0
  | b :: bs => b % 256 + 256 * leVal bs

/-- The `k` little-endian bytes of `n`. -/
def leBytes : Nat → Nat → List Nat
  | 0, _ => []
  | k + 1, n => n % 256 :: leBytes k (n / 256)

/-- `List.range` shifted: `n` numbers from `a`. -/
def span (a n : Nat) : List Nat := (List.range n).map (a + ·)

end Sys2Proof
end

