-- ==== Sys2Proof/Syntax.lean ====
section
/-! DEFINITION. The commands of the module: one constructor of `Instr` for each row of spec/opcode_table.json, with the
row's operands. The table gives its rows no bits; a slot row carries the slot's word as spec 03 encodes it, a ring row
the 64-byte command as spec 10 encodes it, an event row what the event brings from outside. -/

namespace Sys2Proof

/-- A hardware thread by logical place: die, logical panel, thread number. -/
structure ThreadRef where
  die : Fin 4
  lp : Fin 8
  th : Fin 16
  deriving DecidableEq, Repr

/-- A logical panel of a die. -/
structure PanelRef where
  die : Fin 4
  lp : Fin 8
  deriving DecidableEq, Repr

/-- A physical panel of a die. -/
structure PhysRef where
  die : Fin 4
  pp : Fin 9
  deriving DecidableEq, Repr

/-- A command ring: the admin ring, or ring `r` of a context slot. -/
inductive RingRef where
  | admin
  | ctx (slot : Fin 4096) (r : Fin 4)
  deriving DecidableEq, Repr

/-- What a buddy sends to the module that named it (R281, R282, R292, R294): its answer to a BUDDY_SET, its acknowledgement of a
step's replay buffers, of a log entry of a ring, of a snapshot, the refusal of a chunk, or of a stream that does not fit. -/
inductive BuddyMsg where
  | answer (present room : Bool) (tray pwr : BitVec 32) (leaf : List (BitVec 64))
  | inputs (step : Nat)
  | log (r : Fin 4)
  | snapshot (step : Nat)
  | refused (step stack idx : Nat)
  | full (step : Nat)
  deriving DecidableEq, Repr

/-- What arrives for the Lining, or from one (R293 to R296, R301, R303): a partner's chunk with its digest, its manifest, a
replay buffer's bytes, a log entry, the news that its step is sealed, a new unit address of its role, a request for a copy, the
question whether this module can be a buddy;
and, for a context here that is being restored, the manifest, chunks, buffers and log entries a buddy supplies. -/
inductive LinMsg where
  | chunk (job unit step stack idx : Nat) (digest data : List (BitVec 8))
  | manifest (job unit step : Nat) (data : List (BitVec 8))
  | input (job unit step addr : Nat) (data : List (BitVec 8)) (last : Bool)
  | cmd (job unit step ring : Nat) (w : BitVec 512)
  | sealed (job unit step : Nat)
  | rekey (job unit to_ : Nat)
  | want (job unit step requester : Nat) (chunk : Option (Nat × Nat))
  | ask (job unit : Nat)
  | supplyManifest (slot : Fin 4096) (data : List (BitVec 8))
  | supplyChunk (slot : Fin 4096) (stack idx : Nat) (data : List (BitVec 8))
  | supplyInput (slot : Fin 4096) (step addr : Nat) (data : List (BitVec 8))
  | supplyCmd (slot : Fin 4096) (step ring : Nat) (w : BitVec 512)
  | supplyEnd (slot : Fin 4096) (unit reason : Nat)
  deriving DecidableEq, Repr

/-- The parameters of a reduction that every participant must give alike (Table 9-8): `accPair` is `ACCF`, `outRaw` is `OUT`. -/
structure CumParams where
  kind : Nat
  op : Nat
  first : Nat
  n : Nat
  e : Nat
  infmt : Nat
  accPair : Bool
  outRaw : Bool
  tgt : Nat
  rnd : Nat
  deriving DecidableEq, Repr, Inhabited

/-- A line that Sander or a scrub finds in error (R198, R200, Table 8-13): channel or package, pseudo-channel, bank, corrected
symbol, row or stratum line, module address when the line has one, its local address in the channel or package otherwise,
whether it is uncorrectable, whether the bank has no spare row left, and whether the link ECC of Tier B corrected it. Channel,
pseudo-channel and local address of a line with a module address follow from that (R180, R181). -/
structure ErrLine where
  ch : Nat
  pc : Nat
  bank : Nat
  sym : Nat
  row : Nat
  addr : Option Nat
  loc : Nat
  ue : Bool
  spareOut : Bool
  link : Bool
  deriving DecidableEq, Repr

/-- A Weathervane measurement (Table 13-10): quantity, unit, margin in thousandths of the quantity's unit. -/
structure WvIn where
  qty : Nat
  unit : Nat
  m : Int
  deriving DecidableEq, Repr

/-- What training of a Griand port finds (R228, R251): the other end's ranges for each layer, a lane that has failed
(8 × direction + lane), and whether two lanes are lost. -/
structure PortTrain where
  phy : Nat × Nat
  link : Nat × Nat
  trn : Nat × Nat
  col : Nat × Nat
  ldg : Nat × Nat
  lane : Option Nat
  second : Bool
  deriving DecidableEq, Repr

/-- A leaf switch's Horizon answer (R222): tree id, axis, switch identity, leaf port, the address and the module identity bound
to that port, the plan digest it holds. -/
structure HznAns where
  tree : Nat
  axis : Nat
  leaf : BitVec 64
  leafPort : Nat
  addr : Nat
  ident : BitVec 64
  digest : List (BitVec 8)
  deriving DecidableEq, Repr

/-- The header of a packet that arrives: source unit, transport sequence number, job, and the sender's transport, collective and ledger
versions (R229). -/
structure PktHdr where
  src : Nat
  seq : Nat
  job : Nat
  trn : Nat
  col : Nat
  ldg : Nat
  deriving DecidableEq, Repr

/-- How a frame of a job comes: by a port, or from this module itself, under a packet's header. -/
structure Via where
  port : Option (Fin 6)
  hdr : PktHdr
  deriving DecidableEq, Repr

/-- A frame for the Lining, or from one, as it arrives. -/
structure LinIn where
  via : Via
  msg : LinMsg
  deriving DecidableEq, Repr

/-- A frame of a job at the context slot it is for. -/
structure JobVia where
  via : Via
  slot : Fin 4096
  deriving DecidableEq, Repr

/-- What a frame of a phase agreement says (R241, R242): the route set that REDRAW names, and whether members differ in it. -/
structure PhaseSays where
  set : Option Nat
  differ : Bool
  deriving DecidableEq, Repr

/-- A packet's content (R232, R235, R27): a put with the poison of each 64-byte line, a get, or a unit descriptor that a group's
head or a member sends, with the members it knows. -/
inductive InPkt where
  | put (addr : Nat) (data : List (BitVec 8)) (poison : List Bool)
  | get (addr len : Nat)
  | descriptor (key : Nat) (data : List (BitVec 8)) (members : List Nat)
  deriving DecidableEq, Repr

/-- A contribution as it arrives (R244, R247). -/
structure ContribIn where
  seq : Nat
  rank : Nat
  p : CumParams
  data : List (BitVec 8)
  scales : List (BitVec 8)
  poison : List Bool
  sigma : Int
  key : BitVec 64
  deriving DecidableEq, Repr

/-- An output chunk as it arrives (R247). -/
structure ChunkIn where
  seq : Nat
  chunk : Nat
  data : List (BitVec 8)
  scales : List (BitVec 8)
  poison : List Bool
  ovf : Nat
  nan : Nat
  unf : Nat
  sat : Nat
  digest : BitVec 64
  deriving DecidableEq, Repr

/-- What a Contrail leader mirrors to its shadow, matched to the shadow's own transfer (R340): a line of a peer's put, a line of
a far get, the completion of a far put, a piece of a gather or scatter, a chunk of a reduction. -/
inductive ShadowMsg where
  | put (addr : Nat) (data : List (BitVec 8)) (poison : Bool)
  | got (p : PhysRef) (uid idx : Nat) (data : List (BitVec 8)) (poison : Bool)
  | putDone (p : PhysRef) (uid : Nat)
  | piece (uid id : Nat) (refused : Bool) (data : List (BitVec 8)) (poison : List Bool)
  | chunk (c : ChunkIn)
  deriving DecidableEq, Repr

/-- A heartbeat frame (R321): sender, plane, power-on count, power state, Horizon outcome, Contrail role. -/
structure HbIn where
  src : Nat
  plane : Fin 3
  pwrOn : BitVec 32
  power : Nat
  outcome : Nat
  role : Nat
  deriving DecidableEq, Repr

/-- A Squall frame (Table 12-6), and the port it comes by. -/
structure SquallIn where
  port : Fin 6
  job : Nat
  origin : Nat
  ohandle : Nat
  cause : Nat
  relayed : Bool
  step : Nat
  pwrOn : BitVec 32
  deriving DecidableEq, Repr

/-- How a swatch run ends (R338): FAIL with the operand class and pattern signature of the failing set. -/
inductive SwOut where
  | pass
  | fail (opclass patsig : Nat)
  | abort
  deriving DecidableEq, Repr

/-- What an activity of SCAFFOLD RUN finds (Table 13-9): whether it passed, the units it names (failed panels, channels or packages
that fail training), lanes newly repaired or failed at a training (R211), lines in error, measurements. -/
structure RunOut where
  ok : Bool
  units : List Nat
  lanes : List Nat
  lines : List ErrLine
  samples : List WvIn
  deriving DecidableEq, Repr

/-- What a C-die and the H-die find of the die's strap balls (R8, R10): the two samples of POS and ORIENT, and whether the sideband
exchange with the die completed. -/
structure StrapRead where
  pos : Fin 4
  orient : Fin 4
  pos2 : Fin 4
  orient2 : Fin 4
  side : Bool
  deriving DecidableEq, Repr

/-- What training of a die-to-die port finds (R14, R211, Table 8-16): lanes that have newly failed, each as 272 × direction + lane (log
entry 82), and what else keeps it from service (0: nothing; 2 SIDEBAND; 3 TIMEOUT). -/
structure LinkTrain where
  port : Fin 16
  lanes : List (Fin 544)
  cause : Fin 4
  deriving DecidableEq, Repr

/-- What a timed start phase finds (Table 13-6): straps of C-dies 0 to 3 and die-to-die ports that differ from a clean training
(phase 4), channels 32 × stack + channel and Tier B packages that fail training and channels a new command/address lane of which
is repaired (phase 6). -/
structure PhaseOut where
  straps : List StrapRead
  links : List LinkTrain
  chans : List Nat
  pkgs : List Nat
  lanes : List Nat
  deriving DecidableEq, Repr

/-- How a built-in test ends (R352, R353): PASS; FAIL with the failing units (unit type and unit) and the die named; fuse
integrity lost; or refused for want of the test window. -/
inductive TestOut where
  | pass
  | fail (units : List (Nat × Nat)) (die : Fin 4)
  | fuse
  | refused (clock : Bool) (rail : Option (Fin 11))
  deriving DecidableEq, Repr

/-- The readings the keeper takes every 100 ticks (R380, R386, R389): input voltage and current in units of 10 mV and 10 mA, input
power in W, rail voltages (mV) and currents (100 mA), rails outside ±3% of nominal, the hottest sensor of C-dies 0 to 3 and of
the H-die, inlet and outlet coolant; temperatures in 1/16 °C. -/
structure Sensors where
  volt : Nat
  cur : Nat
  power : Nat
  rails : List (Nat × Nat)
  bad : List Nat
  dies : List Int
  inlet : Int
  outlet : Int
  deriving DecidableEq, Repr

/-- A page with a memory error log (R203). -/
inductive LogPage where
  | hbm (stack : Fin 8)
  | tierB
  | stratum (die : Fin 4)
  deriving DecidableEq, Repr

/-- A requester of register accesses (R395, R397): the PCIe function, the I3C target, a hardware thread. -/
inductive Req where
  | pcie
  | i3c
  | thread (p : PhysRef) (th : Fin 16)
  deriving DecidableEq, Repr

/-- The commands. -/
inductive Instr where
  /-- Input power rises through the turn-on threshold, which advances the power-on count, zeroes the tick counter and runs the start sequence from phase 1. (R351) -/
  | powerOnReset (straps : Fin 16)
  /-- The input stays below 37.0 V for more than 50 µs, which is a power loss. (R379) -/
  | inputUndervoltage
  /-- The input stays above 62.0 V for more than 50 µs, which turns the module off until the input falls below 60.5 V. (R379) -/
  | inputOvervoltage
  /-- PRSNT_N opens and the hot-swap controller turns the input off within 50 µs. (R374) -/
  | prsntNOpen
  /-- A rail stays more than 5% off nominal for 10 µs or reports overcurrent, and hardware switches off every rail except rail 10 and drives FAULT_N and PWRGD low. (R382) -/
  | railFault (rail : Fin 11)
  /-- A junction reaches 125 °C or a stack reaches 115 °C, and hardware drives THERMTRIP_N low and switches the rails off. (R392) -/
  | thermalTrip
  /-- The input current exceeds 90 A for 20 µs, which puts every C-die at throttle step 4. (R390) -/
  | fast
  /-- FAST has been in force for 1 ms, and the keeper's causes govern again. (R390) -/
  | fastExpiry
  /-- At each 100-tick reading the keeper updates rails, coolant flags and the throttle cause steps. (R389) -/
  | sensorReading (x : Sensors)
  /-- The CN-F mate loop closes or opens, which permits or forbids Griand training. (R376) -/
  | mateLoopChange (closed : Bool)
  /-- PERST_N is asserted, which performs a module reset in CLEAR, HAZE and DUSK. (R384) -/
  | perstNAssert
  /-- PERST_N is deasserted, and PCIe link training begins within 20 ms. (R384) -/
  | perstNDeassert
  /-- A function-level reset resets and destroys every context, stops the admin ring and releases host scaffolds. (R278) -/
  | functionLevelReset
  /-- Zenith loses lock, which stops the C, N, D and M domains and faults every live context with CLOCK_LOCK. (R24) -/
  | zenithLockLoss
  /-- Zenith has not locked 100 ms into start phase 2, and the module enters HOLD with cause CLOCK. (R351) -/
  | zenithLockTimeout
  /-- A die-to-die frame fails its link CRC and is replayed with a delay of 52 C cycles. (R15) -/
  | d2dCrcFail (port : Fin 16) (again : Bool)
  /-- The test window is not met within 10 s at phase 3, and the module enters HOLD with cause BIST_WINDOW. (R353) -/
  | bistWindowTimeout (clock : Bool) (rail : Option (Fin 11))
  /-- The clock or a rail leaves the test window during a test, which stops the test with LASTRES REFUSED and enters HOLD. (R353) -/
  | bistWindowLost (clock : Bool) (rail : Option (Fin 11))
  /-- The short or full test of start phase 5 ends, and the start continues or enters HOLD with cause BIST_FAIL. (R352) -/
  | startTestDone (t : TestOut)
  /-- A firmware image fails verification or does not reach keeper-ready within 2 s, which advances BOOTFAIL and may switch slots or enter HOLD with cause FW_NONE. (R369) -/
  | bootAttemptTimeout
  /-- A thread issues a bundle in an owned roller position; every slot reads its registers in the cycle and the header's IDLE, STOP and PMARK take effect. (R63) -/
  | bundleIssue (p : PanelRef) (n : Nat)
  /-- A waiting thread resumes at its first owned position after its wait condition became true. (R32) -/
  | threadResume (t : ThreadRef)
  /-- The SCL no-operation. (R68) -/
  | sclNop (t : ThreadRef) (w : BitVec 32)
  /-- rd receives rs1 plus rs2 modulo 2^64. (R68) -/
  | add (t : ThreadRef) (w : BitVec 32)
  /-- rd receives rs1 minus rs2 modulo 2^64. (R68) -/
  | sub (t : ThreadRef) (w : BitVec 32)
  /-- rd receives rs1 AND rs2. (R68) -/
  | andOp (t : ThreadRef) (w : BitVec 32)
  /-- rd receives rs1 OR rs2. (R68) -/
  | orOp (t : ThreadRef) (w : BitVec 32)
  /-- rd receives rs1 XOR rs2. (R68) -/
  | xorOp (t : ThreadRef) (w : BitVec 32)
  /-- rd receives rs1 shifted left by rs2[5:0]. (R68) -/
  | shl (t : ThreadRef) (w : BitVec 32)
  /-- rd receives rs1 shifted right logically by rs2[5:0]. (R68) -/
  | shr (t : ThreadRef) (w : BitVec 32)
  /-- rd receives rs1 shifted right arithmetically by rs2[5:0]. (R68) -/
  | sra (t : ThreadRef) (w : BitVec 32)
  /-- rd receives the low 64 bits of rs1 times rs2, with a latency of 3 cycles. (R68) -/
  | mul (t : ThreadRef) (w : BitVec 32)
  /-- rd receives rs1 plus the sign-extended IMM16. (R68) -/
  | addi (t : ThreadRef) (w : BitVec 32)
  /-- rd receives rs1 AND the zero-extended IMM16. (R68) -/
  | andi (t : ThreadRef) (w : BitVec 32)
  /-- rd receives the sign-extended IMM16 shifted left by 16. (R68) -/
  | lui (t : ThreadRef) (w : BitVec 32)
  /-- rd receives rs1 shifted left by IMM16[5:0]. (R68) -/
  | shli (t : ThreadRef) (w : BitVec 32)
  /-- rd receives rs1 OR the zero-extended IMM16. (R68) -/
  | ori (t : ThreadRef) (w : BitVec 32)
  /-- pd receives the comparison of rs1 and rs2 under COND. (R68) -/
  | cmp (t : ThreadRef) (w : BitVec 32)
  /-- rd receives a 64-bit word of the thread's data-cache share, or the load is skipped with DC_MISS and poisons rd. (R87) -/
  | sclLd (t : ThreadRef) (w : BitVec 32)
  /-- A 64-bit word is stored to the thread's data-cache share. (R87) -/
  | sclSt (t : ThreadRef) (w : BitVec 32)
  /-- rd receives 8 bytes of scratchpad read in cycle issue + 2. (R68) -/
  | ldsp (t : ThreadRef) (w : BitVec 32)
  /-- 8 bytes are written to the scratchpad as a masked line write completing in cycle issue + 2. (R68) -/
  | stsp (t : ThreadRef) (w : BitVec 32)
  /-- Lines of the data-cache share are filled from memory under a token, writing back displaced dirty lines. (R87) -/
  | dfill (t : ThreadRef) (w : BitVec 32)
  /-- Data-cache lines are written back to memory under a token. (R87) -/
  | dwb (t : ThreadRef) (w : BitVec 32)
  /-- A line register receives the low 17 bits of rs1 plus the immediate. (R68) -/
  | mova (t : ThreadRef) (w : BitVec 32)
  /-- rd receives the tick counter as the panel sees it at issue. (R68) -/
  | tick (t : ThreadRef) (w : BitVec 32)
  /-- rd receives a register sampled at a fixed cycle after issue from a permitted page. (R68) -/
  | csrr (t : ThreadRef) (w : BitVec 32)
  /-- A register of the context's own page is written, taking effect at issue + 64. (R68) -/
  | csrw (t : ThreadRef) (w : BitVec 32)
  /-- A predicated relative branch taken at no cycle cost. (R81) -/
  | br (t : ThreadRef) (w : BitVec 32)
  /-- A predicated relative branch that also writes the return address to s31. (R68) -/
  | call (t : ThreadRef) (w : BitVec 32)
  /-- A predicated branch to the address in rs1. (R68) -/
  | jr (t : ThreadRef) (w : BitVec 32)
  /-- A hardware loop is entered with the count held in a register. (R82) -/
  | loop (t : ThreadRef) (w : BitVec 32)
  /-- A hardware loop is entered with an immediate count. (R82) -/
  | loopi (t : ThreadRef) (w : BitVec 32)
  /-- The innermost loop is left without a decrement when the predicate holds. (R84) -/
  | exitif (t : ThreadRef) (w : BitVec 32)
  /-- The VEC no-operation. (R69) -/
  | vecNop (t : ThreadRef) (w : BitVec 64)
  /-- A Skim chain streams its operands through up to eight stages and writes the results back to the scratchpad. (R152) -/
  | chain (t : ThreadRef) (w : BitVec 64)
  /-- A Skim chain takes its first source from a Hod slot and may empty the slot at its last read. (R160) -/
  | chainh (t : ThreadRef) (w : BitVec 64)
  /-- Skim writes a scalar bit pattern to N rows of binary32. (R157) -/
  | fill (t : ThreadRef) (w : BitVec 64)
  /-- The MAT no-operation. (R70) -/
  | matNop (t : ThreadRef) (w : BitVec 64)
  /-- The loader fills a latch set, including its checksum strip, from a stationary tile. (R99) -/
  | loadw (t : ThreadRef) (w : BitVec 64)
  /-- Trowel streams rows against a latch set, updates the partial-sum region and optionally drains it into Hod. (R102) -/
  | pass (t : ThreadRef) (w : BitVec 64)
  /-- The LDX no-operation. (R71) -/
  | ldxNop (t : ThreadRef) (w : BitVec 64)
  /-- A load from memory to scratchpad lines is issued under a token. (R73) -/
  | ldxLd (t : ThreadRef) (w : BitVec 64)
  /-- A load is issued through Mitre, which transposes the tiles into Trowel row layout. (R162) -/
  | ldt (t : ThreadRef) (w : BitVec 64)
  /-- A kept tensor is loaded and unpacked from its keep format. (R169) -/
  | ldk (t : ThreadRef) (w : BitVec 64)
  /-- A far get from a peer is issued after its peer id is resolved in the active route set. (R231) -/
  | fget (t : ThreadRef) (w : BitVec 64)
  /-- The STX no-operation. (R72) -/
  | stxNop (t : ThreadRef) (w : BitVec 64)
  /-- Scratchpad lines are stored to memory under a token. (R73) -/
  | stxSt (t : ThreadRef) (w : BitVec 64)
  /-- Lines are stored with conversion to a target format. (R119) -/
  | stc (t : ThreadRef) (w : BitVec 64)
  /-- Lines are stored packed into a keep format. (R169) -/
  | stk (t : ThreadRef) (w : BitVec 64)
  /-- A far put is issued to a peer, or to every member of a group entry. (R231) -/
  | fput (t : ThreadRef) (w : BitVec 64)
  /-- The SYN no-operation. (R75) -/
  | synNop (t : ThreadRef) (w : BitVec 32)
  /-- The thread waits until a token is at or below N. (R76) -/
  | wait (t : ThreadRef) (w : BitVec 32)
  /-- The thread waits until every masked token is 0. (R75) -/
  | waitm (t : ThreadRef) (w : BitVec 32)
  /-- A context event is set. (R77) -/
  | evset (t : ThreadRef) (w : BitVec 32)
  /-- A context event is cleared. (R77) -/
  | evclr (t : ThreadRef) (w : BitVec 32)
  /-- The thread waits until an event is set. (R75) -/
  | evwait (t : ThreadRef) (w : BitVec 32)
  /-- The thread waits until an event is set, then clears it. (R77) -/
  | evwaitc (t : ThreadRef) (w : BitVec 32)
  /-- The thread waits until step S − K is sealed. (R78) -/
  | sealwait (t : ThreadRef) (w : BitVec 32)
  /-- The thread waits until the snapshot has copied the named range. (R79) -/
  | fenceCopy (t : ThreadRef) (w : BitVec 32)
  /-- The thread reaches a rotation point and waits. (R53) -/
  | rotate (t : ThreadRef) (w : BitVec 32)
  /-- A predicate receives the step overflow flag. (R80) -/
  | testovf (t : ThreadRef) (w : BitVec 32)
  /-- A predicate receives whether a token is zero. (R75) -/
  | testtok (t : ThreadRef) (w : BitVec 32)
  /-- The thread reaches phase token K and waits for the job agreement. (R240) -/
  | phase (t : ThreadRef) (w : BitVec 32)
  /-- An instruction residency entry is refilled from a region under a token. (R86) -/
  | ifill (t : ThreadRef) (w : BitVec 32)
  /-- Returning data is written to a bank from the arrival buffer; the last write of a load counts its token down. (R37) -/
  | arrivalWrite (p : PhysRef) (uid : Nat) (j : Nat)
  /-- A store acknowledgement reaches the panel, which returns its tag and may count the token down. (R196) -/
  | storeAck (p : PhysRef) (uid : Nat) (j : Nat)
  /-- The last source line of a tile reaches Mitre, which places its transposed rows in the arrival buffer. (R164) -/
  | mitreTileArrival (p : PhysRef)
  /-- Every thread of the panel is at a rotation point with the panel quiet, so the rotation points release. (R53) -/
  | rotationRelease (p : PhysRef)
  /-- The 4,096 cycles after a rotation release end, and the threads resume. (R55) -/
  | rotationQuiesceEnd (p : PhysRef)
  /-- The trailing sequencer disagrees, which stops the panel, faults its contexts and quarantines the panel. (R58) -/
  | seqMismatch (p : PhysRef)
  /-- The keeper starts the built-in test of a quarantined panel. (R59) -/
  | quarantineTest (p : PhysRef)
  /-- The quarantine test ends and the panel returns to service, becomes the spare, enters STANDBY or is RETIRED. (R59) -/
  | quarantineTestDone (p : PhysRef) (pass : Bool)
  /-- The 1,024-cycle bank scrub of a reset ends, and the context's panel resources are released. (R50) -/
  | contextScrubDone (slot : Fin 4096) (p : PhysRef)
  /-- An 8-byte doorbell write announces new ring entries or is discarded. (R257) -/
  | doorbell (page : Fin 8192) (off : Fin 4096) (len : Nat) (v : BitVec 64)
  /-- The module starts the next ring command once its ring order, FENCE and WEN conditions hold. (R266) -/
  | commandStart (r : RingRef)
  /-- A command completes, which writes its completion record, sets CEV and may raise its vector. (R267) -/
  | commandCompletion (r : RingRef) (seq : Nat) (out : RunOut)
  /-- MODTICK ticks pass after the first unsignalled record, and the ring raises its vector. (R268) -/
  | interruptModerationTimer (slot : Fin 4096) (r : Fin 4)
  /-- The no-operation command completes at start. (R270) -/
  | nopCmd (r : RingRef) (w : BitVec 512)
  /-- An EVENT command sets masked context events. (R271) -/
  | eventSet (r : RingRef) (w : BitVec 512)
  /-- An EVENT command clears masked context events. (R271) -/
  | eventClear (r : RingRef) (w : BitVec 512)
  /-- The command completes when every earlier command of the context has completed. (R271) -/
  | fence (r : RingRef) (w : BitVec 512)
  /-- A range is copied between context addresses. (R274) -/
  | copy (r : RingRef) (w : BitVec 512)
  /-- A program image's requirement block is checked and the chain table registers are set. (R272) -/
  | progLoad (r : RingRef) (w : BitVec 512)
  /-- A thread set is assigned to a panel with its resources, roller positions and residency fills. (R273) -/
  | launch (r : RingRef) (w : BitVec 512)
  /-- Every launched thread has stopped with its work complete, so the DONE record is written. (R273) -/
  | launchDone (slot : Fin 4096) (seq : Nat)
  /-- A gather reads shards from the participants into local memory, with retain class NONE. (R275) -/
  | gather (r : RingRef) (w : BitVec 512)
  /-- A gather also retains its tensor in the pool under a retention slot and tag. (R177) -/
  | gatherRetain (r : RingRef) (w : BitVec 512)
  /-- A gather uses the retained tensor, or re-gathers if the slot is DROPPED. (R177) -/
  | gatherReuse (r : RingRef) (w : BitVec 512)
  /-- A gather with class FREE frees a retention slot's granules. (R177) -/
  | retainFree (r : RingRef) (w : BitVec 512)
  /-- Local shards are written to the participants. (R275) -/
  | scatter (r : RingRef) (w : BitVec 512)
  /-- Cumulus reduces a tensor across the participants and every participant receives every chunk. (R244) -/
  | allreduce (r : RingRef) (w : BitVec 512)
  /-- Cumulus reduces a tensor and each participant keeps its own chunk. (R244) -/
  | reduceScatter (r : RingRef) (w : BitVec 512)
  /-- A route set table is copied into the H-die route store. (R239) -/
  | routeLoad (r : RingRef) (w : BitVec 512)
  /-- A route set is made pending for activation at a phase token. (R241) -/
  | redraw (r : RingRef) (w : BitVec 512)
  /-- Every retention slot bearing a micro-batch tag is freed. (R178) -/
  | tagRelease (r : RingRef) (w : BitVec 512)
  /-- A step opens, which protects and mirrors its replay buffers and records its settings. (R281) -/
  | stepOpen (r : RingRef) (w : BitVec 512)
  /-- A step closes after the seal of step n − 2 and its work complete, and requests its snapshot. (R283) -/
  | stepClose (r : RingRef) (w : BitVec 512)
  /-- A state region is added to the context. (R284) -/
  | stateDeclareAdd (r : RingRef) (w : BitVec 512)
  /-- A state region is removed, taking effect at the next STEP_CLOSE. (R284) -/
  | stateDeclareRemove (r : RingRef) (w : BitVec 512)
  /-- The module writes its own unit descriptor. (R276) -/
  | queryDescriptor (r : RingRef) (w : BitVec 512)
  /-- The group descriptor obtained from the group's head is written. (R276) -/
  | queryGroup (r : RingRef) (w : BitVec 512)
  /-- The handles of all 4,096 slots are written. (R276) -/
  | queryHandles (r : RingRef) (w : BitVec 512)
  /-- A context is created from a create block in the longest-free slot. (R269) -/
  | ctxCreate (r : RingRef) (w : BitVec 512)
  /-- A context is reset if LIVE, reports DIRTY for its unsealed steps and its slot becomes FREE. (R412) -/
  | ctxDestroy (r : RingRef) (w : BitVec 512)
  /-- The host resets a context with cause HOST_RESET. (R261) -/
  | ctxReset (r : RingRef) (w : BitVec 512)
  /-- A HALTED context becomes LIVE and starts any replay of logged commands. (R302) -/
  | ctxResume (r : RingRef) (w : BitVec 512)
  /-- The last logged command has started, and the ledger writes one record per ring. (R302) -/
  | replayEnd (slot : Fin 4096)
  /-- Context pages are mapped, and pinned if requested, all or none. (R272) -/
  | memMap (r : RingRef) (w : BitVec 512)
  /-- Context pages are unmapped once no request that translated through them is outstanding. (R265) -/
  | memUnmap (r : RingRef) (w : BitVec 512)
  /-- The host takes the scaffold for margining. (R277) -/
  | scaffoldAcquire (r : RingRef) (w : BitVec 512)
  /-- The host releases the scaffold it holds for margining. (R277) -/
  | scaffoldRelease (r : RingRef) (w : BitVec 512)
  /-- A scaffold RUN performs the built-in test of the module or of a panel. (R359) -/
  | builtInTest (r : RingRef) (w : BitVec 512)
  /-- A scaffold RUN scrubs a stack, Tier B or a stratum. (R359) -/
  | scrub (r : RingRef) (w : BitVec 512)
  /-- A scaffold RUN copies one generation to the other on a stack. (R359) -/
  | undercoatCopy (r : RingRef) (w : BitVec 512)
  /-- A scaffold RUN makes a stack's soft repairs hard. (R359) -/
  | postPackageRepair (r : RingRef) (w : BitVec 512)
  /-- A scaffold RUN retrains a die window, Tier B or a port, and maps out FAILED channels or packages. (R209) -/
  | retrain (r : RingRef) (w : BitVec 512)
  /-- A scaffold RUN takes a Weathervane measurement. (R360) -/
  | weathervaneMeasurement (r : RingRef) (w : BitVec 512)
  /-- A scaffold RUN runs one swatch slot on a physical panel. (R338) -/
  | swatchRun (r : RingRef) (w : BitVec 512)
  /-- A scaffold RUN arms the activation of the inactive firmware image. (R371) -/
  | firmwareActivation (r : RingRef) (w : BitVec 512)
  /-- The buddies of a job context are named and its generations are streamed to new ones. (R292) -/
  | buddySet (r : RingRef) (w : BitVec 512)
  /-- A HALTED context's declared state is returned to a sealed step's generation. (R301) -/
  | rollback (r : RingRef) (w : BitVec 512)
  /-- State is restored from a local generation. (R303) -/
  | restoreLocal (r : RingRef) (w : BitVec 512)
  /-- State is restored from a buddy's Lining copy and the copies are re-keyed. (R303) -/
  | restoreBuddy (r : RingRef) (w : BitVec 512)
  /-- State is restored from a host readout stream. (R303) -/
  | restoreHost (r : RingRef) (w : BitVec 512)
  /-- A sealed generation is streamed to host memory as a durable checkpoint. (R308) -/
  | readout (r : RingRef) (w : BitVec 512)
  /-- Writing HST_ARCTL.EN from 0 to 1 resets the admin ring and enables it. (R268) -/
  | adminRingEnable (w : BitVec 32)
  /-- Writing HST_ARCTL.EN to 0 stops the admin ring from starting commands. (R268) -/
  | adminRingDisable (w : BitVec 32)
  /-- The snapshot of a closed step starts once the previous step is sealed and no readout holds the generation. (R285) -/
  | snapshotStart (slot : Fin 4096)
  /-- The snapshot retries a refused stack scaffold every 100 ticks. (R290) -/
  | snapshotScaffoldRetry (slot : Fin 4096) (stack : Fin 8)
  /-- Undercoat completes a 4 MiB chunk, digests it and streams it to the buddies. (R287) -/
  | chunkComplete (slot : Fin 4096) (stack : Fin 8)
  /-- The last block is copied and the manifest is written. (R288) -/
  | snapshotComplete (slot : Fin 4096)
  /-- A write held by push-ahead proceeds once its state block has been copied. (R289) -/
  | heldWriteRelease (slot : Fin 4096) (k : Nat)
  /-- A buddy receives a mirrored chunk, checks its digest and stores the copy at shard completion. (R294) -/
  | liningChunkReceive (x : LinIn)
  /-- A buddy's acknowledgement of buffers, log entries or a snapshot arrives. (R294) -/
  | buddyAck (at_ : JobVia) (unit : Nat) (m : BuddyMsg)
  /-- A member reaches CLEAN or DIRTY for a step and reports it up the seal tree. (R297) -/
  | sealReport (slot : Fin 4096) (step : Nat)
  /-- A child's seal report arrives, and peer id 0 decides once every report is in. (R298) -/
  | sealReportArrival (at_ : JobVia) (step : Nat) (peer : Nat) (clean : Bool)
  /-- A SEALED or REFUSED decision reaches a member. (R299) -/
  | sealDecision (at_ : JobVia) (step : Nat) (sealed : Bool)
  /-- Sander takes the scaffold and sweeps the next 1 GiB segment, or skips it. (R202) -/
  | sanderSegment (found : List ErrLine)
  /-- A controller starts retraining a channel on a corrected-error or temperature condition. (R208) -/
  | channelRetrain (stack : Fin 8) (ch : Fin 32)
  /-- The controller checks again 1,000,000 ticks after a refused scaffold. (R208) -/
  | channelRetrainRetry (stack : Fin 8) (ch : Fin 32)
  /-- The retrain ends and the fallback is written back, so the channel returns to IN_SERVICE or becomes FAILED. (R207) -/
  | channelRetrainDone (stack : Fin 8) (ch : Fin 32) (pass : Bool)
  /-- A controller loses a channel's interface and the channel becomes FAILED. (R207) -/
  | channelFail (stack : Fin 8) (ch : Fin 32)
  /-- A Tier B package loses training or exceeds 64 uncorrectable errors and fails. (R210) -/
  | tierBPackageFail (pkg : Fin 24)
  /-- The stack and package temperatures are read every 1,000 ticks. (R183) -/
  | memoryTempRead (hbms : List Int) (pkgs : List Int)
  /-- Writing MRG_CTL.START starts a margin run, or sets STATUS REFUSED. (R213) -/
  | marginStart (w : BitVec 32)
  /-- A margin run ends and its per-lane results are recorded. (R213) -/
  | marginDone (lanes : List (BitVec 32))
  /-- A Griand port completes training, negotiates versions and sends HELLO. (R222) -/
  | portTrainingComplete (port : Fin 6) (t : PortTrain)
  /-- A leaf switch's Horizon answer arrives and the port is classified. (R224) -/
  | horizonAnswer (port : Fin 6) (a : HznAns)
  /-- A Horizon run does not complete within 100 µs, and the port counts as not answering. (R222) -/
  | horizonTimeout (port : Fin 6)
  /-- A flit fails its CRC or holds an uncorrectable codeword and is replayed. (R218) -/
  | griandFlitFail (port : Fin 6) (again : Bool) (cw : Nat)
  /-- No valid flit arrives for 2 µs and the port is declared DOWN. (R218) -/
  | portLivenessTimeout (port : Fin 6)
  /-- A DOWN port retries training every 1,000,000 ticks. (R251) -/
  | portRetrainRetry (port : Fin 6)
  /-- A group discovery request arrives and the head answers with the aggregated descriptor. (R25) -/
  | discoveryRequest (len : Fin 21) (value : BitVec 20) (requester : Nat)
  /-- A packet arrives at the destination port engine and is acknowledged, written, read, refused or discarded. (R232) -/
  | packetArrival (port : Option (Fin 6)) (h : PktHdr) (p : InPkt)
  /-- A receipt acknowledgement arrives and stops retransmission. (R232) -/
  | receiptAck (seq : Nat)
  /-- A completion acknowledgement arrives and may count a far put's token down. (R232) -/
  | completionAck (seq : Nat) (refused : Bool) (data : List (BitVec 8)) (poison : List Bool)
  /-- A packet lacks a receipt 10 µs after sending and is resent, or the destination becomes FAR_UNREACHABLE. (R237) -/
  | retransmitTimer (seq : Nat)
  /-- A phase agreement report arrives in the tree. (R241) -/
  | phaseReport (at_ : JobVia) (step : Nat) (k : Nat) (peer : Nat) (said : PhaseSays)
  /-- The job agreement on (step, K) reaches a member, which activates any REDRAW and resumes PHASE threads. (R241) -/
  | phaseAgreement (at_ : JobVia) (step : Nat) (k : Nat) (said : PhaseSays)
  /-- A contribution arrives at the chunk owner and is accumulated exactly; after N of them the owner rounds and emits the chunk. (R245) -/
  | cumulusContribution (at_ : JobVia) (x : ContribIn)
  /-- An output chunk arrives, is written and its digest lane is checked. (R247) -/
  | cumulusChunk (at_ : JobVia) (x : ChunkIn)
  /-- Every PERIOD ticks the port engine sends a heartbeat to its send set. (R321) -/
  | heartbeatSend
  /-- A heartbeat arrives from a watched peer and may raise PEER_BACK. (R322) -/
  | heartbeatArrival (x : HbIn)
  /-- A watched plane passes MISS × PERIOD ticks without a heartbeat and becomes LOST, raising PEER_PATH or PEER_SILENT. (R322) -/
  | heartbeatMiss (src : Nat) (plane : Fin 3)
  /-- A Squall frame arrives and resets the job's LIVE context, or is ignored. (R315) -/
  | squallReceive (x : SquallIn)
  /-- A thread wait reaches the sync-wait limit and faults the context. (R318) -/
  | waitLimit (slot : Fin 4096)
  /-- A step interval reaches the step-progress limit and faults the context. (R319) -/
  | stepLimit (slot : Fin 4096)
  /-- Every 1,000 ticks the keeper polls the dies and panels and escalates a stuck module. (R330) -/
  | keeperPoll (silent : List (Fin 4)) (hub : Bool)
  /-- A context reset not HALTED within CTXTO escalates to a die reset. (R330) -/
  | contextResetTimeout (slot : Fin 4096)
  /-- An operating hour passes, which writes the count to flash, reclassifies units and takes hourly measurements. (R361) -/
  | operatingHour (xs : List WvIn)
  /-- The spare starts the next installed swatch slot, cycling continuously. (R338) -/
  | spareSwatch (p : PhysRef)
  /-- An ACTIVE panel unowned for 1,000,000 ticks starts swatches. (R338) -/
  | idleSwatch (p : PhysRef)
  /-- The die does not reach a band within TMAX, which ends the run as BAND_MISS. (R338) -/
  | swatchBandMiss (p : PhysRef)
  /-- A swatch run ends with PASS, FAIL or ABORT and makes a history entry. (R338) -/
  | swatchResult (p : PhysRef) (r : SwOut)
  /-- Writing CTX_CONTRAIL.ROLE sets LEADER or SHADOW, or ends shadowing with NONE. (R339) -/
  | contrailRoleWrite (slot : Fin 4096) (w : BitVec 32)
  /-- A line the leader's port engine wrote arrives at the shadow and is written there. (R340) -/
  | shadowMirrorLine (at_ : JobVia) (m : ShadowMsg)
  /-- The shadow's shard digest arrives at the leader, which returns MATCH or DIFFER. (R341) -/
  | contrailDigest (at_ : JobVia) (step : Nat) (digest : List (BitVec 8))
  /-- MATCH or DIFFER arrives at the shadow, which advances MATCH or ends shadowing. (R341) -/
  | contrailResult (at_ : JobVia) (step : Nat) (same : Bool)
  /-- KPR_PWR requests CLEAR, waking from HAZE, DUSK or NIGHT. (R344) -/
  | powerRequestClear (w : BitVec 32)
  /-- KPR_PWR requests HAZE, entered when no panel is busy. (R345) -/
  | powerRequestHaze (w : BitVec 32)
  /-- KPR_PWR requests DUSK, which puts ports in Drizzle, memories in self refresh and power-gates the C-dies. (R346) -/
  | powerRequestDusk (w : BitVec 32)
  /-- KPR_PWR requests NIGHT, optionally with FORCE. (R344) -/
  | powerRequestNight (w : BitVec 32)
  /-- No bundle has issued for IDLE ticks and the module is quiet, so HAZE is entered. (R345) -/
  | autoHaze
  /-- A plan record is loaded through the mailbox and Horizon runs again. (R223) -/
  | planLoad
  /-- A mailbox chunk is written to the inactive firmware slot or a swatch slot. (R370) -/
  | imgChunk (tgt : BitVec 8)
  /-- A mailbox commit verifies an image and marks its slot valid. (R370) -/
  | imgCommit (tgt : BitVec 8)
  /-- The mailbox arms activation of the inactive firmware image. (R371) -/
  | fwActivate
  /-- At the first context-free point the active slot switches and the keeper restarts. (R371) -/
  | fwActivationPoint
  /-- The timeout passes before a context-free point, and activation is disarmed. (R371) -/
  | fwActivationTimeout
  /-- The new image fails to reach keeper-ready within 2 s, and the keeper returns to the old image. (R371) -/
  | fwRevert
  /-- The operator-key digest is fused. (R362) -/
  | opkeyFuse
  /-- The firmware minimum security version is raised. (R362) -/
  | fwminFuse
  /-- The debug seal is armed for 1,000,000 ticks. (R362) -/
  | sealArm
  /-- The arm window passes and ARMED clears. (R362) -/
  | sealArmExpiry
  /-- The debug seal is blown while armed. (R362) -/
  | sealBlow
  /-- The mailbox RESET with TGT 0 performs a module reset. (R348) -/
  | mailboxResetModule
  /-- The mailbox RESET with TGT 1 to 4 performs a die reset. (R348) -/
  | mailboxResetDie (d : Fin 4)
  /-- An orderly shutdown tests the blocks, records the result and sets OFFOK. (R354) -/
  | shutdown (t : TestOut)
  /-- The I3C CCC that assigns a dynamic address. (R364) -/
  | entdaa (addr : BitVec 7)
  /-- The I3C CCC that sets a new dynamic address. (R364) -/
  | setnewda (addr : BitVec 7)
  /-- The I3C CCC that resets the dynamic address. (R365) -/
  | rstdaa
  /-- The I3C CCC that returns the provisioned identity. (R365) -/
  | getpid
  /-- The I3C CCC that returns BCR 0x06. (R365) -/
  | getbcr
  /-- The I3C CCC that returns DCR 0x00. (R365) -/
  | getdcr
  /-- The I3C CCC that returns target status. (R365) -/
  | getstatus
  /-- The I3C CCC that enables target events. (R365) -/
  | enec (ev : BitVec 8)
  /-- The I3C CCC that disables target events. (R365) -/
  | disec (ev : BitVec 8)
  /-- The I3C CCC that sets the maximum read length. (R365) -/
  | setmrl (len : BitVec 16)
  /-- The I3C CCC that returns the maximum read length. (R365) -/
  | getmrl
  /-- The I3C CCC that sets the maximum write length. (R365) -/
  | setmwl (len : BitVec 16)
  /-- The I3C CCC that returns the maximum write length. (R365) -/
  | getmwl
  /-- The I3C CCC whose action 0x01 performs a module reset or ends HOLD; other actions are NACKed. (R365) -/
  | rstact (action : BitVec 8)
  /-- An I3C private write of an offset and data writes 32-bit registers. (R367) -/
  | i3cPrivateWrite (data : List (BitVec 8))
  /-- An I3C private read returns registers from the written offset onward. (R367) -/
  | i3cPrivateRead (n : Nat)
  /-- The tray controller writes FAB_FDTRAY and FAB_FDPWR once per power-on. (R226) -/
  | fdTagWrite (tray : BitVec 32) (pwr : BitVec 32)
  /-- The boundary-scan EXTEST instruction, effective only in HOLD, NIGHT or with PERST_N low. (R378) -/
  | extest (cells : BitVec 17)
  /-- The boundary-scan instruction that returns 0x1743_25AD. (R378) -/
  | idcode
  /-- The boundary-scan SAMPLE/PRELOAD instruction. (R378) -/
  | samplePreload (cells : BitVec 17)
  /-- The boundary-scan BYPASS instruction. (R378) -/
  | bypass
  /-- Writing 1 to CTX_HAZLOGSTAT.CLR empties the hazard log and zeroes OVF. (R49) -/
  | hazlogstatClr (slot : Fin 4096)
  /-- Writing 1 to CTX_ILLSTAT.CLR empties the illegal-slot log and zeroes OVF. (R90) -/
  | illstatClr (slot : Fin 4096)
  /-- Writing 1 to CTX_STRIPSTAT.CLR empties the strip log and zeroes OVF. (R113) -/
  | stripstatClr (slot : Fin 4096)
  /-- Writing 1 to CTX_NUMCTL.CLRCNT zeroes the context numeric counters. (R139) -/
  | clrcnt (slot : Fin 4096) (w : BitVec 32)
  /-- Writing 1 to MEM_LOGSTAT.CLR empties the memory error log. (R203) -/
  | memLogstatClr (pg : LogPage)
  /-- Writing 1 to KPR_EVSTAT.CLR empties the keeper event log. (R331) -/
  | kprEvstatClr
  /-- Writing 1 to CTX_FAULTSTAT.CLR empties the context fault log. (R311) -/
  | faultstatClr (slot : Fin 4096)
  /-- Writing PNL_FMCTL.RETIRE retires a spare or STANDBY panel at once, or a serving panel at its next rotation release. (R335) -/
  | pnlFmctlRetire (p : PhysRef) (w : BitVec 32)
  /-- Writing 1 to PG_CTRL.ERRTEST sets PG_ERRSUM.TEST. (R402) -/
  | errtest (page : Fin 65536)
  /-- A W1C write clears bits of PG_ERRSUM. (R402) -/
  | errsumClear (page : Fin 65536) (w : BitVec 32)
  /-- A read of an _LO register returns the low word and captures the high word for the requester. (R397) -/
  | pairLoRead (r : Req) (off : Fin 268435456)
  /-- A read of an _HI register returns the capture, or the live high word. (R397) -/
  | pairHiRead (r : Req) (off : Fin 268435456)
  /-- A write to an RW _LO register is held until the matching _HI write. (R398) -/
  | pairLoWrite (r : Req) (off : Fin 268435456) (v : BitVec 32)
  /-- A write to an RW _HI register commits a held _LO write with it. (R398) -/
  | pairHiWrite (r : Req) (off : Fin 268435456) (v : BitVec 32)
  /-- A BAR0 access of the wrong size or alignment returns zeros or is discarded and counted. (R394) -/
  | malformedAccess (write : Bool) (off : Fin 268435456) (len : Nat)
  /-- A write to a register with no row of its own takes effect in one K cycle, subject to the field's limits. (R395) -/
  | registerWrite (r : Req) (off : Fin 268435456) (v : BitVec 32)
  /-- The Zenith PLL achieves lock, letting start phase 2 proceed and moving the tick counter back to its Zenith source. (R351) -/
  | zenithLock
  /-- A firmware image reaches keeper-ready, ending start phase 1 or completing a firmware activation restart. (R369) -/
  | keeperReady
  /-- A timed start phase (die-to-die training, memory training, Griand training) ends and the start sequence moves on, reaching CLEAR at phase 9. (R351) -/
  | startPhaseComplete (o : PhaseOut)
  /-- A die reset ends within 100 ms, the die serves its pages again and a DIE_RESET module event reports the result. (R330) -/
  | dieResetComplete (d : Fin 4) (ok : Bool) (x : StrapRead) (links : List LinkTrain)
  /-- A power-state transition finishes, so KPR_PWR.BUSY clears and STATE shows the new state. (R343) -/
  | powerTransitionComplete
  /-- The controllers write the next uninitialised 2 MiB page with zeros and valid codes, in Lining, spare and ascending order. (R350) -/
  | memoryInitialisation
  /-- After an overvoltage turn-off, the input falls below 60.5 V and the module restarts. (R379) -/
  | overvoltageRestart
  /-- A memory controller acknowledges a write in its write queue or completes a read for a non-panel requester such as the port engine or a command. (R196) -/
  | controllerAcknowledgement (uid : Nat) (id : Nat)
  /-- A Griand port that has sent nothing for 0.25 µs sends an idle flit. (R218) -/
  | idleFlit (port : Fin 6)
  /-- The test access port enters test-logic reset through TRST_N or TMS, loading IDCODE into the instruction register. (R378) -/
  | testLogicReset
  deriving DecidableEq, Repr

end Sys2Proof
end

