-- ==== Sys2Proof/WellFormed.lean ====
section
/-! DEFINITION. Which terms of `Instr` are commands the spec describes: operands within the ranges and shapes that the tables give
them. The meanings are defined on every term. -/

namespace Sys2Proof

/-- Is an access of the wrong size or alignment (R394)? -/
def badSize (off len : Nat) : Bool := !(len == 4 && off % 4 == 0) && !(len == 8 && off % 8 == 0)

/-- A unit address has 20 bits (R220). -/
def unitOk (u : Nat) : Bool := decide (u < 2 ^ 20)

/-- Data in 64-byte lines, each with its poison mark. -/
def linesOk (data : List (BitVec 8)) (poison : List Bool) : Bool := decide (poison.length = (data.length + 63) / 64)

/-- The content of a packet that arrives. -/
def packetOk : InPkt → Bool
  | .put _ data poison => linesOk data poison
  | .get _ _ => true
  | .descriptor _ data _ => data.length == 64

/-- A reading names eleven rails, five dies and rails 0 to 10 (Tables 14-6, 14-10). -/
def sensorsOk (x : Sensors) : Bool := x.rails.length == 11 && x.dies.length == 5 && x.bad.all fun n => decide (n < 11)

/-- Is a term a command of the spec? -/
def Instr.wf : Instr → Bool
  | .powerOnReset _ => true
  | .inputUndervoltage => true
  | .inputOvervoltage => true
  | .prsntNOpen => true
  | .railFault _ => true
  | .thermalTrip => true
  | .fast => true
  | .fastExpiry => true
  | .sensorReading x => sensorsOk x
  | .mateLoopChange _ => true
  | .perstNAssert => true
  | .perstNDeassert => true
  | .functionLevelReset => true
  | .zenithLockLoss => true
  | .zenithLockTimeout => true
  | .d2dCrcFail _ _ => true
  | .bistWindowTimeout _ _ => true
  | .bistWindowLost _ _ => true
  | .startTestDone _ => true
  | .bootAttemptTimeout => true
  | .bundleIssue _ _ => true
  | .threadResume _ => true
  | .sclNop _ _ => true
  | .add _ _ => true
  | .sub _ _ => true
  | .andOp _ _ => true
  | .orOp _ _ => true
  | .xorOp _ _ => true
  | .shl _ _ => true
  | .shr _ _ => true
  | .sra _ _ => true
  | .mul _ _ => true
  | .addi _ _ => true
  | .andi _ _ => true
  | .lui _ _ => true
  | .shli _ _ => true
  | .ori _ _ => true
  | .cmp _ _ => true
  | .sclLd _ _ => true
  | .sclSt _ _ => true
  | .ldsp _ _ => true
  | .stsp _ _ => true
  | .dfill _ _ => true
  | .dwb _ _ => true
  | .mova _ _ => true
  | .tick _ _ => true
  | .csrr _ _ => true
  | .csrw _ _ => true
  | .br _ _ => true
  | .call _ _ => true
  | .jr _ _ => true
  | .loop _ _ => true
  | .loopi _ _ => true
  | .exitif _ _ => true
  | .vecNop _ _ => true
  | .chain _ _ => true
  | .chainh _ _ => true
  | .fill _ _ => true
  | .matNop _ _ => true
  | .loadw _ _ => true
  | .pass _ _ => true
  | .ldxNop _ _ => true
  | .ldxLd _ _ => true
  | .ldt _ _ => true
  | .ldk _ _ => true
  | .fget _ _ => true
  | .stxNop _ _ => true
  | .stxSt _ _ => true
  | .stc _ _ => true
  | .stk _ _ => true
  | .fput _ _ => true
  | .synNop _ _ => true
  | .wait _ _ => true
  | .waitm _ _ => true
  | .evset _ _ => true
  | .evclr _ _ => true
  | .evwait _ _ => true
  | .evwaitc _ _ => true
  | .sealwait _ _ => true
  | .fenceCopy _ _ => true
  | .rotate _ _ => true
  | .testovf _ _ => true
  | .testtok _ _ => true
  | .phase _ _ => true
  | .ifill _ _ => true
  | .arrivalWrite _ _ _ => true
  | .storeAck _ _ _ => true
  | .mitreTileArrival _ => true
  | .rotationRelease _ => true
  | .rotationQuiesceEnd _ => true
  | .seqMismatch _ => true
  | .quarantineTest _ => true
  | .quarantineTestDone _ _ => true
  | .contextScrubDone _ _ => true
  | .doorbell _ _ _ _ => true
  | .commandStart _ => true
  | .commandCompletion _ _ _ => true
  | .interruptModerationTimer _ _ => true
  | .nopCmd _ _ => true
  | .eventSet _ _ => true
  | .eventClear _ _ => true
  | .fence _ _ => true
  | .copy _ _ => true
  | .progLoad _ _ => true
  | .launch _ _ => true
  | .launchDone _ _ => true
  | .gather _ _ => true
  | .gatherRetain _ _ => true
  | .gatherReuse _ _ => true
  | .retainFree _ _ => true
  | .scatter _ _ => true
  | .allreduce _ _ => true
  | .reduceScatter _ _ => true
  | .routeLoad _ _ => true
  | .redraw _ _ => true
  | .tagRelease _ _ => true
  | .stepOpen _ _ => true
  | .stepClose _ _ => true
  | .stateDeclareAdd _ _ => true
  | .stateDeclareRemove _ _ => true
  | .queryDescriptor _ _ => true
  | .queryGroup _ _ => true
  | .queryHandles _ _ => true
  | .ctxCreate _ _ => true
  | .ctxDestroy _ _ => true
  | .ctxReset _ _ => true
  | .ctxResume _ _ => true
  | .replayEnd _ => true
  | .memMap _ _ => true
  | .memUnmap _ _ => true
  | .scaffoldAcquire _ _ => true
  | .scaffoldRelease _ _ => true
  | .builtInTest _ _ => true
  | .scrub _ _ => true
  | .undercoatCopy _ _ => true
  | .postPackageRepair _ _ => true
  | .retrain _ _ => true
  | .weathervaneMeasurement _ _ => true
  | .swatchRun _ _ => true
  | .firmwareActivation _ _ => true
  | .buddySet _ _ => true
  | .rollback _ _ => true
  | .restoreLocal _ _ => true
  | .restoreBuddy _ _ => true
  | .restoreHost _ _ => true
  | .readout _ _ => true
  | .adminRingEnable _ => true
  | .adminRingDisable _ => true
  | .snapshotStart _ => true
  | .snapshotScaffoldRetry _ _ => true
  | .chunkComplete _ _ => true
  | .snapshotComplete _ => true
  | .heldWriteRelease _ _ => true
  | .liningChunkReceive x => unitOk x.via.hdr.src
  | .buddyAck x unit _ => unitOk x.via.hdr.src && unitOk unit
  | .sealReport _ _ => true
  | .sealReportArrival x _ peer _ => unitOk x.via.hdr.src && unitOk peer
  | .sealDecision x _ _ => unitOk x.via.hdr.src
  | .sanderSegment _ => true
  | .channelRetrain _ _ => true
  | .channelRetrainRetry _ _ => true
  | .channelRetrainDone _ _ _ => true
  | .channelFail _ _ => true
  | .tierBPackageFail _ => true
  | .memoryTempRead hbms pkgs => hbms.length == 8 && pkgs.length == 24
  | .marginStart _ => true
  | .marginDone _ => true
  | .portTrainingComplete _ _ => true
  | .horizonAnswer _ _ => true
  | .horizonTimeout _ => true
  | .griandFlitFail _ _ _ => true
  | .portLivenessTimeout _ => true
  | .portRetrainRetry _ => true
  | .discoveryRequest _ _ requester => unitOk requester
  | .packetArrival _ h p => unitOk h.src && packetOk p
  | .receiptAck _ => true
  | .completionAck _ _ data poison => linesOk data poison
  | .retransmitTimer _ => true
  | .phaseReport x _ k peer _ => unitOk x.via.hdr.src && decide (k < 256) && unitOk peer
  | .phaseAgreement x _ k _ => unitOk x.via.hdr.src && decide (k < 256)
  | .cumulusContribution x _ => unitOk x.via.hdr.src
  | .cumulusChunk x _ => unitOk x.via.hdr.src
  | .heartbeatSend => true
  | .heartbeatArrival x => unitOk x.src
  | .heartbeatMiss src _ => unitOk src
  | .squallReceive x => unitOk x.origin
  | .waitLimit _ => true
  | .stepLimit _ => true
  | .keeperPoll silent _ => decide silent.Nodup
  | .contextResetTimeout _ => true
  | .operatingHour _ => true
  | .spareSwatch _ => true
  | .idleSwatch _ => true
  | .swatchBandMiss _ => true
  | .swatchResult _ _ => true
  | .contrailRoleWrite _ _ => true
  | .shadowMirrorLine x _ => unitOk x.via.hdr.src
  | .contrailDigest x _ digest => unitOk x.via.hdr.src && digest.length == 32
  | .contrailResult x _ _ => unitOk x.via.hdr.src
  | .powerRequestClear _ => true
  | .powerRequestHaze _ => true
  | .powerRequestDusk _ => true
  | .powerRequestNight _ => true
  | .autoHaze => true
  | .planLoad => true
  | .imgChunk _ => true
  | .imgCommit _ => true
  | .fwActivate => true
  | .fwActivationPoint => true
  | .fwActivationTimeout => true
  | .fwRevert => true
  | .opkeyFuse => true
  | .fwminFuse => true
  | .sealArm => true
  | .sealArmExpiry => true
  | .sealBlow => true
  | .mailboxResetModule => true
  | .mailboxResetDie _ => true
  | .shutdown _ => true
  | .entdaa _ => true
  | .setnewda _ => true
  | .rstdaa => true
  | .getpid => true
  | .getbcr => true
  | .getdcr => true
  | .getstatus => true
  | .enec _ => true
  | .disec _ => true
  | .setmrl _ => true
  | .getmrl => true
  | .setmwl _ => true
  | .getmwl => true
  | .rstact _ => true
  | .i3cPrivateWrite data => decide (4 ≤ data.length ∧ data.length ≤ 64 ∧ data.length % 4 = 0)
  | .i3cPrivateRead n => decide (1 ≤ n ∧ n ≤ 64)
  | .fdTagWrite _ _ => true
  | .extest _ => true
  | .idcode => true
  | .samplePreload _ => true
  | .bypass => true
  | .hazlogstatClr _ => true
  | .illstatClr _ => true
  | .stripstatClr _ => true
  | .clrcnt _ _ => true
  | .memLogstatClr _ => true
  | .kprEvstatClr => true
  | .faultstatClr _ => true
  | .pnlFmctlRetire _ _ => true
  | .errtest _ => true
  | .errsumClear _ _ => true
  | .pairLoRead _ off => off.val % 4 == 0
  | .pairHiRead _ off => off.val % 4 == 0
  | .pairLoWrite _ off _ => off.val % 4 == 0
  | .pairHiWrite _ off _ => off.val % 4 == 0
  | .malformedAccess _ off len => badSize off.val len
  | .registerWrite _ off _ => off.val % 4 == 0
  | .zenithLock => true
  | .keeperReady => true
  | .startPhaseComplete o => o.straps.isEmpty || o.straps.length == 4
  | .dieResetComplete d _ _ links => links.all fun t => t.port.val / 3 == d.val || decide (12 ≤ t.port.val)
  | .powerTransitionComplete => true
  | .memoryInitialisation => true
  | .overvoltageRestart => true
  | .controllerAcknowledgement _ _ => true
  | .idleFlit _ => true
  | .testLogicReset => true

end Sys2Proof
end

