-- ==== Sys2Proof/Machine/Numerics.lean ====
section
/-! DEFINITION. Training numerics (spec 05): element formats and their exact decoding (R115, R116), the five rounding
modes and overflow (R122, R123), stochastic rounding (R124), the rounding generator (R126, R127), MX block
conversion (R121), the SPLIT32 split and join (R131, R133, R134) and the numeric events (R135).

Every finite value the module reads is an integer multiple of `2 ^ -149`; a product of two is an integer multiple of
`2 ^ -298` (R130). Exact values are therefore held as integers. -/

namespace Sys2Proof.Machine

/-- The numeric events of R135, in its order. -/
inductive NumEv where
  | ovf | nan | unf | sat
  deriving DecidableEq, Repr

/-- Counts of the four numeric events. -/
structure NumCounts where
  ovf : Nat
  nan : Nat
  unf : Nat
  sat : Nat
  deriving DecidableEq, Repr, Inhabited

/-- No events. -/
def NumCounts.zero : NumCounts := ⟨0, 0, 0, 0⟩

/-- One event more. -/
def NumCounts.bump (c : NumCounts) : Option NumEv → NumCounts
  | none => c
  | some .ovf => { c with ovf := c.ovf + 1 }
  | some .nan => { c with nan := c.nan + 1 }
  | some .unf => { c with unf := c.unf + 1 }
  | some .sat => { c with sat := c.sat + 1 }

/-- Two tallies together. -/
def NumCounts.plus (a b : NumCounts) : NumCounts :=
  ⟨a.ovf + b.ovf, a.nan + b.nan, a.unf + b.unf, a.sat + b.sat⟩

/-- A decoded element (R116): a NaN, an infinity, a signed zero, or the finite nonzero value `n * 2 ^ -149`. -/
inductive FV where
  | nan
  | inf (neg : Bool)
  | zero (neg : Bool)
  | fin (n : Int)
  deriving DecidableEq, Repr

/-- The floating formats of Table 5-1, by their field widths and special patterns. -/
structure FFmt where
  /-- Exponent bits. -/
  eb : Nat
  /-- Fraction bits. -/
  fb : Nat
  /-- Exponent bias. -/
  bias : Nat
  /-- Exponent all ones holds the infinities (fraction 0) and the NaNs. -/
  ieee : Bool
  /-- E4M3: exponent and fraction all ones are NaN, and there is no infinity. -/
  ofn : Bool
  deriving DecidableEq, Repr

/-- binary32. -/
def fB32 : FFmt := ⟨8, 23, 127, true, false⟩
/-- binary16. -/
def fB16 : FFmt := ⟨5, 10, 15, true, false⟩
/-- bfloat16. -/
def fBF16 : FFmt := ⟨8, 7, 127, true, false⟩
/-- FP8 E4M3. -/
def fE4M3 : FFmt := ⟨4, 3, 7, false, true⟩
/-- FP8 E5M2. -/
def fE5M2 : FFmt := ⟨5, 2, 15, true, false⟩
/-- FP6 E3M2 (MX element). -/
def fE3M2 : FFmt := ⟨3, 2, 3, false, false⟩
/-- FP6 E2M3 (MX element). -/
def fE2M3 : FFmt := ⟨2, 3, 1, false, false⟩
/-- FP4 E2M1 (MX element). -/
def fE2M1 : FFmt := ⟨2, 1, 1, false, false⟩

/-- The finite value `m * 2 ^ e`, sign `neg`, as a decoded element; `e` is at least -149 for every format. -/
def FV.ofMag (neg : Bool) (m : Nat) (e : Int) : FV :=
  if m = 0 then .zero neg
  else
    let v : Int := ((m <<< (e + 149).toNat : Nat) : Int)
    .fin (if neg then -v else v)

/-- The element the pattern `w` encodes, its value scaled by `2 ^ sc` (R116; `sc` is 0 without a block scale). -/
def decodeF (f : FFmt) (sc : Int) (w : Nat) : FV :=
  let frac := w % 2 ^ f.fb
  let ex := (w >>> f.fb) % 2 ^ f.eb
  let neg := w.testBit (f.eb + f.fb)
  let top := 2 ^ f.eb - 1
  if f.ieee && ex == top then (if frac = 0 then .inf neg else .nan)
  else if f.ofn && ex == top && frac == 2 ^ f.fb - 1 then .nan
  else if ex = 0 then FV.ofMag neg frac (1 - (f.bias : Int) - f.fb + sc)
  else FV.ofMag neg (2 ^ f.fb + frac) ((ex : Int) - f.bias - f.fb + sc)

/-- An integer as a decoded element. -/
def FV.ofInt (i : Int) : FV := if i = 0 then .zero false else .fin (i * (2 ^ 149 : Nat))

/-- An MXINT8 element `n * 2 ^ -6`, scaled by `2 ^ sc`. -/
def decodeMxInt8 (sc : Int) (w : Nat) : FV :=
  let i := sext 8 w
  FV.ofMag (i < 0) i.natAbs (sc - 6)

/-- Is the value NaN? -/
def FV.isNan : FV → Bool
  | .nan => true
  | _ => false

/-- Is the value finite (a zero included)? -/
def FV.isFin : FV → Bool
  | .zero _ | .fin _ => true
  | _ => false

/-- The value in units of `2 ^ -149`; NaN and the infinities as 0. -/
def FV.int : FV → Int
  | .fin n => n
  | _ => 0

/-- The sign. -/
def FV.neg : FV → Bool
  | .nan => false
  | .inf s => s
  | .zero s => s
  | .fin n => n < 0

/-- The value with the opposite sign. -/
def FV.negate : FV → FV
  | .nan => .nan
  | .inf s => .inf (!s)
  | .zero s => .zero (!s)
  | .fin n => .fin (-n)

/-- An exact result before its one rounding: NaN, an infinity, a signed zero, or a nonzero magnitude. The magnitude is
`m * 2 ^ e` when `st` is false; when `st` is true it lies strictly between `m * 2 ^ e` and `(m + 1) * 2 ^ e`, and `m`
then has at least 60 significant bits, so that every rounding of R122 and R124 is decided. -/
inductive XV where
  | nan
  | inf (neg : Bool)
  | zero (neg : Bool)
  | fin (neg : Bool) (m : Nat) (e : Int) (st : Bool)
  deriving DecidableEq, Repr

/-- The exact integer `i` in units of `2 ^ u`; `z` is the sign of an exact zero. -/
def XV.ofInt (i u : Int) (z : Bool) : XV :=
  if i = 0 then .zero z else .fin (i < 0) i.natAbs u false

/-- A decoded element as an exact value. -/
def FV.toX : FV → XV
  | .nan => .nan
  | .inf s => .inf s
  | .zero s => .zero s
  | .fin n => .fin (n < 0) n.natAbs (-149) false

/-- The positive rational `p / q`, sign `neg`, as an exact value: 96 quotient bits and a sticky bit. -/
def XV.ofRat (neg : Bool) (p q : Nat) (e : Int) : XV :=
  if p = 0 then .zero neg
  else
    let s := 96 + (Nat.log2 q + 1)
    let n := p <<< s
    .fin neg (n / q) (e - s) (n % q != 0)

/-- Rounding modes of R122. -/
inductive Rnd where
  | rne | rz | ru | rd | sr
  deriving DecidableEq, Repr

/-- The `RND` field (R70); 5 to 7 are refused before this is read. -/
def Rnd.ofCode : Nat → Rnd
  | 0 => .rne
  | 1 => .rz
  | 2 => .ru
  | 3 => .rd
  | _ => .sr

/-- Does the magnitude round away from zero? `rem + θ` of `2 ^ k` is the discarded part (`θ` in (0, 1) when `st`). -/
def roundsAway (r : Rnd) (u : Nat) (neg odd : Bool) (rem k : Nat) (st : Bool) : Bool :=
  match r with
  | .rne =>
    if k = 0 then false
    else
      let h := 2 ^ (k - 1)
      decide (rem > h) || (rem == h && (st || odd))
  | .rz => false
  | .ru => !neg && (rem != 0 || st)
  | .rd => neg && (rem != 0 || st)
  | .sr => decide (u < (if k ≥ 32 then rem >>> (k - 32) else rem <<< (32 - k)))

/-- The multiple `N` of `2 ^ q` to which the magnitude `m * 2 ^ e` (plus a sticky part) rounds. -/
def roundTo (r : Rnd) (u : Nat) (neg : Bool) (m : Nat) (e : Int) (st : Bool) (q : Int) : Nat :=
  if q ≤ e then m <<< (e - q).toNat
  else
    let k := (q - e).toNat
    let t := m >>> k
    if roundsAway r u neg (t % 2 == 1) (m % 2 ^ k) k st then t + 1 else t

/-- How a floating target encodes an overflow (Table 5-4). -/
inductive Ovf where
  | inf | nan | max
  deriving DecidableEq, Repr

/-- The largest finite pattern of a format, without the sign. -/
def FFmt.maxPat (f : FFmt) : Nat :=
  if f.ieee then (2 ^ f.eb - 1) * 2 ^ f.fb - 1
  else if f.ofn then 2 ^ (f.eb + f.fb) - 2
  else 2 ^ (f.eb + f.fb) - 1

/-- The NaN pattern the module produces in a format (R117, Table 5-1). -/
def FFmt.nanPat (f : FFmt) : Nat :=
  if f.ieee then (2 ^ f.eb - 1) * 2 ^ f.fb + 2 ^ (f.fb - 1) else 2 ^ (f.eb + f.fb) - 1

/-- The infinity pattern of a format that has one. -/
def FFmt.infPat (f : FFmt) : Nat := (2 ^ f.eb - 1) * 2 ^ f.fb

/-- The sign bit in place. -/
def FFmt.sign (f : FFmt) (neg : Bool) : Nat := if neg then 2 ^ (f.eb + f.fb) else 0

/-- Does an overflow in this mode and sign round to the infinite side (Table 5-4)? -/
def ovfAway (r : Rnd) (neg : Bool) : Bool :=
  match r with
  | .rne => true
  | .rz => false
  | .ru => !neg
  | .rd => neg
  | .sr => true

/-- The pattern of an overflowed result (Table 5-4). -/
def ovfPat (f : FFmt) (o : Ovf) (r : Rnd) (neg : Bool) : Nat :=
  match o with
  | .max => f.sign neg + f.maxPat
  | .inf => f.sign neg + (if ovfAway r neg then f.infPat else f.maxPat)
  | .nan => if ovfAway r neg then f.nanPat else f.sign neg + f.maxPat

/-- One rounding of an exact value to a floating format (R122 to R124), with the event it counts (R135). An infinite
source stays infinite where the target format has infinities (Table 5-1), and counts OVF only where it has none. -/
def roundF (f : FFmt) (o : Ovf) (r : Rnd) (u : Nat) (x : XV) : Nat × Option NumEv :=
  match x with
  | .nan => (f.nanPat, some .nan)
  | .inf neg =>
    match o with
    | .inf => (f.sign neg + f.infPat, none)
    | .max => if f.ieee then (f.sign neg + f.infPat, none) else (f.sign neg + f.maxPat, some .ovf)
    | .nan => (f.nanPat, some .ovf)
  | .zero neg => (f.sign neg, none)
  | .fin neg m e st =>
    let emin : Int := 1 - (f.bias : Int)
    let fl : Int := e + (Nat.log2 m : Nat)
    let ex := if fl < emin then emin else fl
    let q : Int := ex - f.fb
    let n := roundTo r u neg m e st q
    let pat := n + (ex - emin).toNat * 2 ^ f.fb
    if n = 0 then (f.sign neg, some .unf)
    else if pat > f.maxPat then (ovfPat f o r neg, some .ovf)
    else (f.sign neg + pat, none)

/-- One rounding to binary32. -/
def rnd32 (r : Rnd) (u : Nat) (x : XV) : Nat × Option NumEv := roundF fB32 .inf r u x

/-- Round to nearest even to binary32, the value alone. -/
def rne32 (x : XV) : Nat := (rnd32 .rne 0 x).1

/-- Decode a binary32 pattern. -/
def dec32 (w : Nat) : FV := decodeF fB32 0 w

/-- Is the pattern a binary32 NaN? -/
def isNan32 (w : Nat) : Bool := (dec32 w).isNan

/-- Rounding to an integer and clamping to `lo .. hi` (R123); the event is SAT, UNF or NAN. -/
def roundI (lo hi : Int) (r : Rnd) (u : Nat) (q : Int) (x : XV) : Int × Option NumEv :=
  match x with
  | .nan => (0, some .nan)
  | .inf neg => (if neg then lo else hi, some .sat)
  | .zero _ => (0, none)
  | .fin neg m e st =>
    let n := roundTo r u neg m e st q
    let v : Int := if neg then -(n : Int) else n
    if n = 0 then (0, some .unf)
    else if v > hi then (hi, some .sat)
    else if v < lo then (lo, some .sat)
    else (v, none)

/-! ### The rounding generator (R126, R127) -/

/-- The constant `GOLD` of R126. -/
def rgGold : BitVec 64 := 0x9E3779B97F4A7C15#64

/-- `mix64` of R126. -/
def mix64 (x : BitVec 64) : BitVec 64 :=
  let x := (x ^^^ (x >>> 30)) * 0xBF58476D1CE4E5B9#64
  let x := (x ^^^ (x >>> 27)) * 0x94D049BB133111EB#64
  x ^^^ (x >>> 31)

/-- `absorb` of R126. -/
def absorb (h v : BitVec 64) : BitVec 64 := mix64 ((h ^^^ v) + rgGold)

/-- The key of one tile (R126). -/
def tileKey (seed step sid tw0 tw1 tw2 : BitVec 64) : BitVec 64 :=
  absorb (absorb (absorb (absorb (absorb (absorb 0#64 seed) step) sid) tw0) tw1) tw2

/-- `sr_bits` of R126: the random value of element `idx`, draw `w`. -/
def srBits (tk : BitVec 64) (idx w : Nat) : Nat :=
  ((absorb tk (BitVec.ofNat 64 (idx * 256 + w % 256))) >>> 32).toNat

/-- The stream id of R127. -/
def streamId (cls die lp th : Nat) : BitVec 64 :=
  BitVec.ofNat 64 (cls % 16 * 4096 + die % 4 * 1024 + lp % 8 * 128 + th % 16 * 8)

/-- The loop words tw1 and tw2 of R127, from the four live loop counters, outermost first. -/
def loopWords (lc : List Nat) : BitVec 64 × BitVec 64 :=
  let c (i : Nat) := lc.getD i 0
  (BitVec.ofNat 64 (c 0 + c 1 * 2 ^ 24 + c 2 % 65536 * 2 ^ 48),
   BitVec.ofNat 64 (c 2 / 65536 + c 3 * 2 ^ 8))

/-! ### SPLIT32 (R131 to R134) -/

/-- The split of a binary32 pattern into its bfloat16 high half and signed residual (R133). -/
def split32 (b : BitVec 32) : BitVec 16 × BitVec 16 :=
  let neg := b.getLsbD 31
  let mag : Nat := b.toNat % 2 ^ 31
  if mag > 0x7F800000 then (0x7FC0#16, 0#16)
  else
    let low : Nat := mag % 65536
    let up := decide (low > 0x8000) || (low == 0x8000 && !neg)
    let hm : Nat := mag / 65536 + (if up then 1 else 0)
    let s := if neg then 0x8000 else 0
    if hm ≥ 0x7F80 then (BitVec.ofNat 16 (s + 0x7F80), 0#16)
    else
      let d : Int := (mag : Int) - ((hm * 65536 : Nat) : Int)
      (BitVec.ofNat 16 (s + hm), BitVec.ofInt 16 (if neg then -d else d))

/-- The join of a high half and a residual (R134). -/
def join32 (h l : BitVec 16) : BitVec 32 :=
  let neg := h.getLsbD 15
  let hm : Nat := h.toNat % 2 ^ 15
  if hm ≥ 0x7F80 then BitVec.ofNat 32 (h.toNat * 65536)
  else
    let d : Int := if neg then -l.toInt else l.toInt
    let mag : Int := ((hm * 65536 : Nat) : Int) + d
    if mag < 0 then BitVec.ofNat 32 ((if neg then 0 else 2 ^ 31) + (-mag).toNat)
    else BitVec.ofNat 32 ((if neg then 2 ^ 31 else 0) + mag.toNat)

/-- Does the split of this pattern count an OVF event (R133): a finite master whose high half becomes infinite. -/
def split32Ovf (b : BitVec 32) : Bool :=
  decide (b.toNat % 2 ^ 31 < 0x7F800000) && decide ((split32 b).1.toNat % 2 ^ 15 ≥ 0x7F80)

/-! ### Conversion targets (R118, Table 5-2) -/

/-- The conversion target codes of Table 5-2. -/
inductive Target where
  | flt (f : FFmt) (o : Ovf)
  | mx (f : FFmt)
  | mxint8
  | int8
  | split
  deriving DecidableEq, Repr

/-- Table 5-2; 0xF is reserved. -/
def Target.ofCode : Nat → Option Target
  | 0x0 => some (.flt fB32 .inf)
  | 0x1 => some (.flt fB16 .inf)
  | 0x2 => some (.flt fBF16 .inf)
  | 0x3 => some (.flt fE4M3 .max)
  | 0x4 => some (.flt fE4M3 .nan)
  | 0x5 => some (.flt fE5M2 .max)
  | 0x6 => some (.flt fE5M2 .inf)
  | 0x7 => some (.mx fE4M3)
  | 0x8 => some (.mx fE5M2)
  | 0x9 => some (.mx fE3M2)
  | 0xA => some (.mx fE2M3)
  | 0xB => some (.mx fE2M1)
  | 0xC => some .mxint8
  | 0xD => some .int8
  | 0xE => some .split
  | _ => none

/-- Bits of one element of a target. -/
def Target.bits : Target → Nat
  | .flt f _ => 1 + f.eb + f.fb
  | .mx f => 1 + f.eb + f.fb
  | .mxint8 => 8
  | .int8 => 8
  | .split => 32

/-- Is the target an MX format? -/
def Target.isMx : Target → Bool
  | .mx _ | .mxint8 => true
  | _ => false

/-- One element converted to a target that needs no block scale; SPLIT32 gives `L * 65536 + H` (R133). -/
def convert1 (t : Target) (r : Rnd) (u : Nat) (x : XV) : Nat × Option NumEv :=
  match t with
  | .flt f o => roundF f o r u x
  | .int8 =>
    let (v, e) := roundI (-128) 127 r u 0 x
    (wrapInt 8 v, e)
  | .split =>
    let (b, e) := rnd32 r u x
    let bb := BitVec.ofNat 32 b
    let (h, l) := split32 bb
    (l.toNat * 65536 + h.toNat, match e with
      | some ev => some ev
      | none => if split32Ovf bb then some .ovf else none)
  | _ => (0, none)

/-! ### MX block conversion (R121) -/

/-- The largest magnitude among decoded elements, in units of `2 ^ -149`. -/
def maxMag (vs : List FV) : Nat := vs.foldl (fun a v => max a v.int.natAbs) 0

/-- `emax` of R121. -/
def Target.emax : Target → Int
  | .mx f => if f.eb = 4 then 8 else if f.eb = 5 then 15 else if f.eb = 3 then 4 else 2
  | _ => 0

/-- The largest finite element value of an MX target, in units of `2 ^ -16`. -/
def Target.maxEl16 : Target → Nat
  | .mx f => if f.eb = 4 then 448 * 65536 else if f.eb = 5 then 57344 * 65536
    else if f.eb = 3 then 28 * 65536
    else if f.fb = 3 then 491520 else 6 * 65536
  | _ => 130048

/-- The least `x` with `amax / 2 ^ x ≤ max`, from the FLOOR exponent upward (R121, CEIL); at most two steps. -/
def ceilExp (amax mx16 : Nat) (x0 : Int) : Int :=
  -- amax * 2^-149 / 2^x ≤ mx16 * 2^-16  iff  amax ≤ mx16 * 2^(x + 133)
  let fits (x : Int) : Bool :=
    let s := x + 133
    if s ≥ 0 then decide (amax ≤ mx16 <<< s.toNat) else decide (amax <<< (-s).toNat ≤ mx16)
  if fits (x0 - 1) then x0 - 1 else if fits x0 then x0 else if fits (x0 + 1) then x0 + 1 else x0 + 2

/-- One MX block (R121): its scale byte, and each element's code with its event. `us` gives the random value of each
element and `rnds` the mode. -/
def mxBlock (t : Target) (ceil : Bool) (r : Rnd) (us : List Nat) (vs : List FV) : Nat × List (Nat × Option NumEv) :=
  let sgn (v : FV) : Nat := match t with
    | .mx f => f.sign v.neg
    | _ => 0
  if vs.any (fun v => !v.isFin) then (0xFF, vs.map fun _ => (0, some .nan))
  else
    let amax := maxMag vs
    if amax = 0 then (0x7F, vs.map fun v => (sgn v, none))
    else
      let x0 : Int := (Nat.log2 amax : Int) - 149 - t.emax
      let x1 := if ceil then ceilExp amax t.maxEl16 x0 else x0
      let x := if x1 < -127 then -127 else if x1 > 127 then 127 else x1
      let el (p : FV × Nat) : Nat × Option NumEv :=
        let xv : XV := match p.1 with
          | .fin n => .fin (n < 0) n.natAbs (-149 - x) false
          | v => v.toX
        match t with
        | .mx f => roundF f .max r p.2 xv
        | _ =>
          let (v, e) := roundI (-128) 127 r p.2 (-6) xv
          (wrapInt 8 v, e)
      ((x + 127).toNat, (vs.zip us).map el)

end Sys2Proof.Machine
end

