-- ==== Sys2Proof/Machine/Functions.lean ====
section
/-! DEFINITION. The Skim functions of R147: each is one correct rounding of the exact mathematical result. A function
with an irrational result is enclosed between two integers at a working precision; the precision is raised until the
enclosure fixes the leading bits, which then decide every rounding mode (log entry 6). -/

namespace Sys2Proof.Machine

/-- An enclosure `lo / 2 ^ W ≤ v ≤ hi / 2 ^ W` of a positive value. -/
structure Enc where
  lo : Nat
  hi : Nat
  deriving DecidableEq, Repr

/-- Newton's integer square root from an upper start; stops when it no longer falls. -/
def isqrtGo : Nat → Nat → Nat → Nat
  | 0, _, x => x
  | k + 1, n, x =>
    let y := (x + n / x) / 2
    if y < x then isqrtGo k n y else x

/-- The integer square root, rounded down. -/
def isqrt (n : Nat) : Nat := if n = 0 then 0 else isqrtGo (Nat.log2 n + 4) n (2 ^ (Nat.log2 n / 2 + 1))

/-- Exponential series terms, rounded down (`up = 0`) or up (`up = 1`), of a fixed-point argument at most 1. -/
def expTerms (W up : Nat) : Nat → Nat → Nat → Nat → Nat → Nat
  | 0, _, _, t, acc => acc + up * (2 * t + 2)
  | k + 1, n, x, t, acc =>
    let d := 2 ^ W * n
    expTerms W up k (n + 1) x ((t * x + up * (d - 1)) / d) (acc + t)

/-- Repeated squaring of a fixed-point value, rounded down or up. -/
def sqTimes (W up : Nat) : Nat → Nat → Nat
  | 0, x => x
  | k + 1, x => sqTimes W up k ((x * x + up * (2 ^ W - 1)) / 2 ^ W)

/-- An enclosure of `e ^ (256 * v)` for an enclosure `x` of `v`, with `v` at most 1. -/
def expEnc (W : Nat) (x : Enc) : Enc :=
  let f := W / 4 + 40
  ⟨sqTimes W 0 8 (expTerms W 0 f 1 x.lo (2 ^ W) 0), sqTimes W 1 8 (expTerms W 1 f 1 x.hi (2 ^ W) 0)⟩

/-- An enclosure of the reciprocal. -/
def recipEnc (W : Nat) (x : Enc) : Enc := ⟨2 ^ (2 * W) / x.hi, 2 ^ (2 * W) / x.lo + 1⟩

/-- An enclosure of a product. -/
def mulEnc (W : Nat) (x y : Enc) : Enc := ⟨x.lo * y.lo / 2 ^ W, x.hi * y.hi / 2 ^ W + 1⟩

/-- An enclosure of a quotient. -/
def divEnc (W : Nat) (x y : Enc) : Enc := ⟨x.lo * 2 ^ W / y.hi, x.hi * 2 ^ W / y.lo + 1⟩

/-- Terms of `atanh (p / q)`, rounded down or up, for `p / q` at most 1/3. -/
def atanhTerms (up : Nat) : Nat → Nat → Nat → Nat → Nat → Nat → Nat
  | 0, _, _, _, t, acc => acc + up * (2 * t + 2)
  | k + 1, n, p, q, t, acc =>
    atanhTerms up k (n + 2) p q ((t * (p * p) + up * (q * q - 1)) / (q * q)) (acc + (t + up * (n - 1)) / n)

/-- An enclosure of `atanh (p / q)`, `0 < p / q ≤ 1/3`. -/
def atanhEnc (W p q : Nat) : Enc :=
  let f := W / 3 + 8
  ⟨atanhTerms 0 f 1 p q (2 ^ W * p / q) 0, atanhTerms 1 f 1 p q (2 ^ W * p / q + 1) 0⟩

/-- An enclosure of ln 2. -/
def ln2Enc (W : Nat) : Enc := let a := atanhEnc W 1 3; ⟨2 * a.lo, 2 * a.hi⟩

/-- The alternating series of `arctan (1 / q)`, truncated; its error is below the number of terms plus one. -/
def atanInv : Nat → Nat → Nat → Nat → Int → Int
  | 0, _, _, _, acc => acc
  | k + 1, n, q, t, acc =>
    let s : Int := ((t / n : Nat) : Int)
    atanInv k (n + 2) q (t / (q * q)) (if n % 4 = 1 then acc + s else acc - s)

/-- An enclosure of π (Machin's formula). -/
def piEnc (W : Nat) : Enc :=
  let f := W / 4 + 8
  let v := 16 * atanInv f 1 5 (2 ^ W / 5) 0 - 4 * atanInv f 1 239 (2 ^ W / 239) 0
  ⟨v.toNat - 20 * (f + 2), v.toNat + 20 * (f + 2)⟩

/-- The series of `erf` without alternation: terms `2 ^ n x ^ (2 n + 1) / (2 n + 1)!!`, rounded down or up. -/
def erfTerms (W up : Nat) : Nat → Nat → Nat → Nat → Nat → Nat
  | 0, _, _, t, acc => acc + up * (2 * t + 2)
  | k + 1, n, x2, t, acc =>
    let d := 2 ^ W * (n + 2)
    erfTerms W up k (n + 2) x2 ((t * (2 * x2) + up * (d - 1)) / d) (acc + t)

/-- A positive value too small for any target. -/
def XV.tiny : XV := .fin false (2 ^ 63) (-1063) true
/-- A positive value too large for any target. -/
def XV.huge : XV := .fin false (2 ^ 63) 1000 true
/-- A value just below one. -/
def XV.nearOne (neg : Bool) : XV := .fin neg (2 ^ 96 - 1) (-96) true

/-- The enclosed value with 80 leading bits, if the enclosure fixes them. -/
def encToX (neg : Bool) (W : Nat) (sc : Int) (x : Enc) : Option XV :=
  let s := Nat.log2 x.lo - 80
  if x.lo >>> s = x.hi >>> s then some (.fin neg (x.lo >>> s) (s - W + sc) true) else none

/-- Try the enclosure `f` at rising precision. -/
def atPrec (f : Nat → Option XV) : XV :=
  match f 400 with
  | some v => v
  | none => match f 800 with
    | some v => v
    | none => match f 1600 with
      | some v => v
      | none => (f 3200).getD .nan

/-- An enclosure of `e ^ (m * 2 ^ -149)` for `m * 2 ^ -149` at most 256. -/
def expMag (W m : Nat) : Enc := let x := m <<< (W - 157); expEnc W ⟨x, x⟩

/-- `e ^ x` for the exact argument `i` in units of `2 ^ -149` (R147, R151). -/
def xExpInt (i : Int) : XV :=
  if i = 0 then .fin false 1 0 false
  else if i > 250 * (2 ^ 149 : Nat) then .huge
  else if i < -250 * ((2 ^ 149 : Nat) : Int) then .tiny
  else atPrec fun W =>
    let e := expMag W i.natAbs
    encToX false W 0 (if i > 0 then e else recipEnc W e)

/-- `e ^ a`. -/
def xExp : FV → XV
  | .nan => .nan
  | .inf false => .inf false
  | .inf true => .zero false
  | .zero _ => .fin false 1 0 false
  | .fin n => xExpInt n

/-- `2 ^ a`. -/
def xExp2 : FV → XV
  | .nan => .nan
  | .inf false => .inf false
  | .inf true => .zero false
  | .zero _ => .fin false 1 0 false
  | .fin n =>
    let u : Int := (2 ^ 149 : Nat)
    if n > 400 * u then .huge
    else if n < -400 * u then .tiny
    else
      let k := n / u
      let fr := (n % u).toNat
      if fr = 0 then .fin false 1 k false
      else atPrec fun W =>
        let l := ln2Enc W
        -- fr * 2^-149 * ln 2 / 256
        encToX false W k (expEnc W ⟨fr * l.lo / 2 ^ 157, fr * l.hi / 2 ^ 157 + 1⟩)

/-- A signed enclosure of ln of `m * 2 ^ -149`. -/
def lnEnc (W m : Nat) : Int × Int :=
  let L := Nat.log2 m
  -- the mantissa as m / 2^L', in [2/3, 4/3]
  let L' := if 3 * m > 4 * 2 ^ L then L + 1 else L
  let e : Int := (L' : Int) - 149
  let l2 := ln2Enc W
  let eLo : Int := if e ≥ 0 then e * l2.lo else e * l2.hi
  let eHi : Int := if e ≥ 0 then e * l2.hi else e * l2.lo
  let p := 2 ^ L'
  if m = p then (eLo, eHi)
  else if m > p then
    let a := atanhEnc W (m - p) (m + p)
    (eLo + 2 * a.lo, eHi + 2 * a.hi)
  else
    let a := atanhEnc W (p - m) (m + p)
    (eLo - 2 * a.hi, eHi - 2 * a.lo)

/-- The magnitude and sign of a signed enclosure. -/
def signedEnc (p : Int × Int) : Bool × Enc :=
  if p.1 ≥ 0 then (false, ⟨p.1.toNat, p.2.toNat⟩) else (true, ⟨(-p.2).toNat, (-p.1).toNat⟩)

/-- ln a. -/
def xLog : FV → XV
  | .nan => .nan
  | .inf false => .inf false
  | .inf true => .nan
  | .zero _ => .inf true
  | .fin n =>
    if n < 0 then .nan
    else if n = (2 ^ 149 : Nat) then .zero false
    else atPrec fun W =>
      let (s, e) := signedEnc (lnEnc W n.natAbs)
      encToX s W 0 e

/-- log2 a. -/
def xLog2 : FV → XV
  | .nan => .nan
  | .inf false => .inf false
  | .inf true => .nan
  | .zero _ => .inf true
  | .fin n =>
    if n < 0 then .nan
    else
      let m := n.natAbs
      let L := Nat.log2 m
      if m = 2 ^ L then XV.ofInt ((L : Int) - 149) 0 false
      else atPrec fun W =>
        let (s, e) := signedEnc (lnEnc W m)
        encToX s W 0 (divEnc W e (ln2Enc W))

/-- tanh a. -/
def xTanh : FV → XV
  | .nan => .nan
  | .inf s => .fin s 1 0 false
  | .zero s => .zero s
  | .fin n =>
    let m := n.natAbs
    if m > 100 * 2 ^ 149 then .nearOne (n < 0)
    else atPrec fun W =>
      let e := expMag W (2 * m)
      let one := 2 ^ W
      encToX (n < 0) W 0 (divEnc W ⟨e.lo - one, e.hi - one⟩ ⟨e.lo + one, e.hi + one⟩)

/-- 1 / (1 + e ^ -a). -/
def xSigm : FV → XV
  | .nan => .nan
  | .inf false => .fin false 1 0 false
  | .inf true => .zero false
  | .zero _ => .fin false 1 (-1) false
  | .fin n =>
    let m := n.natAbs
    if n > 150 * (2 ^ 149 : Nat) then .nearOne false
    else if n < -150 * ((2 ^ 149 : Nat) : Int) then .tiny
    else atPrec fun W =>
      let e := expMag W m
      let one := 2 ^ W
      let d : Enc := ⟨e.lo + one, e.hi + one⟩
      encToX false W 0 (if n > 0 then divEnc W e d else recipEnc W d)

/-- erf a. -/
def xErf : FV → XV
  | .nan => .nan
  | .inf s => .fin s 1 0 false
  | .zero s => .zero s
  | .fin n =>
    let m := n.natAbs
    if m > 10 * 2 ^ 149 then .nearOne (n < 0)
    else atPrec fun W =>
      let x := m <<< (W - 149)
      let x2 := m * m <<< (W - 298)
      let f := W + 400
      let s : Enc := ⟨erfTerms W 0 f 1 x2 x 0, erfTerms W 1 f 1 x2 x 0⟩
      let x8 := m * m <<< (W - 306)
      let g := recipEnc W (expEnc W ⟨x8, x8⟩)
      let pi := piEnc W
      let rp : Enc := ⟨isqrt (pi.lo * 2 ^ W), isqrt (pi.hi * 2 ^ W) + 1⟩
      let k := divEnc W ⟨2 * 2 ^ W, 2 * 2 ^ W⟩ rp
      encToX (n < 0) W 0 (mulEnc W k (mulEnc W g s))

/-- 1 / a. -/
def xRcp : FV → XV
  | .nan => .nan
  | .inf s => .zero s
  | .zero s => .inf s
  | .fin n => XV.ofRat (n < 0) (2 ^ 149) n.natAbs 0

/-- The square root of the positive rational `p / q`: 96 bits and a sticky bit. -/
def xSqrtRat (p q : Nat) : XV :=
  let s := 200 + 2 * Nat.log2 q
  let n := p * 2 ^ (2 * s)
  let v := n / q
  let r := isqrt v
  .fin false r (-(s : Int)) (r * r != v || n % q != 0)

/-- The square root of a. -/
def xSqrt : FV → XV
  | .nan => .nan
  | .inf false => .inf false
  | .inf true => .nan
  | .zero s => .zero s
  | .fin n => if n < 0 then .nan else xSqrtRat n.natAbs (2 ^ 149)

/-- 1 / √(p / q) of a positive rational. -/
def xRsqrtRat (p q : Nat) : XV := xSqrtRat q p

/-- 1 / √a. -/
def xRsqrt : FV → XV
  | .nan => .nan
  | .inf false => .zero false
  | .inf true => .nan
  | .zero s => .inf s
  | .fin n => if n < 0 then .nan else xRsqrtRat n.natAbs (2 ^ 149)

/-! ### Arithmetic of two and three operands (Table 6-8) -/

/-- The sign of an exact zero that comes of a sum (R122). -/
def cancelNeg (r : Rnd) : Bool := r == .rd

/-- a + b, with IEEE 754 special cases. -/
def xAdd (r : Rnd) (a b : FV) : XV :=
  match a, b with
  | .nan, _ | _, .nan => .nan
  | .inf s, .inf t => if s == t then .inf s else .nan
  | .inf s, _ => .inf s
  | _, .inf t => .inf t
  | .zero s, .zero t => .zero (if s == t then s else cancelNeg r)
  | _, _ => XV.ofInt (a.int + b.int) (-149) (cancelNeg r)

/-- a × b as a signed integer in units of `2 ^ -298`, or a special value. -/
def xMul (a b : FV) : XV :=
  let s := a.neg != b.neg
  match a, b with
  | .nan, _ | _, .nan => .nan
  | .inf _, .zero _ | .zero _, .inf _ => .nan
  | .inf _, _ | _, .inf _ => .inf s
  | .zero _, _ | _, .zero _ => .zero s
  | .fin x, .fin y => .fin s (x * y).natAbs (-298) false

/-- a ÷ b. -/
def xDiv (a b : FV) : XV :=
  let s := a.neg != b.neg
  match a, b with
  | .nan, _ | _, .nan => .nan
  | .inf _, .inf _ => .nan
  | .inf _, _ => .inf s
  | _, .inf _ => .zero s
  | .zero _, .zero _ => .nan
  | .zero _, _ => .zero s
  | _, .zero _ => .inf s
  | .fin x, .fin y => XV.ofRat s x.natAbs y.natAbs 0

/-- a × b + c with one rounding (R146). -/
def xFma (r : Rnd) (a b c : FV) : XV :=
  match xMul a b, c with
  | .nan, _ => .nan
  | _, .nan => .nan
  | .inf s, .inf t => if s == t then .inf s else .nan
  | .inf s, _ => .inf s
  | _, .inf t => .inf t
  | .zero s, .zero t => .zero (if s == t then s else cancelNeg r)
  | .zero _, .fin y => XV.ofInt y (-149) false
  | .fin s m e st, .zero _ => .fin s m e st
  | .fin s m _ _, .fin y =>
    let p : Int := if s then -(m : Int) else m
    XV.ofInt (p + y * (2 ^ 149 : Nat)) (-298) (cancelNeg r)

end Sys2Proof.Machine
end

