-- ==== Sys2Proof/Config.lean ====
section
/-! DEFINITION. What one module fixes: the fused feature and size registers of the panel page (spec 03, Tables 3-16 to
3-20), the part's steppings and identity, and the free values. An `opaque` constant has no body: no proof can see its
value, and a statement holds whatever it is. -/

namespace Sys2Proof.Config

/-- `PG_FEATURES` of the T2: every defined bit reads 1 (R91). -/
def pgFeatures : Nat := 0xFFFF
/-- Hod slots (Table 3-17). -/
def hodDepth : Nat := 8
/-- Chain descriptors of a context (Table 3-19). -/
def chainDesc : Nat := 1024
/-- Memory tags of a panel pool (Table 3-19). -/
def panelTags : Nat := 3584
/-- Loop-stack entries (Table 3-19). -/
def loopDepth : Nat := 4
/-- `PG_SIZES0` to `PG_SIZES3` (Tables 3-17 to 3-20). -/
def pgSizes : List Nat :=
  [512 * 2 ^ 20 + 128 * 2 ^ 8 + 8 * 2 ^ 4,
   128 * 2 ^ 24 + 64 * 2 ^ 16 + 16 * 2 ^ 8 + 16,
   3584 * 2 ^ 16 + 4 * 2 ^ 12 + 1024,
   64 * 2 ^ 24 + 32 * 2 ^ 16 + 64 * 2 ^ 8 + 16]
/-- C cycles of one tick: a tick is 1 µs (R3) and the C clock runs at 1.8 GHz (Table 1-11). -/
def cPerTick : Nat := 1800

/-- The fused stepping of the H-die: 1 is B1, 2 is C0 (Table 1-8). Which of the two a part carries is the part's own. -/
opaque hubStepping : Bool
/-- The module identity fused at manufacture (R362). -/
opaque identity : BitVec 64
/-- A byte the spec leaves open (a DEBUG page before the seal, a map-out's lost contents), one for each draw. -/
opaque freeByte : Nat → BitVec 8
/-- A word the spec leaves open, one for each draw. -/
opaque freeWord : Nat → BitVec 32

/-- Shohosy's public key for firmware, fused at manufacture (R362): x ‖ y. -/
opaque firmwareKey : List (BitVec 8)
/-- Shohosy's public key for swatches (R337). -/
opaque swatchKey : List (BitVec 8)
/-- The operator's public key held in flash (R337). -/
opaque operatorKey : List (BitVec 8)

/-- The factory baseline of Weathervane (R361): slope of a quantity of a unit in thousandths per hour, and spread. -/
opaque wvSlope : Nat → Nat → Rat
/-- The spread of the factory baseline. -/
opaque wvSpread : Nat → Nat → Rat
/-- The confidence where its formula divides zero by zero. -/
opaque wvConf : BitVec 8

end Sys2Proof.Config
end

