-- ==== Sys2Proof/Machine/Maps.lean ====
section
/-! DEFINITION. Sparse tables in one canonical form: a list of key and value pairs, keys strictly rising, no entry equal
to the value an unlisted key reads as (the type's `default`). The module's memory and the host's memory have this form
too, with `Host.Cell` as the pair. -/

namespace Sys2Proof.Machine

/-- A sparse table from keys to values; an unlisted key holds `default`. -/
abbrev FMap (α : Type) := List (Nat × α)

/-- The value at a key. -/
def fget {α : Type} [Inhabited α] : FMap α → Nat → α
  | [], _ => default
  | (k, v) :: t, a => if k = a then v else fget t a

/-- The table without a key. -/
def fdel {α : Type} : FMap α → Nat → FMap α
  | [], _ => []
  | (k, v) :: t, a => if k = a then fdel t a else (k, v) :: fdel t a

/-- The table with a key set to a value that is not the default. -/
def fput {α : Type} : FMap α → Nat → α → FMap α
  | [], a, x => [(a, x)]
  | (k, v) :: t, a, x => if k < a then (k, v) :: fput t a x else if k = a then (a, x) :: t else (a, x) :: (k, v) :: t

/-- Write a value; writing the default removes the entry. -/
def fset {α : Type} [Inhabited α] [DecidableEq α] (m : FMap α) (a : Nat) (x : α) : FMap α :=
  if x = default then fdel m a else fput m a x

/-- Change the value at a key. -/
def fmod {α : Type} [Inhabited α] [DecidableEq α] (m : FMap α) (a : Nat) (f : α → α) : FMap α :=
  fset m a (f (fget m a))

/-- Every key of the table lies above `a`. -/
def fabove {α : Type} (a : Nat) (m : FMap α) : Bool := m.all fun p => decide (a < p.1)

/-- The canonical form: strictly rising keys, no default value. -/
def fwf {α : Type} [Inhabited α] [DecidableEq α] : FMap α → Bool
  | [] => true
  | (k, v) :: t => decide (v ≠ default) && fabove k t && fwf t

/-- Write a list of values at consecutive keys. -/
def fsetMany {α : Type} [Inhabited α] [DecidableEq α] (m : FMap α) : Nat → List α → FMap α
  | _, [] => m
  | a, x :: xs => fsetMany (fset m a x) (a + 1) xs

/-- Read `n` consecutive keys. -/
def fgetMany {α : Type} [Inhabited α] (m : FMap α) (a n : Nat) : List α := (List.range n).map fun i => fget m (a + i)

/-- Remove every key of a range `a .. a + n - 1`. -/
def fclear {α : Type} (m : FMap α) (a n : Nat) : FMap α := m.filter fun p => decide (p.1 < a ∨ a + n ≤ p.1)

/-- Apply a function to every listed value; values that become the default are dropped. -/
def fmapVals {α : Type} [Inhabited α] [DecidableEq α] (m : FMap α) (f : Nat → α → α) : FMap α :=
  (m.map fun p => (p.1, f p.1 p.2)).filter fun p => decide (p.2 ≠ default)

end Sys2Proof.Machine
end

