-- ==== Sys2Proof/Machine/State.lean ====
section
/-! DEFINITION. The state of the module as plain data: everything the spec names, in compartments (clock, panels, dies,
contexts, memory, host interface, fabric, keeper, board, management bus), and the queue of waiting commands. A sparse
table (`FMap`) lists only entries that differ from the type's `default`. -/

namespace Sys2Proof.Machine

/-! ### Threads (spec 02, 03) -/

/-- Thread states of Table 2-4. -/
inductive TState where
  | free | run | wait | stopped | killing
  deriving DecidableEq, Repr, Inhabited

/-- A scalar register and its poison mark (Table 3-4). -/
structure SReg where
  val : BitVec 64
  poison : Bool
  deriving DecidableEq, Repr, Inhabited

/-- A predicate and its poison mark (Table 3-4). -/
structure PReg where
  val : Bool
  poison : Bool
  deriving DecidableEq, Repr, Inhabited

/-- A loop-stack entry (R82): live counter, address of the first bundle of the body, address of its last bundle. -/
structure LoopEnt where
  cnt : Nat
  first : Nat
  last : Nat
  deriving DecidableEq, Repr, Inhabited

/-- What the code of a line's sixteen 32-bit words holds that no read has met yet (R198): the words in uncorrectable error, and the
words with one wrong bit, each with that bit. -/
structure WordErr where
  ue : BitVec 16
  ce : List (Nat × Nat)
  deriving DecidableEq, Repr, Inhabited

/-- An instruction residency entry (R86): the bytes the fill brought, and the 64-byte memory lines (by context address)
that came poisoned, and by line the errors of the cache's own words. `valid` is false from the issue of an IFILL until its token counts down. -/
structure IEntry where
  valid : Bool
  base : Nat
  len : Nat
  bytes : List (BitVec 8)
  poison : List Nat
  err : FMap WordErr
  deriving DecidableEq, Repr, Inhabited

/-- A line of a thread's data-cache share (R87), at its place address / 64 modulo the share's lines. -/
structure DLine where
  valid : Bool
  addr : Nat
  dirty : Bool
  poison : Bool
  data : BitVec 512
  err : WordErr
  deriving DecidableEq, Repr, Inhabited

/-- What a waiting thread waits for (R32, R74, R75). -/
inductive WaitOn where
  | tok (t n : Nat)
  | tokMask (m : Nat)
  | ev (e : Nat)
  | evClear (e : Nat)
  | seal (k : Nat)
  | fence (base len : Nat)
  | rotate
  | phase (step k : Nat)
  | tags (n : Nat)
  deriving DecidableEq, Repr

/-- A wait begun (R76): its condition, its issue cycle, the tick of its start (R318), whether the condition has become true, so
that the thread resumes at its next owned position, the limit in force (R318) and the address of the bundle that began it. -/
structure Wait where
  on : WaitOn
  cycle : Nat
  tick : Nat
  met : Bool
  lim : Nat
  baddr : Nat
  deriving DecidableEq, Repr

/-- Destination registers of a result still on its way (R63). -/
inductive Dest where
  | s (n : Nat)
  | p (n : Nat)
  | a (n : Nat)
  deriving DecidableEq, Repr

/-- A result of an instruction issued in cycle `iss` that becomes visible to bundles issued in cycle `cyc` and later (R63). -/
structure Res where
  iss : Nat
  cyc : Nat
  dest : Dest
  val : BitVec 64
  poison : Bool
  deriving DecidableEq, Repr

/-- One hardware thread: the architectural state of Table 3-4, its launch shares, its state of Table 2-4. -/
structure Thread where
  st : TState
  slot : Nat
  handle : Nat
  pc : Nat
  s : FMap SReg
  p : FMap PReg
  a : FMap (BitVec 17)
  tok : FMap Nat
  loops : List LoopEnt
  ient : FMap IEntry
  ishare : Nat
  dshare : Nat
  dline : FMap DLine
  idle : Nat
  res : List Res
  wait : Option Wait
  mark : Nat
  num : NumCounts
  deriving DecidableEq, Repr, Inhabited

/-- The sequencer tables of a panel (R57) and its ownership tables (Table 2-5): what a rotation advance moves to the
spare (R55). Slots are context slot indices. -/
structure Seq where
  roller : FMap (Option Nat)
  thr : FMap Thread
  bank : FMap (Option Nat)
  sealed : FMap Bool
  trowel : Option Nat
  skim : Option Nat
  mitre : Option Nat
  tagsUsed : Nat
  lastIssue : Option Nat
  deriving DecidableEq, Repr, Inhabited

/-! ### The scratchpad and the engines (spec 02, 04, 06, 07) -/

/-- One scratchpad line (R38, R40): data, 3-bit stamp, poison bit, the words that hold an uncorrectable error and those with one
wrong bit (each with that bit), and the instructions whose writes share the current pending bit (`pend`, empty when the bit is 0) or must leave the line
poisoned (`claim`, R43). -/
structure LineSt where
  data : BitVec 512
  stamp : BitVec 3
  poison : Bool
  ue : BitVec 16
  ce : List (Nat × Nat)
  pend : List Nat
  claim : List Nat
  deriving DecidableEq, Repr, Inhabited

/-- The instruction behind an engine access, a transfer or a record: identity, place and generator inputs. -/
structure Ins where
  uid : Nat
  slot : Nat
  handle : Nat
  die : Nat
  lp : Nat
  th : Nat
  baddr : Nat
  slotc : Nat
  opc : Nat
  step : Nat
  loops : List Nat
  issue : Nat
  deriving DecidableEq, Repr, Inhabited

/-- One column of a latch set (R99): the format it was loaded in, the raw row, its scale line, and its poison. -/
structure LatchCol where
  fmt : Nat
  raw : Nat
  scale : Nat
  poison : Bool
  deriving DecidableEq, Repr, Inhabited

/-- A Trowel latch set (R95, R99, R100, R109): the format of the last LOADW started on it (none: not ready and no
format), that LOADW's issue cycle, the columns, and the three strip columns. -/
structure Latch where
  fmt : Option Nat
  load : Nat
  col : FMap LatchCol
  cp : List Int
  cw : List Int
  cm : List Int
  bad : Bool
  lastUse : Option Nat
  deriving DecidableEq, Repr, Inhabited

/-- A LOADW in the loader. -/
structure LoadwOp where
  ins : Ins
  lat : Nat
  fmt : Nat
  line : Nat
  exp : Option Nat
  raw : List Nat
  scale : Nat
  poison : Bool
  deriving DecidableEq, Repr

/-- The parts of a streamed row that have been read: raw bits, scale line, poison. -/
structure RowCap where
  raw : Nat
  scale : Nat
  poison : Bool
  deriving DecidableEq, Repr, Inhabited

/-- What the array holds of one row after it has sampled the latch set (R102): per column the group sums (none for a
NaN sum, or the sign of an infinite one) and whether the column is poisoned. -/
inductive GSum where
  | nan
  | inf (neg : Bool)
  | val (i : Int) (negZero : Bool)
  deriving DecidableEq, Repr

/-- One column of a row in the array. -/
structure ColSum where
  g : List GSum
  poison : Bool
  deriving DecidableEq, Repr

/-- A PASS in the array or the drain path. -/
structure PassOp where
  ins : Ins
  n : Nat
  c : Nat
  acc : Bool
  drain : Bool
  pair : Bool
  grp : Nat
  fmt : Nat
  rnd : Nat
  strm : Nat
  strmExp : Option Nat
  psum : Nat
  badRows : List Nat
  hod : Nat
  lat : Nat
  key : BitVec 64
  cap : FMap RowCap
  sums : FMap (List ColSum)
  deriving DecidableEq, Repr

/-- A lane value of Skim: a binary32 pattern (or an INT8, SPLIT32 or INT32 store pattern at the output) and its poison. -/
structure Lane where
  v : Nat
  p : Bool
  deriving DecidableEq, Repr, Inhabited

/-- One stage word (Table 6-5). -/
structure Stage where
  op : Nat
  rnd : Nat
  src1 : Nat
  sel1 : Nat
  src2 : Nat
  sel2 : Nat
  src3 : Nat
  sel3 : Nat
  cvt : Nat
  deriving DecidableEq, Repr, Inhabited

/-- A stream of a chain (R144): first line, format, mode, expected stamp. -/
structure Stream where
  line : Nat
  fmt : Nat
  mode : Nat
  exp : Option Nat
  deriving DecidableEq, Repr, Inhabited

/-- A CHAIN or CHAINH in Skim (R152). `hodFirst` and `hodLast` are the cycles of its first and last Hod read, `drained` says that
a drain has entered its slot since the first (R160), `bad` that its descriptor was read in uncorrectable error (R198). -/
structure ChainOp where
  ins : Ins
  n : Nat
  s : Nat
  stages : List Stage
  kr : Int
  streams : FMap Stream
  hod : Option Nat
  hkeep : Bool
  dst : Nat
  outFmt : Nat
  en2 : Option (Nat × Nat × Nat)
  rv : Option Nat
  sreg : SReg
  consts : List Nat
  key : BitVec 64
  acc : FMap (List Lane)
  rvs : FMap (List Lane)
  hodFirst : Nat
  hodLast : Nat
  drained : Bool
  bad : Bool
  deriving DecidableEq, Repr

/-- A FILL in Skim (R157). -/
structure FillOp where
  ins : Ins
  n : Nat
  s : Nat
  dst : Nat
  val : Nat
  poison : Bool
  deriving DecidableEq, Repr

/-- One memory-side byte range: module memory or host memory, byte address, length (R263). -/
structure Seg where
  host : Bool
  addr : Nat
  len : Nat
  deriving DecidableEq, Repr

/-- What a store does to its source lines (R119, R169). -/
inductive StKind where
  | st
  | stc (code rnd : Nat)
  | stk (code rnd : Nat)
  | fput (peer : Nat)
  deriving DecidableEq, Repr

/-- A piece of a store that waits for its acknowledgement (R196): where it goes, its bytes, whether it is a poison mark
(R45), the 256-byte tag groups it uses. -/
structure Chunk where
  segs : List Seg
  data : List (BitVec 8)
  poison : Bool
  grp : List Nat
  deriving DecidableEq, Repr

/-- A store from scratchpad lines (R73, R119, R169): the lines still to read, the memory-side ranges of its element bytes
and of its scale bytes or length word, the lines of the unit in progress, the bytes formed so far, and the pieces not yet
acknowledged. A token number above 15 counts nothing (a write-back that is part of a fill). -/
structure StoreOp where
  ins : Ins
  tok : Nat
  tags : Nat
  kind : StKind
  line : Nat
  exp : Option Nat
  n : Nat
  addr : Nat
  stride : Nat
  space : List Seg
  space2 : List Seg
  ceil : Bool
  key : BitVec 64
  read : Nat
  raw : List (Nat × Bool)
  outE : List (List (BitVec 8) × Bool)
  outS : List (List (BitVec 8) × Bool)
  out : List Chunk
  deriving DecidableEq, Repr

/-- What a load brings back (R71, R86, R87). -/
inductive LdKind where
  | ld
  | ldk (code : Nat)
  | fget (peer : Nat)
  | dfill
  | dwb
  | ifill (entry : Nat)
  deriving DecidableEq, Repr

/-- One scratchpad or cache line that a load has still to write: the line, the memory-side bytes it needs, the bytes'
second part (scale bytes), and its tag groups. -/
structure LdLine where
  line : Nat
  idx : Nat
  segs : List Seg
  segs2 : List Seg
  grp : List Nat
  deriving DecidableEq, Repr

/-- A load or cache transfer in flight: its lines not yet written and which of them wait in the arrival buffer, the whole range
of a variable-length keep format with the offset of its next segment and whether an earlier mask was poisoned (R170, R172), and
data a peer has returned. -/
structure LoadOp where
  ins : Ins
  tok : Nat
  tags : Nat
  kind : LdKind
  addr : Nat
  todo : List LdLine
  inbuf : List Nat
  space : List Seg
  shift : Nat
  bad : Bool
  got : List (Nat × BitVec 512 × Bool)
  deriving DecidableEq, Repr

/-- An LDT in Mitre (R162, R164): mode, MX format when it carries scales, tiles, tiles arrived and tiles wholly written,
destination (first position, first bank row, group), the translated source rows and scale bytes in row order, and the new
rows' scale bytes of each tile arrived. -/
structure LdtOp where
  ins : Ins
  tok : Nat
  tags : Nat
  mode : Nat
  mxFmt : Option Nat
  tiles : Nat
  next : Nat
  done : Nat
  q0 : Nat
  rho : Nat
  grpNo : Nat
  rows : List (List Seg)
  scales : List (List Seg)
  sc : List (List (List (Nat × Bool)))
  deriving DecidableEq, Repr

/-- Scalar-unit accesses that happen at a fixed cycle after issue (Table 3-6). -/
inductive ScalarAcc where
  | ldsp (off rd : Nat)
  | stsp (off : Nat) (val : BitVec 64) (poison : Bool)
  | csrr (off rd lat : Nat)
  | csrw (off : Nat) (val : BitVec 32)
  deriving DecidableEq, Repr

/-- A scalar access due in cycle `cyc`. -/
structure ScalarOp where
  ins : Ins
  cyc : Nat
  acc : ScalarAcc
  deriving DecidableEq, Repr

/-- A scheduled line write (R38): cycle, station order of R39 and R153, byte mask, data, poison, and whether it is the
instruction's last write of the line (R41). -/
structure WReq where
  cyc : Nat
  prio : Nat
  line : Nat
  mask : BitVec 64
  data : BitVec 512
  poison : Bool
  last : Bool
  ins : Ins
  deriving DecidableEq, Repr

/-- Something else an engine does in a fixed cycle. -/
inductive LaterAct where
  | count (c : NumCounts)
  | strip (row : Nat) (plain weighted : Bool) (col psum sig cls : Nat)
  | stripSkip
  | arrive (tile line : Nat) (mask : BitVec 64) (data : BitVec 512) (poison : Bool)
  | hodRow (hod r n : Nat) (vals : List Nat) (poison : List Bool) (c : NumCounts)
  deriving DecidableEq, Repr

/-- An engine event due in cycle `cyc`. -/
structure Later where
  cyc : Nat
  ins : Ins
  act : LaterAct
  deriving DecidableEq, Repr

/-- An arrival in the panel's arrival buffer (R37): the instruction, the line of its load or the tile of its LDT, and the line
write it waits to make. -/
structure Arr where
  ins : Ins
  idx : Nat
  line : Nat
  mask : BitVec 64
  data : BitVec 512
  poison : Bool
  deriving DecidableEq, Repr

/-- One row of a Hod tile: 128 values of 32 bits, and the poison of each of its eight output lines (R44, R105). -/
structure HodRow where
  vals : List Nat
  poison : List Bool
  deriving DecidableEq, Repr, Inhabited

/-- A Hod slot (R158, Table 6-12): state 0 EMPTY, 1 FILLING, 2 FULL. -/
structure HodSlot where
  st : Nat
  coll : Bool
  rows : Nat
  slot : Nat
  row : FMap HodRow
  deriving DecidableEq, Repr, Inhabited

/-- A line whose pending bit an instruction sets at the end of this cycle (R41). -/
structure PendReq where
  line : Nat
  ins : Ins
  deriving DecidableEq, Repr

/-- A line an instruction has met a hazard at: instruction, kind, line, and whether the stamp mode then had a record made
and a fault raised (R46, R48). -/
structure HazSeen where
  uid : Nat
  kind : Nat
  line : Nat
  recd : Bool
  flt : Bool
  deriving DecidableEq, Repr

/-- Service states of a physical panel (Table 2-13). -/
inductive PState where
  | active | spare | quarantine | retired | standby
  deriving DecidableEq, Repr, Inhabited

/-- One physical panel. `served` says that it was ACTIVE when it entered QUARANTINE (R59); `arrq` is its arrival buffer in
arrival order, `arrBank` the banks that have taken an arrival write in this cycle (R37); `mitreHeld` holds, for each tile
buffer of Mitre in use, the cycle in which its last row enters the arrival buffer (R164). -/
structure Panel where
  st : PState
  served : Bool
  lpanel : Nat
  seqmm : Nat
  retire : Bool
  classOff : Nat
  dirtySwatch : Bool
  swNext : Nat
  ownedAt : Nat
  rotUntil : Nat
  seq : Seq
  line : FMap LineSt
  latch : FMap Latch
  hod : FMap HodSlot
  loadw : List LoadwOp
  pass : List PassOp
  chain : List ChainOp
  fill : List FillOp
  skimBusy : Nat
  mitreLast : Nat
  mitreHeld : List Nat
  ldt : List LdtOp
  load : List LoadOp
  arrq : List Arr
  arrBank : List Nat
  store : List StoreOp
  scalar : List ScalarOp
  wq : List WReq
  later : List Later
  pendq : List PendReq
  seen : List HazSeen
  deriving DecidableEq, Repr, Inhabited

/-! ### Contexts (spec 02, 03, 05, 07, 10, 12) -/

/-- Context states of Table 10-2. -/
inductive CState where
  | free | live | halted
  deriving DecidableEq, Repr, Inhabited

/-- A hazard record (Table 2-10). -/
structure HazRec where
  uid : Nat
  kind : Nat
  slotc : Nat
  th : Nat
  pp : Nat
  lp : Nat
  die : Nat
  baddr : Nat
  line : Nat
  exp : Nat
  found : Nat
  pend : Bool
  pois : Bool
  expv : Bool
  step : Nat
  tick : BitVec 64
  deriving DecidableEq, Repr

/-- An illegal-slot record (Table 3-15). -/
structure IllRec where
  reason : Nat
  slotc : Nat
  th : Nat
  pp : Nat
  lp : Nat
  die : Nat
  opc : Nat
  baddr : Nat
  step : Nat
  deriving DecidableEq, Repr

/-- A strip disagreement record (Table 4-8). -/
structure StripRec where
  col : Nat
  wt : Bool
  pl : Bool
  th : Nat
  pp : Nat
  lp : Nat
  die : Nat
  baddr : Nat
  row : Nat
  psum : Nat
  step : Nat
  tick : BitVec 64
  deriving DecidableEq, Repr

/-- The hazard, illegal-slot and strip logs of a context with their counters (R48, R49, R90, R113). -/
structure CtxLog where
  hazCnt : FMap Nat
  haz : List HazRec
  hazOvf : Nat
  illCnt : Nat
  ill : List IllRec
  illOvf : Nat
  strip : List StripRec
  stripOvf : Nat
  stripCnt : Nat
  stripSkip : Nat
  mitreResc : Nat
  mitreZero : Nat
  deriving DecidableEq, Repr, Inhabited

/-- The numeric settings and counters of a context (R136 to R139): the register values, the values in force, the four
counters, the event kinds of the open step and its flag, with the cycle in which each panel (none: Cumulus) first set the
flag. -/
structure CtxNum where
  flagMask : Nat
  mxScale : Bool
  flagIn : Nat
  mxIn : Bool
  cnt : NumCounts
  stepEv : Nat
  stepFlag : Bool
  flagAt : List (Nat × Option Nat)
  seed : BitVec 64
  deriving DecidableEq, Repr, Inhabited

/-- The writable settings of a context page and the settings of its create block. -/
structure CtxSet where
  stampMode : Nat
  illThresh : Nat
  mitreMx : Bool
  mitreFmt : Nat
  chainBase : Nat
  chainCnt : Nat
  waitLim : Nat
  stepLim : Nat
  deriving DecidableEq, Repr, Inhabited

/-- A translation entry (R263): the 2 MiB page it maps to (module physical or host), write permission, pin. -/
structure XEnt where
  valid : Bool
  host : Bool
  page : Nat
  write : Bool
  pin : Bool
  deriving DecidableEq, Repr, Inhabited

/-- Retention slot states of R176. -/
inductive RState where
  | free | pending | retained | dropped
  deriving DecidableEq, Repr, Inhabited

/-- A retention slot (Tables 7-10, 7-11), and the transfer of the gather that fills it (R177). -/
structure RetSlot where
  st : RState
  tag : Nat
  gran : Nat
  off : Nat
  filler : Nat
  deriving DecidableEq, Repr, Inhabited

/-- The retention pool of a context (Tables 7-8, 7-9) and its micro-batch tags (R178). -/
structure CtxRet where
  size : Nat
  base : Nat
  slot : FMap RetSlot
  tags : BitVec 64
  deriving DecidableEq, Repr, Inhabited

/-- A ring command that has started and not completed (R266, R267): its ring index, opcode, header fields, and, once it
has reached its completion point, the status and result of the record it is to write. -/
structure Flight where
  idx : Nat
  opc : Nat
  irq : Bool
  cen : Bool
  cev : Nat
  user : BitVec 32
  seq : Nat
  done : Option (Nat × BitVec 32)
  deriving DecidableEq, Repr

/-- A completion ring of a context, or the admin ring (R266 to R268). -/
structure Ring where
  present : Bool
  cmdBase : Nat
  cplBase : Nat
  logn : Nat
  vec : Nat
  modCnt : Nat
  modTick : Nat
  head : Nat
  tail : Nat
  cplIdx : Nat
  cplPhase : Bool
  fly : List Flight
  irqCnt : Nat
  irqTick : Nat
  wevSeen : Bool
  logAcks : Option (List Nat)
  deriving DecidableEq, Repr, Inhabited

/-- A thread entry of an allocation descriptor (Table 10-13). -/
structure ThrEnt where
  th : Nat
  pos : Nat
  ishare : Nat
  dshare : Nat
  entry : Nat
  ilen : Nat
  arg : Nat
  rsvd : Bool
  deriving DecidableEq, Repr

/-- An allocation descriptor (Table 10-13). -/
structure Alloc where
  banks : List Nat
  groups : List Nat
  eng : Nat
  ents : List ThrEnt
  rsvd : Bool
  deriving DecidableEq, Repr, Inhabited

/-- A launched thread set (R273): its DONE event, the allocation it was accepted with, the first instruction number after its
start, and its threads that a later launch has taken over, each with the first instruction number after that. -/
structure LaunchRec where
  die : Nat
  lp : Nat
  ths : List Nat
  ring : Nat
  fly : Flight
  dev : Option Nat
  started : Bool
  alloc : Alloc
  since : Nat
  past : List (Nat × Nat)
  deriving DecidableEq, Repr

/-- A change of context events (R77): the cycle at whose end it takes effect, the physical panel that made it (none: the
host), the events it sets and those it clears. -/
structure EvChg where
  cyc : Nat
  src : Option Nat
  set : BitVec 64
  clr : BitVec 64
  deriving DecidableEq, Repr

/-! ### The step ledger of a context (spec 11) -/

/-- A replay buffer or command log named at STEP_OPEN (R281). -/
structure RbEnt where
  addr : Nat
  units : Nat
  tag : Nat
  deriving DecidableEq, Repr, Inhabited

/-- A declared state region (R284). -/
structure Region where
  addr : Nat
  len : Nat
  cls : Nat
  bform : Nat
  removed : Bool
  deriving DecidableEq, Repr, Inhabited

/-- A checker disagreement kept for adjudication (R325): strip disagreements carry the PASS bundle address, the loop
counters, the row and the panels; Cumulus disagreements the sequence number and the chunk. -/
inductive Disagree where
  | strip (baddr : Nat) (loops : List Nat) (row lp pp die : Nat)
  | cum (seq chunk : Nat)
  deriving DecidableEq, Repr

/-- The record of one unsealed step (R280 to R283, R297). `openSeq` is its STEP_OPEN while that is in flight, `own`, `up` and `kids`
the tree of the route set it recorded (R298): this member's peer id, the unit above, and the members below with their units;
`regions` the declared state at its close. -/
structure StepRec where
  used : Bool
  routeSet : Nat
  openSeq : Option Nat
  own : Option Nat
  up : Nat
  kids : List (Nat × Nat)
  regions : List Region
  flagMask : Nat
  mxScale : Bool
  rb : List RbEnt
  log : List (Nat × BitVec 512)
  noReplay : Bool
  dirtyOther : Bool
  dirtyChecker : Bool
  disagree : List Disagree
  flag : Bool
  ev : Nat
  closed : Bool
  everClosed : Bool
  rbAcks : List Nat
  snapAcks : List Nat
  snapDone : Bool
  snapBad : Bool
  report : Option Bool
  reports : List (Nat × Bool)
  sentUp : Bool
  refused : Bool
  resetSince : Bool
  digests : List (List (BitVec 8))
  deriving DecidableEq, Repr, Inhabited

/-- Generation states of Table 11-9. -/
inductive GState where
  | empty | writing | complete | sealed | invalid
  deriving DecidableEq, Repr, Inhabited

/-- A chunk of a generation (R286): stack, chunk index, channel, content, the 64-byte lines of it that are poisoned, its
digests. -/
structure GenChunk where
  stack : Nat
  idx : Nat
  chan : Nat
  data : List (Nat × BitVec 8)
  len : Nat
  poison : List Nat
  missing : Bool
  digest : List (BitVec 8)
  narrow : List (BitVec 8)
  deriving DecidableEq, Repr, Inhabited

/-- A copy of a generation's manifest (R288): its stack, channel and place in the channel's half. -/
structure ManCopy where
  stack : Nat
  chan : Nat
  place : Nat
  deriving DecidableEq, Repr, Inhabited

/-- One in-stack generation (R285 to R288): the step it holds, the missing count, the chunks written, each stack's channel list as
the generation began (R186), the manifest bytes and its copies that can be read. -/
structure GenRec where
  st : GState
  step : Nat
  miss : Nat
  chunks : List GenChunk
  chs : FMap (List Nat)
  manifest : List (BitVec 8)
  copies : List ManCopy
  deriving DecidableEq, Repr, Inhabited

/-- The snapshot in progress (R285 to R290). -/
structure Snap where
  step : Nat
  copied : List Nat
  stackDone : List Nat
  stackHeld : List Nat
  blocks : List Nat
  chunkNext : List (Nat × Nat)
  deriving DecidableEq, Repr, Inhabited

/-- A buddy of this context (R292, R294): the chunks it refused once, and the steps of which it refused a chunk twice. -/
structure Buddy where
  unit : Nat
  genA : Bool
  genB : Bool
  refusedOnce : List Nat
  failed : List Nat
  deriving DecidableEq, Repr, Inhabited

/-- A step waiting for its close (R283). -/
structure CloseWait where
  step : Nat
  ring : Nat
  seq : Nat
  deriving DecidableEq, Repr, Inhabited

/-- Adjudication of a refused step (R325 to R329, Table 12-14). -/
structure Adj where
  run : Nat
  outcome : Nat
  pp : Option Nat
  die : Nat
  lp : Nat
  step : Nat
  firstDirty : Bool
  firstList : List Disagree
  firstDig : List (List (BitVec 8))
  secondDig : List (List (BitVec 8))
  secondList : List Disagree
  exchange : List (Nat × Nat)
  deriving DecidableEq, Repr, Inhabited

/-- A readout in progress (R308): generation, command, host buffer. -/
structure Readout where
  gen : Nat
  seq : Nat
  haddr : Nat
  deriving DecidableEq, Repr

/-- A logged command to be replayed (R302): its step, its ring, its word. -/
structure LogCmd where
  step : Nat
  ring : Nat
  w : BitVec 512
  deriving DecidableEq, Repr

/-- What a named buddy answers to a BUDDY_SET (R292): whether it holds a context of the job, whether it can hold the copies,
its failure-domain tags and leaf switch identities. -/
structure BuddyAns where
  unit : Nat
  present : Bool
  room : Bool
  tray : BitVec 32
  pwr : BitVec 32
  leaf : List (BitVec 64)
  deriving DecidableEq, Repr

/-- A BUDDY_SET in progress (R292): the buddies named, their answers, and, once accepted, the copies and inputs that new buddies
have still to acknowledge (unit, 0 snapshot or 1 inputs, step). -/
structure BuddySet where
  seq : Nat
  ovr : Bool
  degree : Nat
  want : List Nat
  got : List BuddyAns
  accepted : Bool
  acks : List (Nat × Nat × Nat)
  deriving DecidableEq, Repr

/-- A ROLLBACK or RESTORE that waits for copies from buddies (R301, R303): the command, whether it is a rollback, the step, the
role's former unit, the buddies, the manifest, what has come so far (log entries with the buddy that sent them), the buddies still to end
their supply, those that supplied all, and the reason one gave. -/
structure Restore where
  seq : Nat
  roll : Bool
  step : Nat
  unit : Nat
  from_ : List Nat
  manifest : List (BitVec 8)
  chunks : List GenChunk
  cmds : List (Nat × LogCmd)
  waiting : List Nat
  full : List Nat
  why : Nat
  deriving DecidableEq, Repr

/-- The ledger state of a context. -/
structure Ledger where
  everOpened : Bool
  openStep : Option Nat
  lastClosed : Nat
  sealedStep : Nat
  firstStep : Nat
  seals : List Nat
  next : StepRec
  step : FMap StepRec
  regions : List Region
  gens : FMap GenRec
  snap : Option Snap
  waits : List CloseWait
  readout : List Readout
  buddies : List Buddy
  degree : Nat
  pushCnt : Nat
  lineage : Nat
  lstep : Nat
  lineageNow : Bool
  restart : Nat
  cmp : Nat
  reason : Nat
  anyNext : Bool
  rollTo : Option Nat
  replay : Option Nat
  replayQ : List LogCmd
  replayCnt : FMap Nat
  bset : Option BuddySet
  restore : Option Restore
  kept : List (Nat × List (List (BitVec 8)))
  adj : Adj
  remoteSealed : List Nat
  deriving DecidableEq, Repr, Inhabited

/-! ### Far traffic of a context (spec 09, 12) -/

/-- A phase report of a member below (R241): step, token, peer id, the set its pending REDRAW names. -/
structure PhaseRep where
  step : Nat
  k : Nat
  peer : Nat
  set : Option Nat
  deriving DecidableEq, Repr

/-- Route sets and the entries each load brought, pending REDRAW, phase counts and agreements of a context (R239 to R242). -/
structure CtxFar where
  sets : FMap (FMap (BitVec 32))
  loaded : FMap Nat
  active : Nat
  pend : Option (Nat × Nat × Nat)
  phaseQ : Nat
  phaseQIn : Nat
  phaseCnt : FMap Nat
  reached : List Nat
  childReports : List PhaseRep
  agreed : List Nat
  farErr : Nat
  cumDis : Nat
  deriving DecidableEq, Repr, Inhabited

/-- Contrail state of a context (R339 to R342, Tables 12-26, 12-27). -/
structure Contrail where
  role : Nat
  active : Bool
  admitted : Bool
  ended : Nat
  peer : Nat
  hits : Nat
  admitAt : Nat
  step : Nat
  deriving DecidableEq, Repr, Inhabited

/-- A fault record (Table 12-3). -/
structure FaultRec where
  cause : Nat
  th : Option (Nat × Nat × Nat)
  die : Option Nat
  slotc : Nat
  baddr : Option Nat
  handle : Nat
  unit : Nat
  oper : Nat
  step : Nat
  pwrOn : BitVec 32
  tick : BitVec 64
  temp : BitVec 16
  vrail : BitVec 16
  origin : Nat
  detail : Nat
  deriving DecidableEq, Repr

/-- A cause waiting for the end of the cycle (R47, R310): the context, the cause and what its record will say. -/
structure FaultReq where
  slot : Nat
  cause : Nat
  th : Option (Nat × Nat × Nat)
  die : Option Nat
  slotc : Nat
  baddr : Option Nat
  unit : Nat
  oper : Nat
  origin : Option Nat
  detail : Nat
  deriving DecidableEq, Repr

/-- The identity of a context (R258, R260, R269, Tables 10-3, 10-4) and its reset in progress (R50, R261). -/
structure CtxId where
  st : CState
  cause : Nat
  minp : Bool
  secp : Bool
  trn : Nat
  col : Nat
  ldg : Nat
  job : Nat
  resetting : Bool
  resetTick : BitVec 64
  scrubs : List Nat
  resetFly : List (Option Nat × Nat)
  dying : Bool
  deriving DecidableEq, Repr, Inhabited

/-- The Plumb step-progress interval (R319): its start tick and limit, when one runs. -/
structure CtxPlumb where
  startTick : Option (BitVec 64)
  limit : Nat
  deriving DecidableEq, Repr, Inhabited

/-- A piece of work of a command's own transfer: memory-side source, destination and retention-pool copy, and whether its
data come from or go to a peer. -/
structure JobItem where
  id : Nat
  src : List Seg
  dst : List Seg
  pool : List Seg
  remote : Bool
  deriving DecidableEq, Repr

/-- A transfer a command makes (COPY, GATHER, SCATTER): its command, kind (0 COPY, 1 GATHER, 2 SCATTER), the pieces not yet
acknowledged, poisoned destination lines, whether a peer refused, and the retention slot it fills. -/
structure Job where
  uid : Nat
  slot : Nat
  handle : Nat
  ring : Nat
  seq : Nat
  kind : Nat
  todo : List JobItem
  poisoned : Nat
  refused : Bool
  ret : Option Nat
  step : Nat
  deriving DecidableEq, Repr

/-- One context slot. `ev` holds the events after every change made; `evLog` the changes that some panel may not see yet (R77)
and `evOld` the events before them. -/
structure Ctx where
  id : CtxId
  set : CtxSet
  num : CtxNum
  log : CtxLog
  xl : FMap XEnt
  ev : BitVec 64
  evOld : BitVec 64
  evLog : List EvChg
  ret : CtxRet
  ring : FMap Ring
  seq : Nat
  launch : List LaunchRec
  led : Ledger
  far : CtxFar
  con : Contrail
  plumb : CtxPlumb
  fault : List FaultRec
  faultOvf : Nat
  chain : FMap (FMap (BitVec 512))
  chainErr : FMap (FMap WordErr)
  deriving DecidableEq, Repr, Inhabited

/-- Everything about contexts: the slots, the generation counters (what each has advanced since power-on, R258), the order
in which slots became free (R259), the contexts' own transfers, the causes and event changes of this cycle. -/
structure CtxTable where
  slot : FMap Ctx
  genAdv : FMap Nat
  nextFresh : Nat
  freed : List Nat
  genRecs : List (Nat × FMap GenRec)
  jobs : List Job
  faultq : List FaultReq
  evq : List (Nat × Option Nat × BitVec 64 × BitVec 64)
  stale : Nat
  deriving DecidableEq, Repr, Inhabited

/-! ### Memory tiers (spec 08) -/

/-- A memory error record (Table 8-13). -/
structure MemRec where
  kind : Nat
  src : Nat
  ch : Nat
  pc : Nat
  bank : Nat
  sym : Nat
  row : Nat
  handle : Nat
  pwrOn : BitVec 32
  step : Nat
  tick : BitVec 64
  deriving DecidableEq, Repr

/-- A memory error log (R203). -/
structure MemLog where
  recs : List MemRec
  ovf : Nat
  deriving DecidableEq, Repr, Inhabited

/-- A row or page of a stack named in flash: channel, row (or page) number. -/
structure RowRef where
  ch : Nat
  row : Nat
  deriving DecidableEq, Repr, Inhabited

/-- One HBM4 stack (R183, R203 to R208, Tables 8-3, 8-4, 8-14). Channel states: 0 IN_SERVICE, 1 RETRAIN, 2 FAILED,
3 MAPPED_OUT. `retired` names the 64 KiB pages retired, in the order of their replacement pages; `ceTicks` holds the ticks of a
channel's newest corrected errors (R208), `caLanes` the command/address lanes repaired in each channel (R211). -/
structure Stack where
  spare : Nat
  spareIn : Nat
  ceRow : Nat
  chThresh : Nat
  ch : FMap Nat
  propose : FMap Bool
  ce : Nat
  ue : Nat
  repaired : List RowRef
  soft : List RowRef
  retired : List RowRef
  ceRows : FMap (Nat × Nat)
  ceSeen : List RowRef
  ceTicks : FMap (List Nat)
  caLanes : FMap Nat
  log : MemLog
  trainTemp : FMap Int
  retryAt : FMap Nat
  deriving DecidableEq, Repr, Inhabited

/-- Tier B (R181, R187, R188, R210, Table 8-6). `ceSeen` names rows that have had a corrected error, `ueTicks` holds the ticks of
a package's newest uncorrectable ones, `drops` counts writes discarded for a failed package. -/
structure TierB where
  lining : Nat
  liningIn : Nat
  out : FMap Bool
  failed : FMap Bool
  ce : Nat
  ue : Nat
  linkCe : Nat
  ceSeen : List RowRef
  ueTicks : FMap (List Nat)
  drops : Nat
  log : MemLog
  temp : FMap Int
  deriving DecidableEq, Repr, Inhabited

/-- A die's stratum (R189 to R194, Tables 8-7, 8-8): pinned pages (context slot, module page), the granules of FAILED or RETRAIN
channels held in the fallback, the lines the cache holds, oldest first, the counters, and the lines (source of Table 8-13, channel,
row) that have had a corrected error. -/
structure Stratum where
  fbres : Nat
  fbresIn : Nat
  cacheOff : Bool
  pinned : List (Nat × Nat)
  fb : FMap Bool
  cache : List Nat
  ceSeen : List (Nat × Nat × Nat)
  ce : Nat
  ue : Nat
  spadCe : Nat
  spadUe : Nat
  fbDrop : Nat
  log : MemLog
  deriving DecidableEq, Repr, Inhabited

/-- Sander (R201, R202, Table 8-11). -/
structure Sander where
  period : Nat
  tierB : Bool
  strat : Bool
  tierA : Bool
  complete : Nat
  incomplete : Nat
  next : Nat
  skipped : List Nat
  again : List Nat
  first : List Nat
  sweep : Nat
  deriving DecidableEq, Repr, Inhabited

/-- Margining (R213, Tables 8-18, 8-19). -/
structure Margin where
  busy : Bool
  type : Nat
  unit : Nat
  sel : Nat
  status : Nat
  lanes : FMap (BitVec 32)
  run : Option (Nat × Nat)
  deriving DecidableEq, Repr, Inhabited

/-- A die-to-die port (R15, R211, R212, Table 8-16); `spares` is its repair map, kept in flash: the modules whose spare lane is in
use, as 16 × direction + module. -/
structure D2d where
  up : Bool
  nrep : Nat
  failMod : Option Nat
  cause : Nat
  replay : Nat
  run : Nat
  spares : List Nat
  deriving DecidableEq, Repr, Inhabited

/-- A bit error of a memory line that no read has found yet (R198, R200): in its stratum's copy or in the tier's own cells, and
what a read finds. -/
structure BadLine where
  strat : Bool
  err : ErrLine
  deriving DecidableEq, Repr

/-- The module's memory: bytes at module physical addresses (an unlisted byte reads 0, R350 and log entry 3), poison marks of the
tiers' own lines (`poison`) and of a stratum's copies (`spoison`, R199),
the initialisation in progress (its next page in the order of R350, and the pages initialised out of turn), the controllers,
and the writes that push-ahead holds, by requester and piece (R289). -/
structure MemSt where
  bytes : List Host.Cell
  poison : FMap Bool
  spoison : FMap Bool
  bad : FMap (Option BadLine)
  initAt : Option Nat
  initEarly : FMap Bool
  lost : FMap Nat
  stack : FMap Stack
  tb : TierB
  str : FMap Stratum
  snd : Sander
  mrg : Margin
  d2d : FMap D2d
  held : List (Nat × Nat)
  deriving DecidableEq, Repr, Inhabited

/-! ### The host interface (spec 10) -/

/-- A holder of a resource group (R277): activity, whether a host request holds it, the instance key `type * 65536 + inst`,
and, for an activity that takes time, its ring command and argument. -/
structure Holder where
  group : Nat
  act : Nat
  host : Bool
  seq : Option Nat
  arg : BitVec 64
  deriving DecidableEq, Repr, Inhabited

/-- The admin ring (R266, R268, Table 10-7). -/
structure AdminRing where
  en : Bool
  logn : Nat
  base : BitVec 64
  cpl : BitVec 64
  ring : Ring
  deriving DecidableEq, Repr, Inhabited

/-- A group query that waits for the group's head (R276): its ring and number, the prefix, where the result goes, and the
tick it was sent. -/
structure QueryWait where
  ring : RingRef
  seq : Nat
  key : Nat
  slot : Option Nat
  dst : List Seg
  tick : Nat
  deriving DecidableEq, Repr

/-- A command's own result, or a line the leader mirrors, that its memory controller still holds (R289, R193): its number among
the held writes, the context, the place, the bytes and their poison, and the command that completes with it. -/
structure ResWrite where
  uid : Nat
  slot : Option Nat
  segs : List Seg
  data : List (BitVec 8)
  poison : Bool
  fin : Option (RingRef × Nat)
  deriving DecidableEq, Repr

/-- A MEM_UNMAP that waits for the requests that translated through its pages (R265): memory pages, host or module. -/
structure UnmapWait where
  seq : Nat
  slot : Nat
  pages : List (Bool × Nat)
  deriving DecidableEq, Repr

/-- A gather of class REUSE that waits while its retention slot is PENDING (R177). -/
structure ReuseWait where
  seq : Nat
  slot : Nat
  ring : Nat
  w : BitVec 512
  deriving DecidableEq, Repr

/-- The host interface: host memory as the module reads and writes it, Bus Master Enable, doorbell drops, MSI-X state (the messages
sent, the table, the pending bits that are set), scaffold holders, group queries that wait for an answer. -/
structure HostSt where
  bytes : List Host.Cell
  master : Bool
  dbDrop : Nat
  ar : AdminRing
  vectors : List Nat
  vtable : FMap (BitVec 32)
  vpend : List Nat
  holders : List Holder
  queries : List QueryWait
  results : List ResWrite
  reuse : List ReuseWait
  unmaps : List UnmapWait
  deriving DecidableEq, Repr, Inhabited

/-! ### The fabric (spec 09) -/

/-- A Griand port (R218 to R228, Tables 9-13 to 9-15). States: 0 DOWN, 1 UP, 2 LISTEN, 3 ISOLATED. -/
structure Port where
  hzn : Nat
  st : Nat
  lanes : Nat
  drz : Bool
  axis : Nat
  cause : Nat
  failLane : Option Nat
  failTwo : Bool
  phy : Nat
  link : Nat
  trn : Nat × Nat
  col : Nat × Nat
  ldg : Nat × Nat
  other : List (Nat × Nat)
  tree : Nat
  leafPort : Nat
  moved : Bool
  leaf : BitVec 64
  fecCw : Nat
  replay : Nat
  downs : Nat
  run : Nat
  addr : Nat
  answered : Bool
  hello : Bool
  boundId : BitVec 64
  digest : List (BitVec 8)
  deriving DecidableEq, Repr, Inhabited

/-- An output chunk of a reduction (R245, R247): bytes, scale bytes, the poison of each element, event counts, digest lane. -/
structure CumOut where
  data : List (BitVec 8)
  scales : List (BitVec 8)
  poison : List Bool
  ev : NumCounts
  digest : BitVec 64
  deriving DecidableEq, Repr, Inhabited

/-- A module's failure-domain tags (R226): tray, power shelf and cooling loop, and, of each port that a leaf switch has answered, tree id
and leaf switch identity. -/
structure UnitTags where
  tray : BitVec 32
  pwr : BitVec 32
  leafs : List (Nat × BitVec 64)
  deriving DecidableEq, Repr, Inhabited

/-- A frame the module sends (R222, R232, R241, R244, R247, R294, R297, R314, R321, R340). A packet
of a job leaves on a port (none: to this module itself), with its job, the job's protocol level (transport, collective, ledger) and its
transport sequence number (R219, R229, R237). -/
inductive Frame where
  | packet (port : Option Nat) (job : Nat) (level : Nat × Nat × Nat) (seq : Nat) (f : Frame)
  | hello (port : Nat) (ident : BitVec 64) (ranges : List (Nat × Nat)) (digest : List (BitVec 8)) (tags : UnitTags)
  | idleFlit (port : Nat)
  | replayed (port : Nat)
  | put (dst seq uid addr : Nat) (data : List (BitVec 8)) (poison : List Bool)
  | get (dst seq uid addr len : Nat)
  | receipt (dst seq : Nat)
  | completion (dst seq : Nat) (refused : Bool) (data : List (BitVec 8)) (poison : List Bool)
  | phase (dst step k : Nat) (set : Option Nat) (differ : Bool)
  | phaseAgree (dst step k : Nat) (set : Option Nat) (differ : Bool)
  | contribution (dst seq chunk : Nat) (p : CumParams) (data scales : List (BitVec 8)) (poison : List Bool) (sigma : Int) (key : BitVec 64)
  | chunk (dst seq chunk : Nat) (o : CumOut)
  | seal (dst step : Nat) (clean : Bool)
  | sealDecision (dst step : Nat) (sealed : Bool)
  | mirrorChunk (dst step stack idx : Nat) (data : List (BitVec 8))
  | mirrorManifest (dst step : Nat) (data : List (BitVec 8))
  | mirrorInput (dst step addr : Nat) (data : List (BitVec 8)) (last : Bool)
  | mirrorLog (dst step ring : Nat) (cmd : BitVec 512)
  | mirrorAck (dst step kind : Nat) (ok : Bool)
  | mirrorRefuse (dst step stack idx : Nat)
  | mirrorRekey (dst unit step : Nat)
  | mirrorSealed (dst step : Nat)
  | mirrorWant (dst unit step : Nat) (chunk : Option (Nat × Nat))
  | mirrorSupply (dst step stack idx : Nat) (data : List (BitVec 8))
  | mirrorSupplyCmd (dst step ring : Nat) (cmd : BitVec 512)
  | mirrorSupplyEnd (dst step reason : Nat)
  | buddyAsk (dst job : Nat)
  | buddyAnswer (dst job : Nat) (present room : Bool) (tags : UnitTags)
  | squall (dst plane job origin ohandle cause : Nat) (relayed : Bool) (step : Nat) (pwrOn : BitVec 32)
  | heartbeat (dst plane : Nat) (pwrOn : BitVec 32) (power outcome role : Nat)
  | descriptor (dst : Nat) (data : List (BitVec 8))
  | query (prefixLen value : Nat)
  | shadowLine (dst kind uid addr : Nat) (data : List (BitVec 8)) (poison : Bool)
  | shardDigest (dst step : Nat) (digest : List (BitVec 8))
  | shardResult (dst step : Nat) (same : Bool)
  deriving DecidableEq, Repr

/-- A packet this module has sent and not yet seen wholly acknowledged (R232, R237): its job and protocol level, the load or store
it belongs to, its frame, its sends and the port of the last, whether it is held for a port or for tags, and whether its receipt has
come. -/
structure OutPkt where
  seq : Nat
  slot : Nat
  handle : Nat
  uid : Nat
  key : Nat
  frame : Frame
  sends : Nat
  receipt : Bool
  job : Nat
  level : Nat × Nat × Nat
  port : Option Nat
  held : Bool
  deriving DecidableEq, Repr

/-- One piece of a packet that arrived: its memory-side bytes, and for a put its data and poison. -/
structure InItem where
  id : Nat
  va : Nat
  segs : List Seg
  data : List (BitVec 8)
  poison : Bool
  deriving DecidableEq, Repr

/-- A put or get that arrived and waits for the memory controllers before its completion acknowledgement leaves (R232). -/
structure InPut where
  src : Nat
  seq : Nat
  slot : Nat
  uid : Nat
  read : Bool
  todo : List InItem
  deriving DecidableEq, Repr, Inhabited

/-- A reduction this module takes part in (R243 to R250): its command, the step it started in, `SEQ`, parameters, addresses,
rank, the chunk this module owns once it is formed, the chunks written, the poisoned lines among them. -/
structure Reduce where
  slot : Nat
  handle : Nat
  ring : Nat
  fly : Nat
  step : Nat
  seq : Nat
  p : CumParams
  set : Nat
  src : Nat
  srcSc : Nat
  dst : Nat
  dstSc : Nat
  rank : Nat
  out : Option CumOut
  done : List Nat
  poisoned : Nat
  deriving DecidableEq, Repr, Inhabited

/-- A contribution held by a chunk owner (R244, R247): sender rank, parameters, decoded elements, poison, sum lane in units of
`2 ^ -149`, key check. -/
structure Contrib where
  slot : Nat
  seq : Nat
  rank : Nat
  p : CumParams
  vals : List FV
  poison : List Bool
  sigma : Int
  key : BitVec 64
  deriving DecidableEq, Repr

/-- A watched peer (R322): planes LOST, last power-on count, last heartbeat tick per plane, and whether the
loss of a head role was detected in the heartbeat period that still runs (R26). -/
structure Watch where
  used : Bool
  lost : List Nat
  pwrOn : Option (BitVec 32)
  last : FMap Nat
  power : Nat
  outcome : Nat
  silent : Bool
  fresh : Bool
  deriving DecidableEq, Repr, Inhabited

/-- A unit descriptor (Table 1-14). -/
structure UnitDesc where
  units : Nat
  depth : Nat
  feat : Nat
  degraded : Bool
  head : Nat
  panels : Nat
  tierA : Nat
  tierB : Nat
  stratum : Nat
  proto : List (Nat × Nat)
  members : List Nat
  deriving DecidableEq, Repr, Inhabited

/-- A discovery that this module answers as head (R25, R27): the group, the unit that asks (none: a query of this module's own), and
the descriptors it still waits for. -/
structure DiscAsk where
  key : Nat
  requester : Option Nat
  waiting : List Nat
  deriving DecidableEq, Repr

/-- A partner's copies in the Lining (R293, R294, R296). -/
structure Partner where
  job : Nat
  unit : Nat
  genA : GenRec
  genB : GenRec
  inputs : List (Nat × Nat × List (BitVec 8))
  cmds : List (Nat × Nat × BitVec 512)
  deriving DecidableEq, Repr, Inhabited

/-- The fabric side of the module. `beats` counts the heartbeat periods since it qualified as a group's member (R26). -/
structure FabSt where
  plan : Option (List (BitVec 8))
  addr : Nat
  outcome : Nat
  valid : Bool
  range : FMap Nat
  fdTray : BitVec 32
  fdPwr : BitVec 32
  fdTrayWr : Bool
  fdPwrWr : Bool
  discard : Nat
  port : FMap Port
  seq : Nat
  out : List OutPkt
  tags : Nat
  seen : List (Nat × Nat)
  puts : List InPut
  sent : List Frame
  red : List Reduce
  contrib : List Contrib
  watch : FMap Watch
  group : FMap UnitDesc
  partner : List Partner
  squalls : List (Nat × Nat)
  sqCnt : Nat
  hbTick : Nat
  beats : Nat
  asks : List DiscAsk
  deriving DecidableEq, Repr, Inhabited

/-! ### The keeper (spec 12, 13) -/

/-- A module event record (R331, Table 12-16). -/
structure EvRec where
  kind : Nat
  cause : Nat
  detail : Nat
  handle : Nat
  unit : Nat
  pwrOn : BitVec 32
  step : Nat
  tick : BitVec 64
  deriving DecidableEq, Repr

/-- A history entry (Table 12-20). -/
structure HistRec where
  utype : Nat
  unit : Nat
  kind : Nat
  detail : Nat
  temp : BitVec 16
  volt : BitVec 16
  opclass : Nat
  patsig : Nat
  where_ : BitVec 32
  pwrOn : BitVec 32
  tick : BitVec 64
  hours : Nat
  deriving DecidableEq, Repr, Inhabited

/-- A unit summary (R332, R334): class 0 CLEAN, 1 TRANSIENT, 2 RECURRING, 3 CONDITIONAL, 4 PERMANENT. -/
structure UnitSum where
  cls : Nat
  faults : Nat
  band : Option Nat
  family : Option Nat
  newest : Nat
  deriving DecidableEq, Repr, Inhabited

/-- A swatch slot (R336, R337): its package bytes and whether it is valid. -/
structure SwSlot where
  bytes : List (BitVec 8)
  valid : Bool
  deriving DecidableEq, Repr, Inhabited

/-- A swatch run in progress on a physical panel (R338): slot (none: the panel's built-in patterns), band mask (0:
every band), the ring command that asked, the tick of its start. -/
structure SwRun where
  slot : Option Nat
  mask : Nat
  seq : Option Nat
  since : Nat
  deriving DecidableEq, Repr, Inhabited

/-- Power states of R343. -/
inductive Power where
  | clear | haze | dusk | night
  deriving DecidableEq, Repr, Inhabited

/-- The power registers (Table 13-3) and the module's power state; `off`: no power, `hold`: HOLD. -/
structure PowerSt where
  st : Power
  off : Bool
  hold : Nat
  holdDetail : Nat
  busy : Bool
  target : Nat
  goal : Nat
  was : Option Power
  force : Bool
  noAuto : Bool
  result : Nat
  idle : Nat
  hazeWait : Bool
  lastIssue : BitVec 64
  clocksOff : Bool
  unlocked : Bool
  stopped : Bool
  deriving DecidableEq, Repr, Inhabited

/-- The start sequence (R351 to R356, Table 13-7): phase 0 when no start runs. -/
structure StartSt where
  phase : Nat
  lastRes : Nat
  full : Bool
  orderly : Bool
  flagForce : Bool
  why : Nat
  offOk : Bool
  bistWin : Nat
  newestFull : Nat
  newestHours : Nat
  ordFlash : Bool
  fromPwr : Bool
  deriving DecidableEq, Repr, Inhabited

/-- Fuses (R362) and the debug seal. -/
structure FuseSt where
  identity : BitVec 64
  sealed : Bool
  opkey : Option (List (BitVec 8))
  fwmin : Nat
  armed : Bool
  armTick : BitVec 64
  deriving DecidableEq, Repr, Inhabited

/-- The I3C target (R364 to R367): dynamic address, Hot-Join, interrupts raised, enables, lengths, offset. -/
structure I3cSt where
  dyn : Option Nat
  hotJoin : Bool
  ibis : List (Nat × Nat)
  evOff : Bool
  mrl : Nat
  mwl : Nat
  off : Nat
  reply : Option (List (BitVec 8))
  nack : Bool
  protErr : Bool
  askTags : Bool
  deriving DecidableEq, Repr, Inhabited

/-- The mailbox (R368). -/
structure MboxSt where
  busy : Bool
  op : Nat
  tgt : Nat
  status : Nat
  arg : BitVec 32
  win : List Host.Cell
  deriving DecidableEq, Repr, Inhabited

/-- A firmware slot (R369, R370). -/
structure FwSlot where
  bytes : List (BitVec 8)
  valid : Bool
  svn : Nat
  ranges : List (Nat × Nat)
  deriving DecidableEq, Repr, Inhabited

/-- Firmware slots and activation (R369 to R371). -/
structure FwSt where
  slot : FMap FwSlot
  active : Nat
  act : Nat
  bootFail : Nat
  armUntil : Option (BitVec 64)
  byScaffold : Option Nat
  attempts : Nat
  deriving DecidableEq, Repr, Inhabited

/-- A Weathervane sample (R361): quantity, unit, operating hour, margin in thousandths, temperature. -/
structure WvSample where
  qty : Nat
  unit : Nat
  hour : Nat
  m : Int
  temp : Int
  deriving DecidableEq, Repr

/-- Weathervane (R360, R361): operating hours, the samples, the hourly temperatures of the last 100 hours (newest first; dies 0
to 3, H-die, stacks), the newest least timing side of each channel, and what `KPR_WVLIFE` and `KPR_WVUNIT` report. -/
structure Weather where
  hours : Nat
  samples : List WvSample
  temps : List (List Int)
  chan : FMap Nat
  life : Nat
  conf : Nat
  qty : Nat
  unit : Nat
  deriving DecidableEq, Repr, Inhabited

/-- The keeper. -/
structure Kpr where
  ctxto : Nat
  noAutoMod : Bool
  noAutoDie : Bool
  hbPeriod : Nat
  hbMiss : Nat
  ev : List EvRec
  evOvf : Nat
  hist : FMap HistRec
  histHead : Nat
  histCnt : Nat
  histSel : BitVec 32
  sums : FMap UnitSum
  stage : Nat
  swatch : FMap SwSlot
  running : FMap (Option SwRun)
  pwr : PowerSt
  start : StartSt
  fuse : FuseSt
  i3c : I3cSt
  mbox : MboxSt
  fw : FwSt
  wv : Weather
  deriving DecidableEq, Repr, Inhabited

/-! ### The board (spec 14) -/

/-- Throttle causes of one die (R388, R389): step and count of readings below release, per cause. -/
structure Thr where
  step : FMap Nat
  below : FMap Nat
  deriving DecidableEq, Repr, Inhabited

/-- The outputs of CN-H and CN-F that the boundary register covers (R375, R378, Table 14-4): open-drain ones `true` while driven low,
the others their level, `none` while not driven; `sda` is what a test drives on I3C_SDA. -/
structure CnhPins where
  alert : Bool
  trip : Bool
  fault : Bool
  pwrgd : Option Bool
  offok : Option Bool
  mateA : Option Bool
  sda : Option Bool
  deriving DecidableEq, Repr, Inhabited

/-- The board: input power, hot-swap state, pins (`faultN`, `thermTrip`, `alertN`, `perst`: true while driven low), sensor
readings, throttling, coolant, the test access port (spec 14). -/
structure Brd where
  inputOn : Bool
  ovHold : Bool
  prsntOpen : Bool
  perst : Bool
  faultN : Bool
  thermTrip : Bool
  pwrgd : Bool
  alertN : Bool
  lastOffRail : Option Nat
  lastOffCause : Nat
  slotId : Nat
  mateOpen : Bool
  volt : Nat
  power : Nat
  rail : FMap Nat
  railBad : FMap Bool
  dieTemp : FMap Int
  stackTemp : FMap Int
  minStep : Nat
  pLimit : Nat
  fast : Bool
  fastTick : BitVec 64
  crit : Bool
  critOk : Option (BitVec 64)
  lowFlow : Bool
  flowCnt : Nat
  cold : Bool
  inletHi : Bool
  inlet : Int
  outlet : Int
  thrTime : Nat
  thr : FMap Thr
  ir : Nat
  bcells : BitVec 64
  pins : CnhPins
  tapOut : BitVec 64
  deriving DecidableEq, Repr, Inhabited

/-- A C-die: straps and topology (R8 to R12), protocol level (R16), panel map and rotation (Tables 2-11, 2-12), fault
manager settings, its reset. -/
structure Die where
  pos : Nat
  orient : Nat
  portDir : FMap Nat
  stkSwap : Bool
  npl : Nat
  map : FMap (Option Nat)
  spare : Option Nat
  next : Nat
  interval : Nat
  rotCnt : Nat
  lastRot : Option (BitVec 64)
  need : Nat
  ceil : Nat
  inReset : Bool
  resetTick : BitVec 64
  noAnswer : Nat
  cycBase : Nat
  deriving DecidableEq, Repr, Inhabited

/-- The H-die (R11, R16 to R18, Tables 1-4, 1-8, 1-9). -/
structure Hub where
  stepping : Nat
  neg : Nat
  seen : FMap (BitVec 8)
  deriving DecidableEq, Repr, Inhabited

/-- Per-requester register access state (R397, R398): the captured high word and its page offset, the held low write, the
last value read. Requester 0 is PCIe, 1 is I3C. -/
structure Access where
  capOff : Option Nat
  capVal : BitVec 32
  heldOff : Option Nat
  heldVal : BitVec 32
  lastRead : List (BitVec 8)
  deriving DecidableEq, Repr, Inhabited

/-- A register write received in the current K cycle (R395): its place in the order of R395, offset and value. -/
structure RegW where
  ord : Nat
  off : Nat
  val : Nat
  deriving DecidableEq, Repr, Inhabited

/-- Register directory state (spec 15): malformed accesses, error summaries and masks per page, requesters, the writes the
current K cycle has received, and the summary bits hardware has set in it. -/
structure DirSt where
  badAcc : Nat
  regq : List RegW
  errNew : FMap Nat
  errSum : FMap Nat
  errMask : FMap (Option Nat)
  acc : FMap Access
  deriving DecidableEq, Repr, Inhabited

/-- All state but the clock, the power-on count and the queue. `uid` numbers instructions and transfers; `free` counts the
free values drawn (the model's own field, not the spec's). -/
structure Body where
  uid : Nat
  free : Nat
  panel : FMap Panel
  die : FMap Die
  hub : Hub
  ctx : CtxTable
  mem : MemSt
  host : HostSt
  fab : FabSt
  kpr : Kpr
  brd : Brd
  dir : DirSt
  deriving DecidableEq, Repr, Inhabited

/-- The clock (R3, R29): the tick counter, the C cycles gone within the tick (0 to 1,799), and the C cycles since the
module left reset. -/
structure Clock where
  tick : BitVec 64
  sub : Nat
  cyc : Nat
  deriving DecidableEq, Repr, Inhabited

/-- The module: its clock, power-on count (R3), body, and the commands that wait, first in first out. -/
structure State where
  clk : Clock
  pwrOn : BitVec 32
  body : Body
  pending : List Instr
  deriving DecidableEq, Repr

/-- What a command's effect may read beside the body. -/
structure Env where
  clk : Clock
  pwrOn : BitVec 32
  deriving DecidableEq, Repr

/-- The readable part of a state for a command. -/
def State.env (s : State) : Env := ⟨s.clk, s.pwrOn⟩

/-- Why the machine stops with a fault. -/
inductive Fault where
  /-- Raised by no command: operands are typed so that they name units that exist, and every row has an effect. It is here because a
  machine has faults. Safe: no run reaches it. -/
  | noSuchUnit (what : String)
  deriving DecidableEq, Repr

/-- Why a command is refused. -/
inductive Refusal where
  /-- Raised by the dispatcher for a row whose meaning is not written. Safe: no claim covers it. -/
  | notModelled (mnemonic : String)
  deriving DecidableEq, Repr

/-! ### The machine after reset (R6, spec 13) -/

/-- A die after its first start: its straps (Table 1-2), ports a and b, negotiated level, identity panel map with panel 8
as spare. -/
def Die.reset (d dirA dirB : Nat) (npl : Nat) : Die :=
  { (default : Die) with
    pos := d, orient := d, portDir := (if dirA = 0 then [] else [(0, dirA)]) ++ [(1, dirB)], stkSwap := d % 2 == 0, 
    npl := npl, map := [(0, some 0), (1, some 1), (2, some 2), (3, some 3), (4, some 4), (5, some 5), (6, some 6), (7, some 7)],
    spare := some 8, interval := 60000, need := 0x3F }

/-- The physical panels of die `d`: panels 0 to 7 ACTIVE in the place of their number, panel 8 SPARE. -/
def panelsReset (d : Nat) : FMap Panel :=
  ([1, 2, 3, 4, 5, 6, 7].map fun p => (9 * d + p, { (default : Panel) with lpanel := p })) ++
    [(9 * d + 8, { (default : Panel) with st := .spare })]

/-- The negotiated protocol level: 4 with an H-die of stepping C0, 3 with B1 (Table 1-6). -/
def nplReset : Nat := if Config.hubStepping then 4 else 3

/-- An HBM4 stack at its defaults (Table 8-3). -/
def Stack.reset : Stack := { (default : Stack) with spare := 2, spareIn := 2, ceRow := 3, chThresh := 96 }

/-- A stratum at its defaults (Table 8-7). -/
def Stratum.reset : Stratum := { (default : Stratum) with fbres := 32, fbresIn := 32 }

/-- The memory tiers after reset: nothing listed, every page initialised, links up. -/
def MemSt.reset : MemSt :=
  { (default : MemSt) with
    stack := (List.range 8).map fun s => (s, Stack.reset)
    tb := { (default : TierB) with lining := 256, liningIn := 256 }
    str := (List.range 4).map fun d => (d, Stratum.reset)
    snd := { (default : Sander) with period := 1440, tierB := true, strat := true, tierA := true }
    d2d := (List.range 16).map fun n => (n, { (default : D2d) with up := true }) }

/-- The fabric after reset: no plan, ports in LISTEN, the version ranges of the installed firmware (Table 9-5). -/
def FabSt.reset : FabSt :=
  { (default : FabSt) with
    range := [(0, 2), (1, 3), (2, 3), (3, 4), (4, 1), (5, 2), (6, 1), (7, 2), (8, 2), (9, 3)]
    port := (List.range 6).map fun n => (n, { (default : Port) with st := 2, lanes := 8, axis := 3, cause := 0xB }) }

/-- The keeper after the first start: power state CLEAR, firmware in slot A, the settings at their defaults. -/
def Kpr.reset : Kpr :=
  { (default : Kpr) with
    ctxto := 10, hbPeriod := 1000, hbMiss := 4
    pwr := { (default : PowerSt) with idle := 10000 }
    start := { (default : StartSt) with bistWin := 720, lastRes := 1, full := true, newestFull := 1 }
    i3c := { (default : I3cSt) with hotJoin := true, askTags := true, mrl := 64, mwl := 64 }
    fuse := { (default : FuseSt) with identity := Config.identity }
    wv := { (default : Weather) with life := 1048575 }
    fw := { (default : FwSt) with slot := [(0, ⟨[], true, 0, [(1, 2), (3, 4), (2, 3), (2, 3), (1, 2)]⟩)] } }

/-- The body after reset. -/
def Body.reset : Body :=
  { (default : Body) with
    panel := panelsReset 0 ++ panelsReset 1 ++ panelsReset 2 ++ panelsReset 3
    die := [(0, Die.reset 0 1 3 nplReset), (1, Die.reset 1 0 3 nplReset), (2, Die.reset 2 0 2 nplReset), (3, Die.reset 3 1 2 nplReset)]
    hub :=
      { stepping := if Config.hubStepping then 2 else 1, neg := nplReset,
        seen := [(0, 0xC0#8), (1, 0xC5#8), (2, 0xCA#8), (3, 0xCF#8)] }
    mem := MemSt.reset
    fab := FabSt.reset
    kpr := Kpr.reset
    brd := { (default : Brd) with inputOn := true, pwrgd := true, pLimit := 3200, ir := 1, pins := ⟨false, false, false, some true, some false, some true, none⟩ } }

/-- The module right after its first power-on start: tick 0, power-on count 1, nothing pending. -/
def State.reset : State := { clk := ⟨0, 0, 0⟩, pwrOn := 1, body := Body.reset, pending := [] }


end Sys2Proof.Machine
end

