-- ==== Sys2Proof/Machine/Flags.lean ====
section
/-! DEFINITION. Numeric event flags (R136, R137): event kinds, the step flag, the counters that count them. -/

namespace Sys2Proof.Machine

/-- Saturating sums of event counts. -/
def NumCounts.satPlus (max : Nat) (a b : NumCounts) : NumCounts :=
  ⟨satAdd max a.ovf b.ovf, satAdd max a.nan b.nan, satAdd max a.unf b.unf, satAdd max a.sat b.sat⟩

/-- The kinds present among counts: bit 0 OVF to bit 3 SAT. -/
def NumCounts.kinds (c : NumCounts) : Nat :=
  b2n (c.ovf != 0) + 2 * b2n (c.nan != 0) + 4 * b2n (c.unf != 0) + 8 * b2n (c.sat != 0)

/-- C cycles from a change on physical panel `j` to the first cycle in which physical panel `k` can see it (R20, R21,
Table 1-13): one on the panel itself; 2 + 9 + 2 on another of its die; one lateral hop of 24 and a second die more; two hops
through an intermediate die on the diagonal. -/
def panelTransit (j k : Nat) : Nat :=
  if j = k then 1
  else if j / 9 = k / 9 then 2 + 9 + 2
  else if (j / 9 + 2) % 4 = k / 9 then 2 + 9 + 24 + 4 + 24 + 9 + 2
  else 2 + 9 + 24 + 9 + 2

/-- The longest of these counts. -/
def maxTransit : Nat := 74

/-- Is a change of cycle `cyc` made by `src` (none: no panel) seen on panel `k` in cycle `t`? -/
def seenOn (cyc : Nat) (src : Option Nat) (k t : Nat) : Bool :=
  match src with
  | none => true
  | some j => decide (cyc + panelTransit j k ≤ t)

/-- Count events of cycle `cyc` in the context's counters and, with a step open, in its step record and flag (R136, R137); a
panel's first event of an enabled kind is kept with its cycle (R138). -/
def CtxNum.count (n : CtxNum) (stepOpen : Bool) (cyc : Nat) (src : Option Nat) (c : NumCounts) : CtxNum :=
  let n := { n with cnt := n.cnt.satPlus 0xFFFFFFFF c }
  if stepOpen then
    let n := { n with stepEv := n.stepEv ||| c.kinds }
    if n.flagIn &&& c.kinds = 0 then n
    else { n with stepFlag := true, flagAt := if n.flagAt.any (·.2 == src) then n.flagAt else n.flagAt ++ [(cyc, src)] }
  else n

/-- The step flag as panel `k` sees it in cycle `t` (R138). -/
def CtxNum.flagSeen (n : CtxNum) (k t : Nat) : Bool := n.stepFlag && n.flagAt.any fun x => seenOn x.1 x.2 k t

end Sys2Proof.Machine
end

