-- ==== Sys2Proof/Machine/Ops.lean ====
section
/-! DEFINITION. The named operations over the state: panels and contexts by place, registers of a thread, the context
records of hazards, skips, strip disagreements, numeric events, ledger reports and fault causes, token and tag
accounting, event changes, and module events. -/

namespace Sys2Proof.Machine

/-! ### Clock -/

/-- The tick counter as a number. -/
def Env.tick (e : Env) : Nat := e.clk.tick.toNat
/-- The C cycle. -/
def Env.cyc (e : Env) : Nat := e.clk.cyc

/-! ### Contexts, handles and steps -/

/-- The context in a slot. -/
def ctxAt (b : Body) (slot : Nat) : Ctx := fget b.ctx.slot slot

/-- Replace the context in a slot. -/
def setCtx (b : Body) (slot : Nat) (c : Ctx) : Body := { b with ctx := { b.ctx with slot := fset b.ctx.slot slot c } }

/-- Change the context in a slot. -/
def modCtx (b : Body) (slot : Nat) (f : Ctx → Ctx) : Body := setCtx b slot (f (ctxAt b slot))

/-- The generation a counter shows that started at power-on and has advanced `adv` times (R258): 1 to 0xF_FFFF. -/
def genAt (pwrOn : BitVec 32) (adv : Nat) : Nat :=
  let low := pwrOn.toNat % 2 ^ 20
  let base := if low = 0 then 1 else low
  (base - 1 + adv) % 0xFFFFF + 1

/-- The slot's generation counter (R258). -/
def genOf (e : Env) (b : Body) (slot : Nat) : Nat := genAt e.pwrOn (fget b.ctx.genAdv slot)

/-- A handle (R258). -/
def mkHandle (gen slot : Nat) : Nat := gen * 4096 + slot

/-- The current handle of a slot; 0 while FREE. -/
def handleOf (e : Env) (b : Body) (slot : Nat) : Nat :=
  if (ctxAt b slot).id.st = .free then 0 else mkHandle (genOf e b slot) slot

/-- Advance a slot's generation counter (R258). -/
def advGen (b : Body) (slot : Nat) : Body := { b with ctx := { b.ctx with genAdv := fmod b.ctx.genAdv slot (· + 1) } }

/-- The number of the open step, 0 with none open (hazard, fault and memory records). -/
def stepNum (c : Ctx) : Nat := c.led.openStep.getD 0

/-- The step that a started command's log entry belongs to (R280): the open step, else the next to open; 0 while nothing says which
that is (before the first STEP_OPEN, or after a restore from a host stream), but for STEP_OPEN itself (`own`), which names it. -/
def logStep (l : Ledger) (own : Nat) : Nat :=
  match l.openStep with
  | some n => n
  | none => if l.anyNext || (!l.everOpened && l.lastClosed == 0) then own else l.lastClosed + 1

/-- Is this the handle of the slot's live context (R51)? -/
def liveHandle (e : Env) (b : Body) (slot handle : Nat) : Bool :=
  (ctxAt b slot).id.st == .live && !(ctxAt b slot).id.resetting && handleOf e b slot == handle

/-! ### Panels -/

/-- The key of a physical panel. -/
def pkey (die pp : Nat) : Nat := 9 * die + pp

/-- The physical panel that serves a logical panel (Table 2-11). -/
def physOf (b : Body) (die lp : Nat) : Option Nat := fget (fget b.die die).map lp

/-- A physical panel. -/
def panelAt (b : Body) (k : Nat) : Panel := fget b.panel k

/-- Replace a physical panel. -/
def setPanel (b : Body) (k : Nat) (p : Panel) : Body := { b with panel := fset b.panel k p }

/-- Change a physical panel. -/
def modPanel (b : Body) (k : Nat) (f : Panel → Panel) : Body := setPanel b k (f (panelAt b k))

/-- The thread of a panel. -/
def Panel.thread (p : Panel) (t : Nat) : Thread := fget p.seq.thr t

/-- Replace a thread. -/
def Panel.setThread (p : Panel) (t : Nat) (x : Thread) : Panel := { p with seq := { p.seq with thr := fset p.seq.thr t x } }

/-- Change a thread. -/
def Panel.modThread (p : Panel) (t : Nat) (f : Thread → Thread) : Panel := p.setThread t (f (p.thread t))

/-- The key of the physical panel an instruction ran on, found through its logical panel. -/
def insKey (b : Body) (i : Ins) : Nat := pkey i.die ((physOf b i.die i.lp).getD 0)

/-- The die cycle number of a C-die: C cycles since it left its last reset (R29). -/
def dieCyc (b : Body) (die c : Nat) : Nat := c - (fget b.die die).cycBase

/-- The free tags of a panel's pool (R74, R195). -/
def tagsFree (p : Panel) : Nat := Config.panelTags - p.seq.tagsUsed

/-- Return tags to the pool. -/
def Panel.giveTags (p : Panel) (n : Nat) : Panel := { p with seq := { p.seq with tagsUsed := p.seq.tagsUsed - n } }

/-- Take tags from the pool. -/
def Panel.takeTags (p : Panel) (n : Nat) : Panel := { p with seq := { p.seq with tagsUsed := p.seq.tagsUsed + n } }

/-! ### Registers of a thread (Table 3-4) -/

/-- A scalar register: s0 reads 0. -/
def Thread.sreg (t : Thread) (n : Nat) : SReg := if n = 0 then ⟨0, false⟩ else fget t.s n

/-- Write a scalar register: a write to s0 is discarded. -/
def Thread.setS (t : Thread) (n : Nat) (v : BitVec 64) (p : Bool) : Thread :=
  if n = 0 then t else { t with s := fset t.s n ⟨v, p⟩ }

/-- A predicate: p0 reads 1. -/
def Thread.preg (t : Thread) (n : Nat) : PReg := if n = 0 then ⟨true, false⟩ else fget t.p n

/-- Write a predicate: a write to p0 is discarded. -/
def Thread.setP (t : Thread) (n : Nat) (v p : Bool) : Thread := if n = 0 then t else { t with p := fset t.p n ⟨v, p⟩ }

/-- A line register. -/
def Thread.areg (t : Thread) (n : Nat) : Nat := (fget t.a n).toNat

/-- A sync token. -/
def Thread.token (t : Thread) (n : Nat) : Nat := fget t.tok n

/-- Add a result to those on their way, in issue order: among results that land together the later-issued is written last (R63). -/
def Thread.addRes (t : Thread) (r : Res) : Thread :=
  { t with res := t.res.filter (fun x => decide (x.iss ≤ r.iss)) ++ [r] ++ t.res.filter fun x => decide (r.iss < x.iss) }

/-- Write one result into its register. -/
def Thread.put (t : Thread) (r : Res) : Thread :=
  match r.dest with
  | .s n => t.setS n r.val r.poison
  | .p n => t.setP n (r.val != 0) r.poison
  | .a n => { t with a := fset t.a n (r.val.setWidth 17) }

/-- The results that have become visible in cycle `c`, written in issue order (R63). -/
def Thread.settle (t : Thread) (c : Nat) : Thread :=
  let due := t.res.filter fun r => decide (r.cyc ≤ c)
  let t' := due.foldl Thread.put t
  { t' with res := t.res.filter fun r => decide (c < r.cyc) }

/-- Add one to a token (R73). -/
def Thread.tokUp (t : Thread) (k : Nat) : Thread := { t with tok := fmod t.tok k (· + 1) }

/-- Subtract one from a token (R73). -/
def Thread.tokDown (t : Thread) (k : Nat) : Thread := { t with tok := fmod t.tok k (· - 1) }

/-- The four live loop counters, outermost first (R127). -/
def Thread.counters (t : Thread) : List Nat := t.loops.reverse.map (·.cnt)

/-! ### Ledger reports (R280) -/

/-- The step record the reporting work belongs to: the open step's, or the one kept for the next step. -/
def Ledger.modCur (l : Ledger) (f : StepRec → StepRec) : Ledger :=
  match l.openStep with
  | some n => { l with step := fset l.step n (f (fget l.step n)) }
  | none => { l with next := f l.next }

/-- Mark the current step of a context locally dirty for a cause that is no checker disagreement (R280, R325). -/
def reportDirty (b : Body) (slot : Nat) : Body :=
  modCtx b slot fun c => { c with led := c.led.modCur fun r => { r with dirtyOther := true } }

/-- Mark the current step dirty for a checker disagreement, kept for adjudication (R325). -/
def reportDisagree (b : Body) (slot : Nat) (d : Disagree) : Body :=
  modCtx b slot fun c => { c with led := c.led.modCur fun r =>
    { r with dirtyChecker := true, disagree := r.disagree ++ [d] } }

/-! ### Fault causes (R310) -/

/-- Queue a cause for the end of the cycle. -/
def raise (b : Body) (f : FaultReq) : Body := { b with ctx := { b.ctx with faultq := b.ctx.faultq ++ [f] } }

/-- Do the N, D and M domains run (R23, R24, R212)? -/
def clocksRun (b : Body) : Bool := !b.kpr.pwr.clocksOff && !b.kpr.pwr.stopped && !b.kpr.pwr.off

/-- Units of a fault record for a slot (Table 12-3). -/
def slotUnit : Nat → Nat
  | 0 => 1
  | 1 => 2
  | 2 => 3
  | 3 => 4
  | 4 => 5
  | 5 => 6
  | _ => 7

/-- The fault of an instruction. -/
def insFault (b : Body) (i : Ins) (cause detail : Nat) : FaultReq :=
  { slot := i.slot, cause := cause, th := some (i.th, (physOf b i.die i.lp).getD 0, i.lp), die := some i.die,
    slotc := i.slotc, baddr := some i.baddr, unit := slotUnit i.slotc, oper := i.opc, origin := none, detail := detail }

/-! ### Hazards (R46 to R49) -/

/-- One line affected by a hazard: what the record of Table 2-10 says of it. -/
structure HazLine where
  line : Nat
  exp : Option Nat
  found : Nat
  pend : Bool
  pois : Bool
  deriving DecidableEq, Repr

/-- The hazard record of an instruction at one line; its step is the one open when the record is made (Table 2-10). -/
def hazRec (e : Env) (b : Body) (i : Ins) (kind : Nat) (h : HazLine) : HazRec :=
  { uid := i.uid, kind := kind, slotc := i.slotc, th := i.th, pp := (physOf b i.die i.lp).getD 0, lp := i.lp,
    die := i.die, baddr := i.baddr, line := h.line, exp := h.exp.getD 0, found := h.found, pend := h.pend,
    pois := h.pois, expv := h.exp.isSome, step := stepNum (ctxAt b i.slot), tick := e.clk.tick }

/-- Put a record into a hazard log: one record per kind and instruction, which names the lowest-numbered line (R48); a
record that finds the log full is discarded and counted (R49). When a lower line turns up later, the whole record becomes that
line's, its tick included (DESIGN CHOICE, log entry 71). -/
def CtxLog.addHaz (l : CtxLog) (first : Bool) (r : HazRec) : CtxLog :=
  if first then
    if l.haz.length < 16 then { l with haz := l.haz ++ [r] } else { l with hazOvf := satAdd 0xFFFF l.hazOvf 1 }
  else
    { l with haz := l.haz.map fun x =>
        if x.uid = r.uid ∧ x.kind = r.kind ∧ r.line < x.line then r else x }

/-- Count and record one affected line under the stamp mode in force when it is met (Table 2-7): the instruction's first line
recorded makes its record, its first line under FAULT raises the fault. -/
def noteHaz1 (e : Env) (i : Ins) (kind : Nat) (b : Body) (h : HazLine) : Body :=
  let k := insKey b i
  let p := panelAt b k
  if p.seen.any fun x => x.uid == i.uid && x.kind == kind && x.line == h.line then b
  else
    let mine := p.seen.filter fun x => x.uid == i.uid && x.kind == kind
    let c := ctxAt b i.slot
    let rec_ := decide (c.set.stampMode ≠ 0) || kind == 8
    let flt := decide (c.set.stampMode = 2) && kind != 8
    let b := setPanel b k { p with seen := p.seen ++ [⟨i.uid, kind, h.line, rec_, flt⟩] }
    let l := { c.log with hazCnt := fmod c.log.hazCnt kind (satAdd 0xFFFFFFFF · 1) }
    let l := if rec_ then l.addHaz (!mine.any (·.recd)) (hazRec e b i kind h) else l
    let b := setCtx b i.slot { c with log := l }
    if flt && !mine.any (·.flt) then raise b (insFault b i 0x05 kind) else b

/-- Count and record a hazard at several lines. -/
def noteHaz (e : Env) (b : Body) (i : Ins) (kind : Nat) (hs : List HazLine) : Body := hs.foldl (noteHaz1 e i kind) b

/-- A hazard that concerns no line (ENGINE_OVERLAP, R34). -/
def noteOverlap (e : Env) (b : Body) (i : Ins) : Body := noteHaz e b i 6 [⟨0, none, 0, false, false⟩]

/-! ### Skipped slots (R88 to R90) -/

/-- Append the record of one skip and count it; at `THRESH` the context faults (R90). -/
def noteSkip (b : Body) (i : Ins) (reason : Nat) : Body :=
  let c := ctxAt b i.slot
  let r : IllRec :=
    { reason := reason, slotc := i.slotc, th := i.th, pp := (physOf b i.die i.lp).getD 0, lp := i.lp,
      die := i.die, opc := i.opc, baddr := i.baddr, step := stepNum c }
  let n := c.log.illCnt
  let l : CtxLog := { c.log with illCnt := satAdd 0xFFFFFFFF n 1 }
  let l := if l.ill.length < 64 then { l with ill := l.ill ++ [r] } else { l with illOvf := satAdd 0xFFFF l.illOvf 1 }
  let b := setCtx b i.slot { c with log := l }
  let th := c.set.illThresh
  if th ≠ 0 ∧ n < th ∧ th ≤ n + 1 then raise b (insFault b i 0x06 reason) else b

/-! ### Numeric events (R136, R137) -/

/-- Count the events of an instruction: thread, context and step (R136). -/
def countEvents (e : Env) (b : Body) (i : Ins) (c : NumCounts) : Body :=
  if c = NumCounts.zero then b
  else
    let b := modCtx b i.slot fun x => { x with num := x.num.count x.led.openStep.isSome e.cyc (some (insKey b i)) c }
    modPanel b (insKey b i) fun p => p.modThread i.th fun t => { t with num := t.num.satPlus 0xFFFF c }

/-! ### Strip disagreements (R113) -/

/-- Log, count and report one disagreeing row. -/
def noteStrip (e : Env) (b : Body) (i : Ins) (row : Nat) (pl wt : Bool) (col psum : Nat) : Body :=
  let pp := (physOf b i.die i.lp).getD 0
  let c := ctxAt b i.slot
  let r : StripRec :=
    { col := col, wt := wt, pl := pl, th := i.th, pp := pp, lp := i.lp, die := i.die,
      baddr := i.baddr, row := row, psum := psum, step := stepNum c, tick := e.clk.tick }
  let l : CtxLog := { c.log with stripCnt := satAdd 0xFFFFFFFF c.log.stripCnt 1 }
  let l := if l.strip.length < 8 then { l with strip := l.strip ++ [r] }
    else { l with stripOvf := satAdd 0xFFFF l.stripOvf 1 }
  reportDisagree (setCtx b i.slot { c with log := l }) i.slot (.strip i.baddr i.loops row i.lp pp i.die)

/-! ### Events (R77) -/

/-- Queue event changes of a context, made by physical panel `src`, for the end of the cycle. -/
def queueEvents (b : Body) (slot : Nat) (src : Option Nat) (set clr : BitVec 64) : Body :=
  { b with ctx := { b.ctx with evq := b.ctx.evq ++ [(slot, src, set, clr)] } }

/-- The single-event mask. -/
def evMask (e : Nat) : BitVec 64 := 1#64 <<< e

/-- The events after a list of changes in the order of their cycles: a set prevails over a clear of its cycle (R77). -/
def evReplay (l : List EvChg) (v : BitVec 64) : BitVec 64 :=
  let sets (c : Nat) : BitVec 64 := (l.filter (·.cyc == c)).foldl (fun m x => m ||| x.set) 0#64
  l.foldl (fun v x => (v &&& ~~~(x.clr &&& ~~~sets x.cyc)) ||| x.set) v

/-- Make a change of a context's events. -/
def Ctx.evChange (c : Ctx) (x : EvChg) : Ctx :=
  { c with evLog := c.evLog ++ [x], ev := evReplay (c.evLog ++ [x]) c.evOld }

/-- The events as panel `k` sees them in cycle `t` (R77). -/
def Ctx.evView (c : Ctx) (k t : Nat) : BitVec 64 := evReplay (c.evLog.filter fun x => seenOn x.cyc x.src k t) c.evOld

/-- The transit of an event from a panel to the H-die: into the network 2, its die 9, the hub hop 24, the H-die 11 (Table 1-13). -/
def hostTransit : Nat := 46

/-- The events as the H-die sees them in cycle `t` (R413): what hosts and Cumulus set at once, what a panel sets after the transit.
While the panels' clock stands nothing is under way. -/
def hostEvents (b : Body) (slot t : Nat) : BitVec 64 :=
  let c := ctxAt b slot
  if b.kpr.pwr.st == .clear then evReplay (c.evLog.filter fun x => x.src.isNone || decide (x.cyc + hostTransit ≤ t)) c.evOld else c.ev

/-- Forget the order of changes that every panel has seen by cycle `t`. -/
def Ctx.evPrune (c : Ctx) (t : Nat) : Ctx :=
  let old (x : EvChg) : Bool := decide (x.cyc + maxTransit < t)
  { c with evOld := evReplay (c.evLog.filter old) c.evOld, evLog := c.evLog.filter fun x => !old x }

/-- Apply the queued event changes at the end of the current cycle. -/
def commitEvents (e : Env) (b : Body) : Body :=
  let b' := b.ctx.evq.foldl (fun b q => modCtx b q.1 fun c => c.evChange ⟨e.cyc, q.2.1, q.2.2.1, q.2.2.2⟩) b
  { b' with ctx := { b'.ctx with evq := [], slot := fmapVals b'.ctx.slot fun _ c => if c.evLog.isEmpty then c else c.evPrune e.cyc } }

/-! ### Module events and vectors (R331, R268) -/

/-- May the message of an MSI-X vector leave: the function masters writes (R255) and the vector is not masked? The table holds the
mask of an entry's vector control word inverted, as it resets masked. -/
def vecOpen (b : Body) (v : Nat) : Bool := b.host.master && (fget b.host.vtable (4 * v + 3)).getLsbD 0

/-- Raise an MSI-X vector: its message leaves, or its pending bit is set until it may (R256). -/
def raiseVector (b : Body) (v : Nat) : Body :=
  if vecOpen b v then { b with host := { b.host with vectors := b.host.vectors ++ [v] } }
  else { b with host := { b.host with vpend := if b.host.vpend.contains v then b.host.vpend else b.host.vpend ++ [v] } }

/-- Pending vectors whose message may leave send it. -/
def sendPending (b : Body) : Body :=
  { b with host := { b.host with vectors := b.host.vectors ++ b.host.vpend.filter (vecOpen b)
                                 vpend := b.host.vpend.filter fun v => !vecOpen b v } }

/-- A word of the MSI-X pending-bit array: bit v of the array is vector v's. -/
def pendWord (b : Body) (i : Nat) : Nat := ((List.range 32).filter fun j => b.host.vpend.contains (32 * i + j)).foldl (fun n j => n + 2 ^ j) 0

/-- Raise an I3C in-band interrupt with its mandatory byte and payload; none while DISEC has disabled them. -/
def raiseIbi (b : Body) (mdb payload : Nat) : Body :=
  if b.kpr.i3c.evOff then b
  else { b with kpr := { b.kpr with i3c := { b.kpr.i3c with ibis := b.kpr.i3c.ibis ++ [(mdb, payload)] } } }

/-- The module's own unit address as the manual reports it (R224). -/
def ownUnit (b : Body) : Nat := b.fab.addr

/-- Append a module event: log record, vector 0, and an in-band interrupt with the event's kind and word 0 (R331, R366). -/
def moduleEvent (e : Env) (b : Body) (kind cause detail handle unit step : Nat) : Body :=
  let r : EvRec :=
    { kind := kind, cause := cause, detail := detail, handle := handle, unit := unit, pwrOn := e.pwrOn, step := step,
      tick := e.clk.tick }
  let k := b.kpr
  let k := if k.ev.length < 64 then { k with ev := k.ev ++ [r] } else { k with evOvf := satAdd 0xFFFF k.evOvf 1 }
  raiseIbi (raiseVector { b with kpr := k } 0) kind (kind * 2 ^ 24 + cause % 256 * 2 ^ 16 + detail % 65536)

/-- Hardware sets summary bits of a page; they outlast a clear in the same K cycle (R395, R402). -/
def errSet (d : DirSt) (page bits : Nat) : DirSt :=
  { d with errSum := fmod d.errSum page (· ||| bits), errNew := fmod d.errNew page (· ||| bits) }

/-- A fresh instruction number. -/
def freshUid (b : Body) : Nat × Body := (b.uid + 1, { b with uid := b.uid + 1 })

end Sys2Proof.Machine
end

