-- ==== Sys2Proof/Machine/Mem.lean ====
section
/-! DEFINITION. Memory: the canonical byte lists of module and host memory, the address map and its interleave (R179 to
R181), line writes and poison marks (R199), the fallback of a channel out of service (R193), the error logs and the unit
history (R203, R332 to R334), and the translation of context addresses (R263, R264). -/

namespace Sys2Proof.Machine

/-! ### Byte lists in canonical form -/

/-- The listed byte of an address, when one is listed. -/
def cellFind : List Host.Cell → Nat → Option (BitVec 8)
  | [], _ => none
  | (k, v) :: t, a => if k = a then some v else cellFind t a

/-- The byte of an address; an unlisted address reads `bg`. -/
def cellGet (bg : Nat → BitVec 8) (m : List Host.Cell) (a : Nat) : BitVec 8 := (cellFind m a).getD (bg a)

/-- Write a byte; writing what an unlisted address reads removes the entry. -/
def cellSet (bg : Nat → BitVec 8) (m : List Host.Cell) (a : Nat) (v : BitVec 8) : List Host.Cell :=
  if v = bg a then fdel m a else fput m a v

/-- The canonical form of a byte list: addresses strictly rising, no entry equal to what an unlisted address reads. -/
def Memory.wf (bg : Nat → BitVec 8) : List Host.Cell → Bool
  | [] => true
  | (k, v) :: t => decide (v ≠ bg k) && fabove k t && Memory.wf bg t

/-- Write consecutive bytes. -/
def cellSetMany (bg : Nat → BitVec 8) (m : List Host.Cell) : Nat → List (BitVec 8) → List Host.Cell
  | _, [] => m
  | a, v :: vs => cellSetMany bg (cellSet bg m a v) (a + 1) vs

/-- Read consecutive bytes. -/
def cellGetMany (bg : Nat → BitVec 8) (m : List Host.Cell) (a n : Nat) : List (BitVec 8) :=
  (List.range n).map fun i => cellGet bg m (a + i)

/-- The region of a module address whose contents a map-out can lose: windows 0 to 3, Tier B 4 (R209, R210). -/
def memRegion (a : Nat) : Nat := if a < 2 ^ 40 then a / 2 ^ 38 else 4

/-- What an unlisted byte of module memory reads: 0 after initialisation (R350); a free value in a region whose contents a
map-out did not preserve (R209, R210). -/
def memBg (lost : FMap Nat) (a : Nat) : BitVec 8 :=
  let n := fget lost (memRegion a)
  if n = 0 then 0 else Config.freeByte (n * 2 ^ 42 + a)

/-- What an unlisted byte of host memory reads: 0 (log entry 2). -/
def hostBg (_ : Nat) : BitVec 8 := 0

/-- Bytes of module memory. -/
def MemSt.read (m : MemSt) (a n : Nat) : List (BitVec 8) := cellGetMany (memBg m.lost) m.bytes a n

/-- Store bytes in module memory. -/
def MemSt.write (m : MemSt) (a : Nat) (d : List (BitVec 8)) : MemSt :=
  { m with bytes := cellSetMany (memBg m.lost) m.bytes a d }

/-- The contents of a region are lost: its bytes are free values until written again. -/
def MemSt.lose (m : MemSt) (region : Nat) : MemSt :=
  { m with bytes := m.bytes.filter (fun c => memRegion c.1 != region), lost := fmod m.lost region (· + 1),
           poison := m.poison.filter fun c => memRegion (c.1 * 64) != region
           spoison := m.spoison.filter fun c => memRegion (c.1 * 64) != region
           str := fmapVals m.str fun _ x => { x with cache := x.cache.filter fun l => memRegion (l * 64) != region }
           bad := m.bad.filter fun c => memRegion (c.1 * 64) != region }

/-- Bytes of host memory. -/
def hostRead (b : Body) (a n : Nat) : List (BitVec 8) := cellGetMany hostBg b.host.bytes a n

/-- Store bytes in host memory. -/
def hostWrite (b : Body) (a : Nat) (d : List (BitVec 8)) : Body :=
  { b with host := { b.host with bytes := cellSetMany hostBg b.host.bytes a d } }

/-! ### Words and lines as bytes -/

/-- The little-endian bytes of a word. -/
def bytesOf {w : Nat} (n : Nat) (v : BitVec w) : List (BitVec 8) := (leBytes n v.toNat).map (BitVec.ofNat 8)

/-- The little-endian value of bytes. -/
def bytesVal (l : List (BitVec 8)) : Nat := leVal (l.map (·.toNat))

/-- A little-endian field of a byte list. -/
def bytesAt (l : List (BitVec 8)) (off n : Nat) : Nat := bytesVal ((l.drop off).take n)

/-- The bytes of a 64-byte line. -/
def lineBytes (v : BitVec 512) : List (BitVec 8) := bytesOf 64 v

/-- A 64-byte line of bytes. -/
def lineOf (l : List (BitVec 8)) : BitVec 512 := BitVec.ofNat 512 (bytesVal l)

/-! ### The address map (R179 to R184) -/

/-- State of a channel. -/
def chState (b : Body) (stack ch : Nat) : Nat := fget (fget b.mem.stack stack).ch ch

/-- The channel list of a die window: channels not MAPPED_OUT, lower stack first (R180). -/
def chList (b : Body) (die : Nat) : List (Nat × Nat) :=
  ((List.range 64).map fun i => (2 * die + i / 32, i % 32)).filter fun c => chState b c.1 c.2 != 3

/-- The ordinary size of a channel, with the spare setting in force (R184). -/
def ordSize (spare : Nat) : Nat := 4096 * 2 ^ 20 - 256 * 2 ^ 20 * spare - 8 * 2 ^ 20

/-- The Tier B packages in service, ascending (R181). -/
def pkgList (b : Body) : List Nat := (List.range 24).filter fun p => !(fget b.mem.tb.out p)

/-- Where a module physical address lies. -/
inductive Place where
  | hbm (stack ch loc : Nat)
  | pkg (p loc : Nat)
  deriving DecidableEq, Repr

/-- The interleave of R180 and R181; none for an address that is not populated. -/
def placeOf (b : Body) (a : Nat) : Option Place :=
  if a < 2 ^ 40 then
    let cl := chList b (a / 2 ^ 38)
    let o := a % 2 ^ 38
    let g := o >>> 11
    match cl[g % cl.length]? with
    | none => none
    | some (st, ch) =>
      let loc := g / cl.length * 2048 + o % 2048
      if loc < ordSize (fget b.mem.stack st).spareIn then some (.hbm st ch loc) else none
  else
    let pl := pkgList b
    let o := a - 2 ^ 40
    let g := o >>> 11
    match pl[g % pl.length]? with
    | none => none
    | some p =>
      let loc := g / pl.length * 2048 + o % 2048
      if loc < 2 ^ 36 then some (.pkg p loc) else none

/-- The module address at a local address of a channel, by the interleave of R180. -/
def addrAt (b : Body) (s ch loc : Nat) : Option Nat :=
  let cl := chList b (s / 2)
  (cl.idxOf? (s, ch)).map fun j => 2 ^ 38 * (s / 2) + (loc / 2048 * cl.length + j) * 2048 + loc % 2048

/-- Capacity of a die window (R180): where its two stacks have different spare settings, below the smaller ordinary size every
address is populated (DESIGN CHOICE, log entry 76). -/
def winCap (b : Body) (die : Nat) : Nat :=
  (chList b die).length * min (ordSize (fget b.mem.stack (2 * die)).spareIn) (ordSize (fget b.mem.stack (2 * die + 1)).spareIn)

/-- Capacity of Tier B (R181). -/
def tierBCap (b : Body) : Nat := (pkgList b).length * 2 ^ 36

/-- The first module address of the Lining region (R188). -/
def liningBase (b : Body) : Nat := 2 ^ 40 + (tierBCap b - b.mem.tb.liningIn * 2 ^ 30)

/-- May a context map this module page: populated, and outside the Lining (R179, R188)? -/
def pagePopulated (b : Body) (page : Nat) : Bool :=
  let a := page * 2 ^ 21
  if a < 2 ^ 40 then decide (a % 2 ^ 38 + 2 ^ 21 ≤ winCap b (a / 2 ^ 38))
  else decide (a + 2 ^ 21 ≤ liningBase b)

/-! ### Unit history (R332 to R334) -/

/-- The key of a unit summary. -/
def unitKey (utype unit : Nat) : Nat := utype * 65536 + unit

/-- The last temperature of a die, in units of 1/16 °C, as 16 bits; none reads the H-die's, kept under key 4. -/
def tempWord (b : Body) (die : Option Nat) : BitVec 16 := BitVec.ofInt 16 (fget b.brd.dieTemp (die.getD 4))

/-- The last core rail voltage of a die in mV (rails 0 to 3, Table 14-4); none reads the H-die's rail 4. -/
def voltWord (b : Body) (die : Option Nat) : BitVec 16 := BitVec.ofNat 16 (fget b.brd.rail (die.getD 4))

/-- Is this entry kind a pass? -/
def histPass (kind : Nat) : Bool := kind == 0x06 || kind == 0x0D

/-- Are two signatures of one pattern family (R333)? -/
def sameFamily (a c : Nat) : Bool :=
  [4, 8, 12].all fun i =>
    let x := (a >>> i) % 16
    let y := (c >>> i) % 16
    decide (x ≤ y + 1) && decide (y ≤ x + 1)

/-- The temperature band of an entry: 5 °C wide (R333). -/
def tempBand (t : BitVec 16) : Nat := (t.toInt / 80).toNat

/-- Does some value of the list share its class with at least 80% of the list? -/
def mostly (same : Nat → Nat → Bool) (l : List Nat) : Option Nat :=
  l.find? fun x => decide (5 * (l.filter (same x)).length ≥ 4 * l.length)

/-- The fault entries of a unit in the last 1,000 operating hours, oldest first. -/
def unitFaults (b : Body) (utype unit : Nat) : List HistRec :=
  let k := b.kpr
  let n := min k.histCnt 32768
  let idx := (List.range n).map fun i => (k.histHead + 32768 + 1 + i - n) % 32768
  ((k.hist.filter fun x => idx.contains x.1).map (·.2)).filter fun r =>
    r.utype == utype && r.unit == unit && !histPass r.kind && decide (k.wv.hours ≤ r.hours + 1000)

/-- Is the unit retired, mapped out or left out of training (Table 12-21)? -/
def unitGone (b : Body) (utype unit : Nat) : Bool :=
  match utype with
  | 0 => (panelAt b unit).st == .retired
  | 2 => chState b (unit / 32) (unit % 32) == 3
  | 4 => fget b.mem.tb.out unit
  | 5 => (fget b.mem.d2d (unit / 1024)).spares.contains (unit / 512 % 2 * 272 + unit % 512)
  | 6 => (fget b.fab.port (unit / 16)).failLane == some (unit % 8)
  | _ => false

/-- The class of Table 12-21, with its suspicion. `outside`: a test has reproduced a fault outside the suspicion. -/
def classOf (b : Body) (utype unit : Nat) (outside : Bool) : Nat × Option Nat × Option Nat :=
  let fs := unitFaults b utype unit
  let old := fget b.kpr.sums (unitKey utype unit)
  if old.cls = 4 ∨ unitGone b utype unit ∨ outside then (4, old.band, old.family)
  else if fs.length ≥ 3 then
    match mostly (fun x y => x == y) (fs.map fun r => tempBand r.temp), mostly sameFamily (fs.map (·.patsig)) with
    | some t, f => (3, some t, f)
    | none, some f => (3, none, some f)
    | none, none => (2, none, none)
  else if fs.length = 2 then (2, none, none)
  else if fs.length = 1 then (1, none, none)
  else (0, none, none)

/-- Classify a unit; a change of class raises CLASS_CHANGE (R334, Table 12-16). Rows have no summary (Table 12-19). -/
def classify (e : Env) (b : Body) (utype unit : Nat) (outside : Bool) : Body :=
  if utype = 3 then b
  else
    let key := unitKey utype unit
    let old := fget b.kpr.sums key
    let (c, band, fam) := classOf b utype unit outside
    let s : UnitSum :=
      { old with cls := c, faults := (unitFaults b utype unit).length, band := band, family := fam }
    let b := { b with kpr := { b.kpr with sums := fset b.kpr.sums key s } }
    if c = old.cls then b else moduleEvent e b 0x09 c unit 0 0 0

/-- Does a FAIL of a test reproduce a fault of the unit at a band and signature outside any suspicion of it (Table 12-21)? -/
def outsideSuspicion (b : Body) (utype unit kind band sig : Nat) : Bool :=
  let s := fget b.kpr.sums (unitKey utype unit)
  (kind == 0x07 || kind == 0x0C) && !(unitFaults b utype unit).isEmpty &&
    (match s.band with | some x => x != band | none => true) &&
    (match s.family with | some x => !sameFamily x sig | none => true)

/-- The last temperature of a stack, in units of 1/16 °C, as 16 bits. -/
def stackTempWord (b : Body) (s : Nat) : BitVec 16 := BitVec.ofInt 16 (fget b.brd.stackTemp s)

/-- Write one history entry, with its temperature and the rail of its die, and classify its unit (R332, R334). -/
def histPut (e : Env) (b : Body) (utype unit kind detail : Nat) (temp : BitVec 16) (die : Option Nat) (opclass patsig : Nat)
    (where_ : Nat) : Body :=
  let k := b.kpr
  let i := if k.histCnt = 0 then 0 else (k.histHead + 1) % 32768
  let r : HistRec :=
    { utype := utype, unit := unit, kind := kind, detail := detail, temp := temp, volt := voltWord b die,
      opclass := opclass, patsig := patsig, where_ := BitVec.ofNat 32 where_, pwrOn := e.pwrOn, tick := e.clk.tick,
      hours := k.wv.hours }
  let out := outsideSuspicion b utype unit kind (tempBand r.temp) patsig
  let sums := if utype = 3 then k.sums else fmod k.sums (unitKey utype unit) fun s => { s with newest := i }
  let b := { b with kpr := { k with hist := fset k.hist i r, histHead := i, histCnt := k.histCnt + 1, sums := sums } }
  classify e b utype unit out

/-- The same at the temperature of a die. -/
def histAdd (e : Env) (b : Body) (utype unit kind detail : Nat) (die : Option Nat) (opclass patsig where_ : Nat) : Body :=
  histPut e b utype unit kind detail (tempWord b die) die opclass patsig where_

/-- Bits set in a number of at most `n` bits. -/
def popCount : Nat → Nat → Nat
  | 0, _ => 0
  | n + 1, x => x % 2 + popCount n (x / 2)

/-! ### Memory error logs (R203) -/

/-- The pages that hold a memory error log. -/
inductive MemPage where
  | hbm (stack : Nat)
  | tierB
  | stratum (die : Nat)
  deriving DecidableEq, Repr

/-- Put a record into a log of 16. -/
def MemLog.add (l : MemLog) (r : MemRec) : MemLog :=
  if l.recs.length < 16 then { l with recs := l.recs ++ [r] } else { l with ovf := satAdd 0xFFFF l.ovf 1 }

/-- Change a stack. -/
def modStack (b : Body) (s : Nat) (f : Stack → Stack) : Body :=
  { b with mem := { b.mem with stack := fmod b.mem.stack s f } }

/-- Change a stratum. -/
def modStr (b : Body) (d : Nat) (f : Stratum → Stratum) : Body := { b with mem := { b.mem with str := fmod b.mem.str d f } }

/-- Change Tier B. -/
def modTb (b : Body) (f : TierB → TierB) : Body := { b with mem := { b.mem with tb := f b.mem.tb } }

/-- The unit of a memory record in the history, its kind there and the operation class (R332, Tables 12-19, 12-20). Table 12-19 has
no unit for a cache: a scalar cache counts for its panel, an instruction or descriptor cache for its die's stratum (DESIGN
CHOICE, log entry 77). -/
def memHist (pg : MemPage) (r : MemRec) : Nat × Nat × Nat :=
  let unit := match pg with
    | .hbm s => (2, 32 * s + r.ch)
    | .tierB => (4, r.ch)
    | .stratum d =>
      if r.src = 3 then (1, 128 * (9 * d + r.ch) + r.row % 128) else if r.src = 4 ∧ r.ch < 9 then (0, 9 * d + r.ch) else (10, d)
  let kind := match r.kind with
    | 0x1 => 0x01
    | 0x3 | 0x4 | 0x6 | 0x8 => 0x09
    | 0x5 | 0x7 | 0xB => 0x0A
    | _ => 0x02
  (unit.1, unit.2, kind)

/-- The pattern signature of a memory line (R333): the toggle bucket alone, of the line and the one before it (DESIGN CHOICE, log entry
82); 0 for a line no address names. -/
def lineSig (b : Body) (x : ErrLine) : Nat :=
  match x.addr with
  | none => 0
  | some a =>
    let l := b.mem.read (a / 64 * 64) 64
    let k := b.mem.read (a / 64 * 64 - 64) 64
    min 15 (((l.zip k).map fun p => popCount 8 (p.1 ^^^ p.2).toNat).sum / 32) * 16

/-- Make a memory error record: the page's log, and the unit history, with the temperature of the stack or die (R203, R332). -/
def memNote (e : Env) (b : Body) (pg : MemPage) (r : MemRec) (sig : Nat := 0) : Body :=
  let b := match pg with
    | .hbm s => modStack b s fun x => { x with log := x.log.add r }
    | .tierB => modTb b fun x => { x with log := x.log.add r }
    | .stratum d => modStr b d fun x => { x with log := x.log.add r }
  let (ut, un, k) := memHist pg r
  let die := match pg with
    | .hbm s => some (s / 2)
    | .tierB => none
    | .stratum d => some d
  let temp := match pg with
    | .hbm s => stackTempWord b s
    | _ => tempWord b die
  histPut e b ut un k 0 temp die (if r.kind = 9 then 0x21 else if r.handle = 0 then 0x22 else 0x20) sig r.row

/-- A memory record of a context's access, or of no context. -/
def memRec (e : Env) (b : Body) (slot : Option Nat) (kind src ch row : Nat) : MemRec :=
  { kind := kind, src := src, ch := ch, pc := 0, bank := 0, sym := 0x7F, row := row,
    handle := match slot with | some s => handleOf e b s | none => 0,
    pwrOn := e.pwrOn, step := match slot with | some s => stepNum (ctxAt b s) | none => 0, tick := e.clk.tick }

/-- Report to the ledger against a context's step, when a context is concerned. -/
def reportTo (b : Body) : Option Nat → Body
  | some s => reportDirty b s
  | none => b

/-! ### Line writes (R193, R196, R197, R199) -/

/-- Granules held in the fallback of a die. -/
def fbGranules (b : Body) (d : Nat) : Nat := (fget b.mem.str d).fb.length

/-- Is the module page pinned in its die's stratum (R191)? -/
def isPinned (b : Body) (a : Nat) : Bool :=
  decide (a < 2 ^ 40) && ((fget b.mem.str (a / 2 ^ 38)).pinned.any fun p => p.2 == a / 2 ^ 21)

/-- Does the stratum serve a memory line (R189): from a pinned page's frame, from the fallback, or from its cache? -/
def framed (b : Body) (l : Nat) : Bool :=
  let x := fget b.mem.str (l / 2 ^ 32)
  decide (l < 2 ^ 34) && (isPinned b (64 * l) || fget x.fb (l / 32) || x.cache.contains l)

/-- Is a memory line poisoned, as a requester's read finds it: in the stratum's copy, or in the tier itself (R190, R199)? -/
def linePoison (b : Body) (l : Nat) : Bool := if framed b l then fget b.mem.spoison l else fget b.mem.poison l

/-- How a line of memory can be read now (R193, R210, R214): served, waiting for its channel or for the margin run on its package,
or delivered poisoned. -/
inductive Serve where
  | ok | waits | dead
  deriving DecidableEq, Repr

/-- The service of a line for reads. -/
def serveRead (b : Body) (a : Nat) : Serve :=
  match placeOf b a with
  | some (.hbm s ch _) =>
    let st := chState b s ch
    if st = 0 ∨ framed b (a / 64) then .ok
    else if st = 1 then .waits else .dead
  | some (.pkg p _) => if fget b.mem.tb.failed p then .dead else if b.mem.mrg.run = some (1, p) then .waits else .ok
  | none => .dead

/-- The poison mark of a line after a write of it (R199): a poison mark sets it, a full clean line clears it, a masked write keeps
it. -/
def markLine (m : FMap Bool) (l : Nat) (d : List (BitVec 8)) (poison : Bool) : FMap Bool :=
  if poison then fset m l true else if d.length = 64 then fset m l false else m

/-- Store bytes inside one memory line, in the tier's line (`own`), in the stratum's copy (`copy`), or in both; a poison mark
stores no data (R45, R191, R199). New check bits end an error of the line. -/
def MemSt.putLine (m : MemSt) (a : Nat) (d : List (BitVec 8)) (poison own copy : Bool) : MemSt :=
  let l := a / 64
  let m := if poison then m else m.write a d
  let whole := poison || d.length == 64
  let cured := match fget m.bad l with | some x => whole && (if x.strat then copy else own) | none => false
  { m with
    poison := if own then markLine m.poison l d poison else m.poison
    spoison := if copy then markLine m.spoison l d poison else m.spoison
    bad := if cured then fset m.bad l none else m.bad }

/-- The stratum takes copies of lines `lo` to `lo + n - 1` that it does not hold yet: each with the mark of the tier's own line. -/
def frameIn (b : Body) (lo n : Nat) : Body :=
  let new (l : Nat) : Bool := decide (lo ≤ l ∧ l < lo + n) && !framed b l
  let keep := b.mem.spoison.filter fun x => !new x.1
  { b with mem := { b.mem with
      spoison := (b.mem.poison.filter fun x => x.2 && new x.1).foldl (fun m x => fset m x.1 true) keep } }

/-- Lines that the frames left for the cache hold: 128 frames of 32,768 lines less those pinned or in fallback use (R189). -/
def Stratum.cacheCap (x : Stratum) : Nat := (128 - x.pinned.length - ceilDiv x.fb.length 1024) * 32768

/-- The cache gives up what its frames no longer hold, the oldest lines first (DESIGN CHOICE, log entry 12). -/
def Stratum.trim (x : Stratum) : Stratum := { x with cache := x.cache.drop (x.cache.length - x.cacheCap) }

/-- A read of a Tier A line from its channel allocates the line in the die's cache (R190), when the cache is enabled. -/
def cacheFill (b : Body) (a : Nat) : Body :=
  let d := a / 2 ^ 38
  let x := fget b.mem.str d
  if a < 2 ^ 40 ∧ !x.cacheOff ∧ 0 < x.cacheCap ∧ !framed b (a / 64) then
    modStr (frameIn b (a / 64) 1) d fun x => { x with cache := x.cache ++ [a / 64] }.trim
  else b

/-- Cut a range into pieces that each lie in one 64-byte line: (address, length). -/
def linePieces : Nat → Nat → Nat → List (Nat × Nat)
  | 0, _, _ => []
  | f + 1, a, n =>
    if n = 0 then []
    else
      let k := min n (64 - a % 64)
      (a, k) :: linePieces f (a + k) (n - k)

/-! ### Errors that reads find (R198 to R206) -/

/-- A line in error found by an access of stack `s` (or of Tier B), at its own place: a module address gives channel, pseudo-channel
(local bit 10) and local address (R180, R181). -/
def errPlace (b : Body) (s : Option Nat) (x : ErrLine) : ErrLine :=
  let at_ := x.addr.bind (placeOf b)
  match s, at_ with
  | some s, some (.hbm t ch loc) => if t = s then { x with ch := ch, loc := loc, pc := loc / 1024 % 2 } else { x with addr := none }
  | none, some (.pkg p loc) => { x with ch := p, loc := loc }
  | some _, _ => { x with addr := none, pc := x.loc / 1024 % 2 }
  | none, _ => { x with addr := none }

/-- A row by one number: its row, bank and pseudo-channel. -/
def ErrLine.rowId (x : ErrLine) : Nat := x.row % 2 ^ 24 + 2 ^ 24 * (x.bank % 32) + 2 ^ 29 * (x.pc % 2)

/-- The row of a line with an error, as flash names it. -/
def errRow (x : ErrLine) : RowRef := ⟨x.ch, x.row % 2 ^ 24 + 2 ^ 24 * (x.bank % 32) + 2 ^ 29 * (x.pc % 2)⟩

/-- A record about a line. -/
def lineRec (e : Env) (by_ : Option Nat) (b : Body) (kind src : Nat) (x : ErrLine) : MemRec :=
  { memRec e b by_ kind src x.ch x.row with pc := x.pc, bank := x.bank, sym := if kind = 1 then x.sym else 0x7F }

/-- Propose a channel for map-out (R206): once, with its record and its report. -/
def proposeChannel (e : Env) (by_ : Option Nat) (b : Body) (s : Nat) (x : ErrLine) : Body :=
  if fget (fget b.mem.stack s).propose x.ch then b
  else
    let b := memNote e b (.hbm s) (lineRec e by_ b 0x7 0 x)
    moduleEvent e (modStack b s fun y => { y with propose := fset y.propose x.ch true }) 0x0D 7 (32 * s + x.ch) 0 0 0

/-- The first local address of a channel's replacement pool: the top 8 MiB of its 4 GiB (R184). -/
def poolBase : Nat := 4088 * 2 ^ 20

/-- The 64 KiB pages of a channel retired so far, in the order of their replacements. -/
def Stack.retiredIn (x : Stack) (ch : Nat) : List Nat := (x.retired.filter (·.ch == ch)).map (·.row)

/-- Where the redirections of R205 take a channel-local page. -/
def physPage (rs : List Nat) : Nat → Nat → Nat
  | 0, p => p
  | f + 1, p => match rs.idxOf? p with
    | some k => physPage rs f (poolBase / 65536 + k)
    | none => p

/-- The channel-local address that the redirections of R205 take to a local address of the replacement pool. -/
def unPool (rs : List Nat) : Nat → Nat → Nat
  | 0, a => a
  | f + 1, a =>
    if a < poolBase then a
    else match rs[(a - poolBase) / 65536]? with
      | some p => unPool rs f (p * 65536 + a % 65536)
      | none => a

/-- Change every generation a context holds, and every kept record of one; 0 is generation A. -/
def mapGens (b : Body) (f : Nat → GenRec → GenRec) : Body :=
  { b with ctx := { b.ctx with
      slot := fmapVals b.ctx.slot fun _ c => { c with led := { c.led with gens := fmapVals c.led.gens f } }
      genRecs := b.ctx.genRecs.map fun r => (r.1, fmapVals r.2 f) } }

/-- A line of the spare region is poisoned: that of the chunk, or of the manifest's copy, which lies there (R186, R288). `half` is
the generation, `place` the number of the 4 MiB place within the channel's half, `off` the offset in it. -/
def GenRec.poisonAt (s ch place off : Nat) (g : GenRec) : GenRec :=
  let chs := fget g.chs s
  let hit (x : GenChunk) : Bool := x.stack == s && x.chan == ch && !x.missing && x.idx / chs.length == place
  { g with
    chunks := g.chunks.map fun x => if hit x ∧ !x.poison.contains (off / 64) then { x with poison := x.poison ++ [off / 64] } else x
    copies := g.copies.filter fun c => !(c.stack == s && c.chan == ch && c.place == place && decide (off < g.manifest.length)) }

/-- An uncorrectable line is stored poisoned in its tier (R200): a line with a module address, a line of a generation in the spare
region (generation A in its lower half), or the line that a replacement page holds (R205). -/
def poisonLocal (b : Body) (s ch loc : Nat) : Body :=
  let st := fget b.mem.stack s
  let a := unPool (st.retiredIn ch) 129 loc
  let ord := ordSize st.spareIn
  let half := 128 * 2 ^ 20 * st.spareIn
  if a < ord then
    match addrAt b s ch a with
    | some m => { b with mem := b.mem.putLine m [] true true false }
    | none => b
  else if a < ord + 2 * half then
    let h := (a - ord) / half
    let o := (a - ord) % half
    mapGens b fun k g => if k = h then g.poisonAt s ch (o / 2 ^ 22) (o % 2 ^ 22) else g
  else b

/-- An uncorrectable line is stored poisoned (R200). -/
def poisonLine (b : Body) (s : Option Nat) (x : ErrLine) : Body :=
  match x.addr, s with
  | some a, _ => { b with mem := b.mem.putLine a [] true true false }
  | none, some s => poisonLocal b s x.ch x.loc
  | none, none => b

/-- A stack line in uncorrectable error: stored poisoned, counted, recorded (R200). -/
def stackUe (e : Env) (by_ : Option Nat) (s : Nat) (b : Body) (x : ErrLine) : Body :=
  let sig := lineSig b x
  let b := modStack (poisonLine b (some s) x) s fun y => { y with ue := satAdd 0xFFFFFFFF y.ue 1 }
  memNote e b (.hbm s) (lineRec e by_ b 0x2 0 x) sig

/-- The newest ticks of a list with one more, no more than a limit counts. -/
def addTick (n now : Nat) (l : List Nat) : List Nat :=
  let l := l ++ [now]
  l.drop (l.length - n)

/-- Events of the last 10^9 ticks. -/
def recent (now : Nat) (l : List Nat) : Nat := (l.filter fun t => decide (now ≤ t + 10 ^ 9)).length

/-- A corrected symbol of a stack: counted, and recorded when it is the first in its row or triggers a repair (R203, R204). The flag
says whether it triggers one; `sweep` is Sander's sweep number. -/
def stackCe (e : Env) (by_ : Option Nat) (sweep : Option Nat) (s : Nat) (b : Body) (x : ErrLine) : Body × Bool :=
  let st := fget b.mem.stack s
  let k := (errRow x).row + 2 ^ 30 * x.ch
  let (n, last) := fget st.ceRows k
  let n := match sweep with
    | some w => if n = 0 ∨ last ≠ w then n + 1 else n
    | none => n
  let first := !st.ceSeen.contains (errRow x)
  let trig := decide (st.ceRow ≤ n) && sweep.isSome
  let b := modStack b s fun y =>
    { y with ce := satAdd 0xFFFFFFFF y.ce 1, ceSeen := if first then y.ceSeen ++ [errRow x] else y.ceSeen,
             ceRows := fset y.ceRows k (if trig then (0, 0) else (n, sweep.getD last)),
             ceTicks := fmod y.ceTicks x.ch (addTick 1025 e.tick) }
  (if first || trig then memNote e b (.hbm s) (lineRec e by_ b 0x1 0 x) (lineSig b x) else b, trig)

/-- Errors that lines of a stack hold are settled by a copy of the lines that a predicate names (R204, R205): corrected, or stored
poisoned; the copy's reads count and record as the controller's own. -/
def settleLines (e : Env) (b : Body) (s : Nat) (p : ErrLine → Bool) : Body :=
  b.mem.bad.foldl (fun b y => match y.2 with
    | none => b
    | some y' =>
      let x := errPlace b (some s) { y'.err with addr := some (64 * y.1) }
      if y'.strat ∨ x.addr = none ∨ !p x then b
      else
        let b := { b with mem := { b.mem with bad := fset b.mem.bad y.1 none } }
        if x.ue then stackUe e none s b x else (stackCe e none none s b x).1) b

/-- Retire the channel-local page of a row (R205): 128 for each channel; a full pool leaves the failing lines. The page is the one
the row lies in, the replacement page where the row is one of the pool. -/
def retirePage (e : Env) (by_ : Option Nat) (b : Body) (s : Nat) (x : ErrLine) : Body :=
  let st := fget b.mem.stack s
  let rs := st.retiredIn x.ch
  let pg (y : ErrLine) : Nat := physPage rs 129 (y.loc / 65536)
  if 128 ≤ rs.length then memNote e b (.hbm s) (lineRec e by_ b 0xA 0 x)
  else
    let b := settleLines e b s fun y => y.ch == x.ch && pg y == pg x
    let b := memNote e (modStack b s fun y => { y with retired := y.retired ++ [⟨x.ch, pg x⟩] }) (.hbm s) (lineRec e by_ b 0x5 0 x)
    if st.chThresh ≤ rs.length + 1 then proposeChannel e by_ b s x else b

/-- Repair a row (R204), or retire its page when it was repaired before or its bank has no spare row (R205, R206). A soft repair
copies the row's lines out and back, correcting or poisoning them. -/
def repairRow (e : Env) (by_ : Option Nat) (b : Body) (s : Nat) (x : ErrLine) : Body :=
  let st := fget b.mem.stack s
  if st.repaired.contains (errRow x) then retirePage e by_ b s x
  else if x.spareOut then
    let b := memNote e b (.hbm s) (lineRec e by_ b 0x6 0 x)
    proposeChannel e by_ (retirePage e by_ b s x) s x
  else
    let b := settleLines e b s fun y => errRow y == errRow x
    memNote e (modStack b s fun y => { y with soft := y.soft ++ [errRow x], repaired := y.repaired ++ [errRow x] }) (.hbm s)
      (lineRec e by_ b 0x3 0 x)

/-- A line of a stack that a read finds in error, for context `by_` or none. `sweep` is Sander's sweep number. -/
def stackError (e : Env) (by_ : Option Nat) (sweep : Option Nat) (s : Nat) (b : Body) (x : ErrLine) : Body :=
  let x := errPlace b (some s) x
  if x.ue then repairRow e by_ (stackUe e by_ s b x) s x
  else
    let (b, trig) := stackCe e by_ sweep s b x
    if trig then repairRow e by_ b s x else b

/-- A Tier B package fails; a margin run on it is aborted (R210). -/
def packageFail (b : Body) (p : Nat) : Body :=
  if fget b.mem.tb.out p then b
  else
    let b := modTb b fun x => { x with failed := fset x.failed p true }
    if b.mem.mrg.run = some (1, p) then
      { b with mem := { b.mem with mrg := { b.mem.mrg with busy := false, status := 2, run := none } } }
    else b

/-- A line of Tier B in error: what the link's ECC corrects is counted alone (Table 8-5); a package with more than 64 uncorrectable
errors within 10^9 ticks fails (R210). -/
def tierBError (e : Env) (by_ : Option Nat) (b : Body) (x : ErrLine) : Body :=
  let x := errPlace b none x
  if x.link then modTb b fun y => { y with linkCe := satAdd 0xFFFFFFFF y.linkCe 1 }
  else if x.ue then
    let sig := lineSig b x
    let b := modTb (poisonLine b none x) fun y =>
      { y with ue := satAdd 0xFFFFFFFF y.ue 1, ueTicks := fmod y.ueTicks x.ch (addTick 65 e.tick) }
    let b := memNote e b .tierB (lineRec e by_ b 2 1 x) sig
    if 64 < recent e.tick (fget b.mem.tb.ueTicks x.ch) then packageFail b x.ch else b
  else
    let first := !b.mem.tb.ceSeen.contains (errRow x)
    let b := modTb b fun y =>
      { y with ce := satAdd 0xFFFFFFFF y.ce 1, ceSeen := if first then y.ceSeen ++ [errRow x] else y.ceSeen }
    if first then memNote e b .tierB (lineRec e by_ b 1 1 x) (lineSig b x) else b

/-- A line of a stratum in error (R200, R203). -/
def stratumError (e : Env) (by_ : Option Nat) (d : Nat) (b : Body) (x : ErrLine) : Body :=
  let x := { x with ch := 0 }
  if x.ue then
    let sig := lineSig b x
    let b := match x.addr with
      | some a => { b with mem := b.mem.putLine a [] true false true }
      | none => b
    let b := modStr b d fun y => { y with ue := satAdd 0xFFFFFFFF y.ue 1 }
    memNote e b (.stratum d) (lineRec e by_ b 2 2 x) sig
  else
    let key := (2, 0, x.row)
    let first := !(fget b.mem.str d).ceSeen.contains key
    let b := modStr b d fun y =>
      { y with ce := satAdd 0xFFFFFFFF y.ce 1, ceSeen := if first then y.ceSeen ++ [key] else y.ceSeen }
    if first then memNote e b (.stratum d) (lineRec e by_ b 1 2 x) (lineSig b x) else b

/-- A read of a memory line finds the error it holds (R200): the line is poisoned or corrected, counted, recorded, and an
uncorrectable one reported to the ledger. `own` reads the tier itself, as the merge of a masked write and Undercoat do; any other
read is served by the stratum where that holds the line (R190, R191). -/
def findLine (e : Env) (by_ : Option Nat) (own : Bool) (b : Body) (line : Nat) : Body :=
  match fget b.mem.bad line with
  | none => b
  | some x =>
    let a := 64 * line
    let x := { x with err := { x.err with addr := some a } }
    let fixed (b : Body) : Body := { b with mem := { b.mem with bad := fset b.mem.bad line none } }
    let told (b : Body) : Body := if x.err.ue then reportTo b by_ else b
    match placeOf b a with
    | none => b
    | some (.hbm s _ _) =>
      let inStr := framed b line && !own
      if x.strat then (if inStr then told (stratumError e by_ (a / 2 ^ 38) b x.err) else b)
      else if inStr then b
      else told (stackError e by_ none s (fixed b) x.err)
    | some (.pkg ..) => told (tierBError e by_ (fixed b) x.err)

/-- A read of consecutive segments by a requester: the errors it finds, and the lines the strata's caches take (R190, R200). -/
def findSegs (e : Env) (by_ : Option Nat) (b : Body) (gs : List Seg) : Body :=
  gs.foldl (fun b g => if g.host then b else (linePieces (g.len / 64 + 2) g.addr g.len).foldl (fun b p =>
    if serveRead b p.1 = .ok then cacheFill (findLine e by_ false b (p.1 / 64)) p.1 else b) b) b

/-- A discarded write to a FAILED channel: count, record, ledger report (R193). -/
def fbDropped (e : Env) (b : Body) (d ch : Nat) (slot : Option Nat) : Body :=
  let b := modStr b d fun x => { x with fbDrop := satAdd 0xFFFFFFFF x.fbDrop 1 }
  reportTo (memNote e b (.stratum d) (memRec e b slot 0x9 2 ch 0)) slot

/-- Write bytes inside one memory line; none while the write must wait (R193, R214). A copy the stratum holds is written with it
(R190, R191); a channel out of service takes the write in the fallback only. -/
def putLine (e : Env) (b : Body) (slot : Option Nat) (a : Nat) (d : List (BitVec 8)) (poison : Bool) : Option Body :=
  let store (own : Bool) (b : Body) : Body := { b with mem := b.mem.putLine a d poison own (framed b (a / 64)) }
  let merge (b : Body) : Body := store true (if poison ∨ d.length = 64 then b else findLine e slot true b (a / 64))
  match placeOf b a with
  | none => some b
  | some (.pkg p _) =>
    if fget b.mem.tb.failed p then
      let b := modTb b fun x => { x with drops := satAdd 0xFFFFFFFF x.drops 1 }
      some (reportTo (memNote e b .tierB (memRec e b slot 0x9 1 p 0)) slot)
    else if b.mem.mrg.run = some (1, p) then none
    else some (merge b)
  | some (.hbm s ch _) =>
    let st := chState b s ch
    if st = 0 then some (merge b)
    else
      let die := a / 2 ^ 38
      let x := fget b.mem.str die
      if fget x.fb (a / 2048) then some (store false b)
      else if x.fb.length < x.fbresIn * 1024 then
        some (store false (modStr (frameIn b (a / 2048 * 32) 32) die fun x => { x with fb := fset x.fb (a / 2048) true }.trim))
      else if st = 1 then none
      else some (fbDropped e (if framed b (a / 64) then store false b else b) die 0 slot)

/-- A poisoned line stored to host memory, which holds no mark: its bytes are free values (R45 gives the mark's form in module
memory only). -/
def hostOpen (b : Body) (a n : Nat) : Body :=
  { hostWrite b a ((List.range n).map fun i => Config.freeByte (b.free + i)) with free := b.free + n }

/-- Write bytes at a module or host range; to the host only while the function masters writes (R255), until then it waits. -/
def putSeg (e : Env) (b : Body) (slot : Option Nat) (g : Seg) (d : List (BitVec 8)) (poison : Bool) : Option Body :=
  if g.host then
    if b.host.master then some (if poison then hostOpen b g.addr g.len else hostWrite b g.addr (d.take g.len)) else none
  else
    (linePieces (g.len / 64 + 2) g.addr g.len).foldl (fun ob p =>
      ob.bind fun b => putLine e b slot p.1 ((d.drop (p.1 - g.addr)).take p.2) poison) (some b)

/-- Write bytes over consecutive segments. -/
def putSegs (e : Env) (slot : Option Nat) (poison : Bool) : Body → List Seg → List (BitVec 8) → Option Body
  | b, [], _ => some b
  | b, g :: gs, d => (putSeg e b slot g (d.take g.len) poison).bind fun b => putSegs e slot poison b gs (d.drop g.len)

/-- Bytes of a segment, and whether a line of it is poisoned. Host memory carries no poison. -/
def readSeg (b : Body) (g : Seg) : List (BitVec 8) × Bool :=
  if g.host then (hostRead b g.addr g.len, false)
  else (b.mem.read g.addr g.len, (linePieces (g.len / 64 + 2) g.addr g.len).any fun p =>
    linePoison b (p.1 / 64) || serveRead b p.1 == .dead)

/-- Bytes of consecutive segments, and poison. -/
def readSegs (b : Body) (gs : List Seg) : List (BitVec 8) × Bool :=
  gs.foldl (fun r g => let (d, p) := readSeg b g; (r.1 ++ d, r.2 || p)) ([], false)

/-- Must a read of these segments wait: for a channel in RETRAIN (R193), or for Bus Master Enable (R255)? -/
def segsWait (b : Body) (gs : List Seg) : Bool :=
  gs.any fun g => if g.host then !b.host.master else (linePieces (g.len / 64 + 2) g.addr g.len).any fun p => serveRead b p.1 == .waits

/-! ### Translation (R263, R264, R281) -/

/-- The context pages of one replay buffer: lengths in units of 64 KiB (Table 10-11); tag 0xFF is the command log. -/
def RbEnt.pages (r : RbEnt) : List Nat :=
  if r.tag = 0xFF ∨ r.units = 0 then []
  else span (r.addr / 2 ^ 21) ((r.addr + r.units * 65536 - 1) / 2 ^ 21 + 1 - r.addr / 2 ^ 21)

/-- The module pages that replay buffers of unsealed steps protect (R281). -/
def protectedPages (b : Body) : List Nat :=
  b.ctx.slot.flatMap fun c => c.2.led.step.flatMap fun s => s.2.rb.flatMap fun r => r.pages.filterMap fun v =>
    let x := fget c.2.xl v
    if x.valid && !x.host then some x.page else none

/-- May a requester write this entry's page? -/
def pageWritable (b : Body) (x : XEnt) : Bool := x.write && (x.host || !(protectedPages b).contains x.page)

/-- The result of a translation: segments, or the cause of R264. -/
inductive Xlate where
  | ok (segs : List Seg)
  | fault (cause : Nat)
  deriving DecidableEq, Repr

/-- Translate a byte range of a context (R263, R264): ADDR_UNMAPPED 0x09, ADDR_PERM 0x0A. An address of 2 ^ 48 or
more is no context address and is not mapped. -/
def xlateGo (b : Body) (c : Ctx) (wr : Bool) : Nat → Nat → Nat → Xlate
  | 0, _, _ => .ok []
  | f + 1, va, n =>
    if n = 0 then .ok []
    else
      let v := va
      let x := fget c.xl (v / 2 ^ 21)
      let k := min n (2 ^ 21 - v % 2 ^ 21)
      if !x.valid ∨ 2 ^ 48 ≤ va then .fault 0x09
      else if wr && !pageWritable b x then
        match xlateGo b c wr f (va + k) (n - k) with
        | .fault c => .fault (min c 0x0A)
        | .ok _ => .fault 0x0A
      else
        match xlateGo b c wr f (va + k) (n - k) with
        | .fault c => .fault c
        | .ok s => .ok (⟨x.host, x.page * 2 ^ 21 + v % 2 ^ 21, k⟩ :: s)

/-- Translate a byte range of a context. -/
def xlate (b : Body) (slot va n : Nat) (wr : Bool) : Xlate := xlateGo b (ctxAt b slot) wr (n / 2 ^ 21 + 2) va n

/-- Translate a list of ranges; the lowest cause wins. -/
def xlateAll (b : Body) (slot : Nat) (wr : Bool) : List (Nat × Nat) → Xlate
  | [] => .ok []
  | (a, n) :: t =>
    match xlate b slot a n wr, xlateAll b slot wr t with
    | .ok s, .ok s' => .ok (s ++ s')
    | .fault c, .fault c' => .fault (min c c')
    | .fault c, .ok _ => .fault c
    | .ok _, .fault c => .fault c

/-- The errors that a context's read of a range of its memory finds. -/
def findRange (e : Env) (slot : Nat) (b : Body) (va n : Nat) : Body :=
  match xlate b slot va n false with
  | .ok s => findSegs e (some slot) b s
  | .fault _ => b

end Sys2Proof.Machine
end

