-- ==== Sys2Proof/Machine/Lines.lean ====
section
/-! DEFINITION. The scratchpad within one cycle: scheduled reads with their checks (R39, R42), line writes with byte masks
and bank collisions (R38, R39), pending bits and claims (R41, R43), and the scrub of banks (R50). -/

namespace Sys2Proof.Machine

/-- A scheduled read of one line in this cycle: station order of R39 and R153, the reader, the line, the expected stamp;
`raw` for a partial-sum read, whose pending bits and stamps were checked at issue (R102). -/
structure RReq where
  prio : Nat
  line : Nat
  exp : Option Nat
  ins : Ins
  raw : Bool := false
  deriving DecidableEq, Repr

/-- What a read delivers. -/
structure RGot where
  prio : Nat
  uid : Nat
  line : Nat
  data : Nat
  poison : Bool
  deriving DecidableEq, Repr

/-- The hazard of one read: the first that applies of R42, given whether it lost its bank. -/
def readHazard (mode : Nat) (lost raw : Bool) (x : LineSt) (exp : Option Nat) : Option Nat :=
  if lost then some 5
  else if raw then none
  else if !x.pend.isEmpty then some 1
  else match exp with
    | some s => if mode ≠ 0 ∧ x.stamp.toNat ≠ s then some 2 else none
    | none => none

/-- An uncorrectable line of a die's scratchpads (source 3) or caches (source 4), found by a read: counter, record, ledger report
(R39, R200, R203). -/
def chipUe (e : Env) (b : Body) (d src ch row slot : Nat) : Body :=
  let b := modStr b d fun s => { s with spadUe := satAdd 0xFFFFFFFF s.spadUe 1 }
  reportDirty (memNote e b (.stratum d) (memRec e b (some slot) 0x2 src ch row)) slot

/-- Words of a die's scratchpads or caches that a read corrects, each with its wrong bit (R39, R198): every word is counted, and the
first in its line since power-on reset recorded (R203). -/
def chipCe (e : Env) (b : Body) (d src ch row slot : Nat) (ws : List (Nat × Nat)) : Body :=
  match ws with
  | [] => b
  | w :: _ =>
    let key := (src, ch, row)
    let first := !(fget b.mem.str d).ceSeen.contains key
    let b := modStr b d fun s =>
      { s with spadCe := satAdd 0xFFFFFFFF s.spadCe ws.length, ceSeen := if first then s.ceSeen ++ [key] else s.ceSeen }
    if first then memNote e b (.stratum d) { memRec e b (some slot) 0x1 src ch row with sym := w.2 } else b

/-- What a read of the words `lo` to `hi - 1` of a cache line finds (R198): the errors, counted and recorded; and whether it
delivers the data poisoned. -/
def cacheRead (e : Env) (b : Body) (d ch row slot : Nat) (x : WordErr) (lo hi : Nat) : Body × Bool :=
  let bad := (List.range 16).any fun i => x.ue.getLsbD i && decide (lo ≤ i ∧ i < hi)
  let b := chipCe e b d 4 ch row slot (x.ce.filter fun w => decide (lo ≤ w.1 ∧ w.1 < hi))
  (if bad then chipUe e b d 4 ch row slot else b, bad)

/-- An uncorrectable word found by a read of a scratchpad line. -/
def spadUe (e : Env) (b : Body) (k : Nat) (slot : Nat) (line : Nat) : Body := chipUe e b (k / 9) 3 (k % 9) line slot

/-- Words that a read of a scratchpad line corrects. -/
def spadCe (e : Env) (b : Body) (k : Nat) (slot : Nat) (line : Nat) (ws : List (Nat × Nat)) : Body :=
  chipCe e b (k / 9) 3 (k % 9) line slot ws

/-- One read. `taken` holds the banks already read in this cycle. -/
def doRead (e : Env) (k : Nat) (acc : Body × List RGot × List Nat) (r : RReq) : Body × List RGot × List Nat :=
  let (b, gots, taken) := acc
  let x := fget (panelAt b k).line r.line
  let lost := taken.contains (r.line % 128)
  let hz := readHazard (ctxAt b r.ins.slot).set.stampMode lost r.raw x r.exp
  let b := match hz with
    | some kind => noteHaz e b r.ins kind [⟨r.line, r.exp, x.stamp.toNat, !x.pend.isEmpty, x.poison⟩]
    | none => b
  let b := if x.ue ≠ 0 then spadUe e b k r.ins.slot r.line else b
  let b := spadCe e b k r.ins.slot r.line x.ce
  (b, gots ++ [⟨r.prio, r.ins.uid, r.line, x.data.toNat, hz.isSome || x.poison || x.ue != 0⟩],
    if lost then taken else taken ++ [r.line % 128])

/-- The requests of a cycle in the order of R39 and R153. -/
def sortReads (l : List RReq) : List RReq := (List.range 14).flatMap fun p => l.filter fun r => r.prio == p

/-- All reads of one panel in one cycle. -/
def doReads (e : Env) (b : Body) (k : Nat) (l : List RReq) : Body × List RGot :=
  let (b, g, _) := (sortReads l).foldl (doRead e k) (b, [], [])
  (b, g)

/-- The delivered line of a request, when it was made in this cycle. -/
def gotOf (g : List RGot) (prio uid line : Nat) : Option RGot :=
  g.find? fun r => r.prio == prio && r.uid == uid && r.line == line

/-- Several delivered lines, taken as one little-endian number, and whether any is poisoned. -/
def gotLines (g : List RGot) (prio uid : Nat) (lines : List Nat) : Nat × Bool :=
  lines.foldr (fun l acc => match gotOf g prio uid l with
    | some r => (r.data + acc.1 * 2 ^ 512, r.poison || acc.2)
    | none => (acc.1 * 2 ^ 512, true)) (0, false)

/-! ### Writes -/

/-- Merge masked bytes into a line. -/
def mergeLine (old new : BitVec 512) (mask : BitVec 64) : BitVec 512 :=
  let m := (List.range 64).foldl (fun (acc : BitVec 512) i =>
    if mask.getLsbD i then acc ||| (0xFF#512 <<< (8 * i)) else acc) 0#512
  (old &&& ~~~m) ||| (new &&& m)

/-- The words that still hold an error after a masked write, and whether the merge met one (R38). -/
def mergeUe (ue : BitVec 16) (mask : BitVec 64) : BitVec 16 × Bool :=
  let nib (i : Nat) : Nat := (mask.toNat >>> (4 * i)) % 16
  ((List.range 16).foldl (fun (acc : BitVec 16) i =>
    if nib i ≠ 0 then acc &&& ~~~(1#16 <<< i) else acc) ue,
   (List.range 16).any fun i => ue.getLsbD i && nib i != 0 && nib i != 15)

/-- The errors that a masked write of whole words leaves in a line. -/
def WordErr.written (x : WordErr) (mask : BitVec 64) : WordErr :=
  { ue := (mergeUe x.ue mask).1, ce := x.ce.filter fun w => (mask.toNat >>> (4 * w.1)) % 16 == 0 }

/-- The words with one wrong bit that a masked write leaves, and those that its merge corrects (R38). -/
def mergeCe (ce : List (Nat × Nat)) (mask : BitVec 64) : List (Nat × Nat) × List (Nat × Nat) :=
  let nib (i : Nat) : Nat := (mask.toNat >>> (4 * i)) % 16
  (ce.filter fun w => nib w.1 == 0, ce.filter fun w => nib w.1 != 0 && nib w.1 != 15)

/-- A line after one write by instruction `uid` (R38, R41, R43). A write that is not the instruction's last of the line
leaves pending bit and stamp; its poison is kept for the last. -/
def LineSt.wrote (x : LineSt) (uid : Nat) (data : BitVec 512) (mask : BitVec 64) (poison last : Bool) : LineSt :=
  let (ue, hit) := mergeUe x.ue mask
  let x := { x with data := mergeLine x.data data mask, ue := ue, ce := (mergeCe x.ce mask).1 }
  let bad := poison || hit
  if last then
    { x with
      pend := if x.pend.contains uid then [] else x.pend
      stamp := x.stamp + 1
      poison := bad || x.claim.contains uid
      claim := x.claim.filter (· != uid) }
  else if bad then { x with claim := if x.claim.contains uid then x.claim else x.claim ++ [uid] } else x

/-- A losing write: no data, as if written with poison (R39). -/
def LineSt.lostWrite (x : LineSt) (uid : Nat) (last : Bool) : LineSt :=
  x.wrote uid x.data 0#64 true last

/-- One scheduled write; a later one to a taken bank loses. -/
def doWrite (e : Env) (k : Nat) (acc : Body × List Nat) (w : WReq) : Body × List Nat :=
  let (b, taken) := acc
  let p := panelAt b k
  let x := fget p.line w.line
  if taken.contains (w.line % 128) then
    let b := noteHaz e b w.ins 4 [⟨w.line, none, x.stamp.toNat, !x.pend.isEmpty, x.poison⟩]
    (modPanel b k fun p => { p with line := fset p.line w.line (x.lostWrite w.ins.uid w.last) }, taken)
  else
    let b := setPanel b k { p with line := fset p.line w.line (x.wrote w.ins.uid w.data w.mask w.poison w.last) }
    let b := spadCe e b k w.ins.slot w.line (mergeCe x.ce w.mask).2
    (if (mergeUe x.ue w.mask).2 then spadUe e b k w.ins.slot w.line else b, taken ++ [w.line % 128])

/-- The scheduled writes of one panel due in cycle `c`, in the order of R39 and R153. -/
def doWrites (e : Env) (b : Body) (k c : Nat) : Body :=
  let p := panelAt b k
  let due := p.wq.filter fun w => w.cyc == c
  let b := setPanel b k { p with wq := p.wq.filter fun w => w.cyc != c }
  (((List.range 6).flatMap fun q => due.filter fun w => w.prio == q).foldl (doWrite e k) (b, [])).1

/-- One arrival write: it takes no scheduled port (R37). -/
def arriveLine (e : Env) (b : Body) (k : Nat) (i : Ins) (line : Nat) (data : BitVec 512) (mask : BitVec 64)
    (poison last : Bool) : Body :=
  let p := panelAt b k
  let x := fget p.line line
  let b := setPanel b k { p with line := fset p.line line (x.wrote i.uid data mask poison last) }
  let b := spadCe e b k i.slot line (mergeCe x.ce mask).2
  if (mergeUe x.ue mask).2 then spadUe e b k i.slot line else b

/-- A line after a claim by instruction `u` (R43), given its state during the cycle: the writes of both instructions leave it
poisoned; where the other's last write has completed in this very cycle, its bit is clear and the line is poisoned now. -/
def LineSt.claimed (x : LineSt) (u : Nat) : LineSt :=
  { x with
    pend := if x.pend.isEmpty then [] else x.pend ++ [u]
    claim := (x.claim ++ x.pend ++ [u]).eraseDups
    poison := x.poison || x.pend.isEmpty }

/-- Set one pending bit at the end of a cycle. A line that another instruction's bit marks, as it stood during the cycle
(`old`), is a PEND_CLAIM (R43). -/
def setPend (e : Env) (k : Nat) (old : FMap LineSt) (b : Body) (r : PendReq) : Body :=
  let p := panelAt b k
  let x := fget p.line r.line
  let o := fget old r.line
  let u := r.ins.uid
  if x.pend.contains u then b
  else if x.pend.isEmpty && (o.pend.filter (· != u)).isEmpty then setPanel b k { p with line := fset p.line r.line { x with pend := [u] } }
  else
    let b := noteHaz e b r.ins 3 [⟨r.line, none, o.stamp.toNat, true, o.poison⟩]
    modPanel b k fun p => { p with line := fset p.line r.line (x.claimed u) }

/-- The pending bits of this cycle's issues, set at its end (R41); `old` holds the lines before the cycle's writes. Of two slots
of one bundle that write one line, the later in slot order claims against the earlier (DESIGN CHOICE, log entry 71). -/
def setPends (e : Env) (old : FMap LineSt) (b : Body) (k : Nat) : Body :=
  let q := (panelAt b k).pendq
  q.foldl (setPend e k old) (modPanel b k fun p => { p with pendq := [] })

/-- Scrub the banks of a set: every line of them becomes zero, clean, stamp 0 (R50). -/
def Panel.scrubBanks (p : Panel) (banks : List Nat) : Panel :=
  { p with line := p.line.filter fun x => !banks.contains (x.1 % 128) }

end Sys2Proof.Machine
end

