-- ==== Sys2Proof/Machine/Operands.lean ====
section
/-! DEFINITION. Operands of slots: the fields of the slot formats (R66 to R72, R75), the bundle header (R61), the place a
bundle issues from, ownership and feature checks (R33, R88), and what a slot that can be carried out asks for. -/

namespace Sys2Proof.Machine

/-! ### The bundle header (Table 3-1) -/

/-- Widths of the six slots in bits, in slot order (R60). -/
def slotBits : Nat → Nat
  | 0 => 32
  | 5 => 32
  | _ => 64

/-- A bundle: its header's low ten bits (IDLE, STOP, PMARK, reserved) and its present slots as (slot code, word). -/
structure Bundle where
  ctl : Nat
  slots : List (Nat × Nat)
  deriving DecidableEq, Repr

/-- Is slot `s` present in this header? -/
def hdrHas (h s : Nat) : Bool := bit h (15 - s)

/-- The header word of a bundle. -/
def Bundle.header (x : Bundle) : Nat :=
  x.ctl % 1024 + ((List.range 6).map fun s => if x.slots.any (·.1 == s) then 2 ^ (15 - s) else 0).sum

/-- Length in bytes of the bundle a header begins. -/
def hdrLen (h : Nat) : Nat := 2 + ((List.range 6).map fun s => if hdrHas h s then slotBits s / 8 else 0).sum

/-- The present slots of a bundle, from the bytes after its header (R60). -/
def readSlots (h : Nat) : List Nat → List (BitVec 8) → List (Nat × Nat)
  | [], _ => []
  | s :: ss, d =>
    if hdrHas h s then (s, bytesVal (d.take (slotBits s / 8))) :: readSlots h ss (d.drop (slotBits s / 8))
    else readSlots h ss d

/-- A bundle from its bytes. -/
def Bundle.parse (d : List (BitVec 8)) : Bundle :=
  let h := bytesVal (d.take 2)
  ⟨h % 1024, readSlots h [0, 1, 2, 3, 4, 5] (d.drop 2)⟩

/-- The bytes of a bundle (R60). -/
def Bundle.encode (x : Bundle) : List (BitVec 8) :=
  (leBytes 2 x.header ++ x.slots.flatMap fun s => leBytes (slotBits s.1 / 8) s.2).map (BitVec.ofNat 8)

/-! ### Where a bundle issues -/

/-- The place and the registers a bundle issues with: the state before the cycle's effects (R63). -/
structure IC where
  e : Env
  b : Body
  k : Nat
  die : Nat
  lp : Nat
  th : Nat
  t : Thread
  pc : Nat
  next : Nat

/-- The context slot of the issuing thread. -/
def IC.slot (ic : IC) : Nat := ic.t.slot
/-- The context of the issuing thread. -/
def IC.c (ic : IC) : Ctx := ctxAt ic.b ic.t.slot
/-- The panel. -/
def IC.p (ic : IC) : Panel := panelAt ic.b ic.k
/-- The issue cycle. -/
def IC.cyc (ic : IC) : Nat := ic.e.clk.cyc

/-- The identity of one slot's instruction. -/
def IC.ins (ic : IC) (uid slotc opc : Nat) : Ins :=
  { uid := uid, slot := ic.slot, handle := ic.t.handle, die := ic.die, lp := ic.lp, th := ic.th, baddr := ic.pc,
    slotc := slotc, opc := opc, step := stepNum ic.c, loops := ic.t.counters, issue := ic.cyc }

/-- The key of a rounding site of an instruction (R127, Table 5-6). -/
def insKey64 (c : Ctx) (cls : Nat) (i : Ins) : BitVec 64 :=
  let (w1, w2) := loopWords i.loops
  tileKey c.num.seed (BitVec.ofNat 64 i.step) (streamId cls i.die i.lp i.th) (BitVec.ofNat 64 i.baddr) w1 w2

/-! ### What a slot asks for -/

/-- Control flow of an SCL slot (R81 to R84). -/
inductive Flow where
  | seq
  | jump (target : Nat)
  | enter (cnt first last : Nat)
  | past (last : Nat)
  | leave
  | plain
  deriving DecidableEq, Repr

/-- What a slot that is carried out asks for: memory tags (R74), the token it counts (R73), the predicate it writes, its
control flow, the wait it begins (R76), and its effect in the issue cycle. -/
structure Act where
  tags : Nat := 0
  tok : Option Nat := none
  flow : Flow := .seq
  wait : Option WaitOn := none
  run : Ins → Body → Body := fun _ b => b

/-- A slot with an effect and nothing else. -/
def effect (f : Ins → Body → Body) : Act := { run := f }

/-- A slot's plan: skipped with a reason (and the token it names, and a register whose poison mark the skip sets, R87), or
carried out. -/
inductive Plan where
  | skip (reason : Nat) (tok : Option Nat) (mark : Option Nat)
  | go (a : Act)

/-- The lowest reason whose case holds (R89). -/
def lowest (l : List (Bool × Nat)) : Option Nat :=
  (l.filter (·.1)).foldl (fun acc x => match acc with
    | none => some x.2
    | some r => some (min r x.2)) none

/-- Skip with the lowest reason that holds, or carry out. -/
def planOf (l : List (Bool × Nat)) (tok : Option Nat) (a : Act) : Plan :=
  match lowest l with
  | some r => .skip r tok none
  | none => .go a

/-- Reasons found without a poisoned value come first; then a poisoned control value faults with POISON_CONTROL (R44);
then the reasons that depend on the value. -/
def planVal (static : List (Bool × Nat)) (poison : Bool) (value : List (Bool × Nat)) (tok : Option Nat) (a : Act) : Plan :=
  match lowest static with
  | some r =>
    if poison then .skip r tok none
    else match lowest (static ++ value) with
      | some r => .skip r tok none
      | none => .go a
  | none =>
    if poison then .go { a with tok := none, tags := 0, flow := .seq, wait := none, run := fun i b => raise b (insFault b i 0x07 0) }
    else planOf value tok a

/-- Is feature bit `n` of `PG_FEATURES` absent? -/
def featOff (n : Nat) : Bool := !(bit Config.pgFeatures n)

/-- Is slot `s` absent from `PG_FEATURES.SLOTS`: SYN in bit 0 to SCL in bit 5? -/
def slotOff (s : Nat) : Bool := featOff (5 - s)

/-- The banks of a run of lines. -/
def banksOf (l n : Nat) : List Nat := (List.range (min n 128)).map fun i => (l + i) % 128

/-- Does some bank belong to no one or to another context (R33)? -/
def foreign (ic : IC) (banks : List Nat) : Bool := banks.any fun k => fget ic.p.seq.bank k != some ic.slot

/-- Does some bank lie in a sealed group (R36)? -/
def inSealed (ic : IC) (banks : List Nat) : Bool := banks.any fun k => fget ic.p.seq.sealed (k / 16)

/-- The checks of R88 for a run of scratchpad lines: beyond the scratchpad, not owned, sealed. -/
def lineChecks (ic : IC) (l n : Nat) : List (Bool × Nat) :=
  [(decide (131072 < l + n), 0x10), (foreign ic (banksOf l n), 0x05), (inSealed ic (banksOf l n), 0x06)]

/-- An operand reference (R66). -/
structure ORef where
  line : Nat
  exp : Option Nat
  deriving DecidableEq, Repr

/-- A source reference. -/
def oref (ic : IC) (f : Nat) : ORef := ⟨ic.t.areg (fld f 7 4), if bit f 3 then some (fld f 2 0) else none⟩

/-- Is a destination reference malformed (R66)? -/
def dstBad (f : Nat) : Bool := fld f 3 0 != 0

/-- Set pending bits at the end of the issue cycle (R41). -/
def Panel.pend (p : Panel) (i : Ins) (lines : List Nat) : Panel := { p with pendq := p.pendq ++ lines.map fun l => ⟨l, i⟩ }

/-- Queue a result of the issuing thread (R63). -/
def pushRes (i : Ins) (d : Dest) (v : BitVec 64) (poison : Bool) (lat : Nat) (b : Body) : Body :=
  modPanel b (insKey b i) fun p => p.modThread i.th fun t => t.addRes ⟨i.issue, i.issue + lat, d, v, poison⟩

/-- 256-byte tags for a number of bytes (R74). -/
def tagsFor (n : Nat) : Nat := ceilDiv n 256

/-! ### Instruction supply (R86) -/

/-- The residency entry byte at a context address: value, and whether its line came poisoned or its word is in uncorrectable error
(R198). -/
def fetchByte (t : Thread) (a : Nat) : Option (BitVec 8 × Bool) :=
  (List.range 4).findSome? fun i =>
    let x := fget t.ient i
    if x.valid ∧ x.base ≤ a ∧ a < x.base + x.len then some (x.bytes.getD (a - x.base) 0, x.poison.contains (a / 64) || (fget x.err (a / 64)).ue.getLsbD (a % 64 / 4))
    else none

/-- The errors that a fetch of `n` bytes at `a` finds in the instruction cache's words (R198): channel 31, the line number. -/
def findInstr (e : Env) (b : Body) (d : Nat) (t : Thread) (a n : Nat) : Body :=
  (linePieces (n / 64 + 2) a n).foldl (fun b q => match (List.range 4).find? fun i =>
      let x := fget t.ient i
      x.valid && decide (x.base ≤ q.1 ∧ q.1 < x.base + x.len) with
    | some i => (cacheRead e b d 31 (q.1 / 64) t.slot (fget (fget t.ient i).err (q.1 / 64)) (q.1 % 64 / 4) ((q.1 % 64 + q.2 + 3) / 4)).1
    | none => b) b

/-- A run of bytes: none when some address is not covered. -/
def fetchBytes (t : Thread) (a n : Nat) : Option (List (BitVec 8) × Bool) :=
  (List.range n).foldr (fun i acc => match acc, fetchByte t (a + i) with
    | some (l, p), some (v, q) => some (v :: l, p || q)
    | _, _ => none) (some ([], false))

/-- The address after the bundle at `a`, read from its resident header. -/
def afterBundle (t : Thread) (a : Nat) : Option Nat :=
  (fetchBytes t a 2).map fun x => a + hdrLen (bytesVal x.1)

/-- R83: what follows the bundle at `pc` whose successor is `next`, after the loop entries that end at `pc`. -/
def loopEnds (pc next : Nat) : List LoopEnt → Nat × List LoopEnt
  | [] => (next, [])
  | x :: xs =>
    if x.last = pc then
      if x.cnt - 1 ≠ 0 then (x.first, { x with cnt := x.cnt - 1 } :: xs) else loopEnds pc next xs
    else (next, x :: xs)

end Sys2Proof.Machine
end

