-- ==== Sys2Proof/Machine/Scalar.lean ====
section
/-! DEFINITION. The SCL slot (R67, R68, R81 to R87): one plan per opcode. -/

namespace Sys2Proof.Machine

/-! ### Formats -/

/-- R format: rd, rs1, rs2; bits 10:0 reserved. -/
def aluR (ic : IC) (w lat : Nat) (f : BitVec 64 → BitVec 64 → BitVec 64) : Plan :=
  let x := ic.t.sreg (fld w 20 16)
  let y := ic.t.sreg (fld w 15 11)
  planOf [(fld w 10 0 != 0, 0x02)] none
    { run := fun i b => pushRes i (.s (fld w 25 21)) (f x.val y.val) (x.poison || y.poison) lat b }

/-- I format with a result in rd. -/
def aluI (ic : IC) (w : Nat) (rsvd : Bool) (v : BitVec 64 → BitVec 64) : Plan :=
  let x := ic.t.sreg (fld w 20 16)
  planOf [(rsvd, 0x02)] none { run := fun i b => pushRes i (.s (fld w 25 21)) (v x.val) x.poison 1 b }

/-- `IMM16` zero-extended. -/
def imm16 (w : Nat) : BitVec 64 := BitVec.ofNat 64 (fld w 15 0)
/-- `IMM16` sign-extended. -/
def simm16 (w : Nat) : BitVec 64 := BitVec.ofInt 64 (sext 16 w)

/-- NOP: bits 25:0 reserved. -/
def planSclNop (_ : IC) (w : Nat) : Plan := planOf [(fld w 25 0 != 0, 0x02)] none {}
/-- ADD. -/
def planAdd (ic : IC) (w : Nat) : Plan := aluR ic w 1 (· + ·)
/-- SUB. -/
def planSub (ic : IC) (w : Nat) : Plan := aluR ic w 1 (· - ·)
/-- AND. -/
def planAnd (ic : IC) (w : Nat) : Plan := aluR ic w 1 (· &&& ·)
/-- OR. -/
def planOr (ic : IC) (w : Nat) : Plan := aluR ic w 1 (· ||| ·)
/-- XOR. -/
def planXor (ic : IC) (w : Nat) : Plan := aluR ic w 1 (· ^^^ ·)
/-- SHL by rs2[5:0]. -/
def planShl (ic : IC) (w : Nat) : Plan := aluR ic w 1 fun a c => a <<< (c.toNat % 64)
/-- SHR by rs2[5:0]. -/
def planShr (ic : IC) (w : Nat) : Plan := aluR ic w 1 fun a c => a >>> (c.toNat % 64)
/-- SRA by rs2[5:0]. -/
def planSra (ic : IC) (w : Nat) : Plan := aluR ic w 1 fun a c => a.sshiftRight (c.toNat % 64)
/-- MUL: the low 64 bits, latency 3. -/
def planMul (ic : IC) (w : Nat) : Plan := aluR ic w 3 (· * ·)
/-- ADDI, sign-extended. -/
def planAddi (ic : IC) (w : Nat) : Plan := aluI ic w false (· + simm16 w)
/-- ANDI, zero-extended. -/
def planAndi (ic : IC) (w : Nat) : Plan := aluI ic w false (· &&& imm16 w)
/-- ORI, zero-extended. -/
def planOri (ic : IC) (w : Nat) : Plan := aluI ic w false (· ||| imm16 w)
/-- SHLI; `IMM16`[15:6] reserved. -/
def planShli (ic : IC) (w : Nat) : Plan := aluI ic w (fld w 15 6 != 0) (· <<< fld w 5 0)
/-- LUI; `RS1` reserved. -/
def planLui (_ : IC) (w : Nat) : Plan :=
  planOf [(fld w 20 16 != 0, 0x02)] none
    { run := fun i b => pushRes i (.s (fld w 25 21)) (simm16 w <<< 16) false 1 b }

/-- The comparison of a `COND` code; 6 and 7 are reserved. -/
def condOf (c : Nat) (x y : BitVec 64) : Bool :=
  match c with
  | 0 => x == y
  | 1 => x != y
  | 2 => x.slt y
  | 3 => y.sle x
  | 4 => x.ult y
  | _ => y.ule x

/-- CMP (format C). -/
def planCmp (ic : IC) (w : Nat) : Plan :=
  let x := ic.t.sreg (fld w 20 16)
  let y := ic.t.sreg (fld w 15 11)
  let v := BitVec.ofNat 64 (b2n (condOf (fld w 10 8) x.val y.val))
  planOf [(fld w 22 21 != 0 || fld w 7 0 != 0 || decide (5 < fld w 10 8), 0x02)] none
    { run := fun i b => pushRes i (.p (fld w 25 23)) v (x.poison || y.poison) 1 b }

/-! ### The scalar data cache (R87) -/

/-- Lines of a thread's share; shares are in units of 1 KiB. -/
def Thread.dlines (t : Thread) : Nat := t.dshare * 16

/-- The cache line that would hold an address. -/
def Thread.dAt (t : Thread) (a : Nat) : DLine := fget t.dline (a / 64 % t.dlines)

/-- Is the line of an address resident? -/
def Thread.dHit (t : Thread) (a : Nat) : Bool := t.dlines != 0 && (t.dAt a).valid && (t.dAt a).addr == a / 64

/-- rs1 + sign-extended `IMM16`, as a number (log entry 8). -/
def memAddr (x : SReg) (w : Nat) : Nat := (x.val + simm16 w).toNat

/-- LD: latency 4; a miss or an unaligned address is skipped and marks rd poisoned (R87). A word in uncorrectable error comes
poisoned (R198). -/
def planLd (ic : IC) (w : Nat) : Plan :=
  let x := ic.t.sreg (fld w 20 16)
  let a := memAddr x w
  let l := ic.t.dAt a
  if x.poison then .go { run := fun i b => raise b (insFault b i 0x07 0) }
  else if a % 8 ≠ 0 ∨ !ic.t.dHit a then .skip 0x0D none (some (fld w 25 21))
  else .go (effect fun i b =>
    let (b, bad) := cacheRead ic.e b (ic.k / 9) (ic.k % 9) (a / 64 % ic.t.dlines) i.slot l.err (a % 64 / 4) (a % 64 / 4 + 2)
    pushRes i (.s (fld w 25 21)) (l.data.extractLsb' (8 * (a % 64)) 64) (l.poison || bad) 4 b)

/-- ST: the line becomes dirty; a poisoned value poisons the line. -/
def planSt (ic : IC) (w : Nat) : Plan :=
  let x := ic.t.sreg (fld w 20 16)
  let v := ic.t.sreg (fld w 25 21)
  let a := memAddr x w
  let l := ic.t.dAt a
  if x.poison then .go { run := fun i b => raise b (insFault b i 0x07 0) }
  else if a % 8 ≠ 0 ∨ !ic.t.dHit a then .skip 0x0D none none
  else .go (effect fun i b =>
    let d := mergeLine l.data (v.val.setWidth 512 <<< (8 * (a % 64))) (0xFF#64 <<< (a % 64))
    modPanel b (insKey b i) fun p => p.modThread i.th fun t =>
      { t with dline := fset t.dline (a / 64 % t.dlines) { l with
          data := d, dirty := true, poison := l.poison || v.poison, err := l.err.written (0xFF#64 <<< (a % 64)) } })

/-- The value-dependent checks of a scratchpad word (R68). -/
def spChecks (ic : IC) (a : Nat) : List (Bool × Nat) :=
  if a > 8388600 then [(a % 8 != 0, 0x02), (true, 0x10)] else (a % 8 != 0, 0x02) :: lineChecks ic (a / 64) 1

/-- LDSP: the bank read falls in cycle issue + 2, the result in issue + 6. -/
def planLdsp (ic : IC) (w : Nat) : Plan :=
  let x := ic.t.sreg (fld w 20 16)
  let a := memAddr x w
  planVal [] x.poison (spChecks ic a) none
    { run := fun i b => modPanel b (insKey b i) fun p =>
        { p with scalar := p.scalar ++ [⟨i, i.issue + 2, .ldsp a (fld w 25 21)⟩] } }

/-- STSP: the line is pending from issue; its masked write falls in cycle issue + 2. -/
def planStsp (ic : IC) (w : Nat) : Plan :=
  let x := ic.t.sreg (fld w 20 16)
  let v := ic.t.sreg (fld w 25 21)
  let a := memAddr x w
  planVal [] x.poison (spChecks ic a) none
    { run := fun i b => modPanel b (insKey b i) fun p =>
        let p := p.pend i [a / 64]
        let q : WReq :=
          { cyc := i.issue + 2, prio := 4, line := a / 64, mask := 0xFF#64 <<< (a % 64),
            data := v.val.setWidth 512 <<< (8 * (a % 64)), poison := v.poison, last := true, ins := i }
        { p with wq := p.wq ++ [q] } }

/-- The dirty resident lines among `n` lines from an address: (place, line). -/
def dirtyLines (t : Thread) (a n : Nat) (same : Bool) : List (Nat × DLine) :=
  ((List.range n).filterMap fun j =>
    let q := (a / 64 + j) % t.dlines
    let l := fget t.dline q
    if l.valid && l.dirty && (!same || l.addr == a / 64 + j) then some (q, l) else none).eraseDups

/-- The reads of dirty lines that a write-back makes find the errors of the cache's words (R198): `k` is the panel. -/
def findDirty (e : Env) (b : Body) (k slot : Nat) (ls : List (Nat × DLine)) : Body :=
  ls.foldl (fun b x => (cacheRead e b (k / 9) (k % 9) x.1 slot x.2.err 0 16).1) b

/-- The write-back pieces of dirty lines, translated now (R87, R263); a cause when a page is unmapped or not writable. -/
def writeBacks (b : Body) (slot : Nat) (ls : List (Nat × DLine)) : Except Nat (List Chunk) :=
  ls.foldr (fun x acc =>
    match xlate b slot (x.2.addr * 64) 64 true, acc with
    | .ok s, .ok l => .ok (⟨s, lineBytes x.2.data, x.2.poison || x.2.err.ue != 0#16, []⟩ :: l)
    | .fault c, .ok _ => .error c
    | .ok _, .error c => .error c
    | .fault c, .error c' => .error (min c c')) (.ok [])

/-- A store that only waits for the acknowledgements of pieces already read. -/
def chunkStore (i : Ins) (tok tags : Nat) (out : List Chunk) : StoreOp :=
  { ins := i, tok := tok, tags := tags, kind := .st, line := 0, exp := none, n := 0, addr := 0, stride := 0, space := [],
    space2 := [], ceil := false, key := 0, read := 0, raw := [], outE := [], outS := [], out := out }

/-- Tag groups of a memory range: one number for each 256 bytes it moves, from `g` (R74). -/
def grpOf (g off n : Nat) : List Nat :=
  if n = 0 then [] else span (g + off / 256) ((off + n - 1) / 256 + 1 - off / 256)

/-- DFILL (R87): displaced dirty lines are written back first, then the lines are filled. The write-backs are part of the bytes
moved (R74): the tags of their whole 256-byte groups return with their acknowledgements, the rest as the fill's lines arrive. -/
def dfillRun (e : Env) (w : Nat) (a : Nat) (i : Ins) (b : Body) : Body :=
  let n := fld w 15 0
  let k := insKey b i
  let t := (panelAt b k).thread i.th
  let dirty := dirtyLines t a n false
  match writeBacks b i.slot dirty, xlate b i.slot (a / 64 * 64) (64 * n) false with
  | .ok wb, .ok _ =>
    let d := wb.length
    let out := (wb.zip (List.range d)).map fun x => { x.1 with grp := if x.2 / 4 < d / 4 then [x.2 / 4] else [] }
    let todo := (List.range n).map fun j =>
      let segs := match xlate b i.slot ((a / 64 + j) * 64) 64 false with | .ok s => s | .fault _ => []
      ({ line := (a / 64 + j) % t.dlines, idx := a / 64 + j, segs := segs, segs2 := [], grp := [(d + j) / 4] } : LdLine)
    modPanel (findDirty e b k i.slot dirty) k fun p =>
      let p := p.modThread i.th fun t =>
        { t with dline := todo.foldl (fun m x => fmod m x.line fun l => { l with valid := false }) t.dline }
      { p with load := p.load ++ [⟨i, fld w 24 21, tagsFor (64 * (n + d)) - d / 4, .dfill, a, todo, [], [], 0, false, []⟩],
               store := if wb.isEmpty then p.store else p.store ++ [chunkStore i 16 (d / 4) out] }
  | .error c, .ok _ => raise b (insFault b i c 0)
  | .ok _, .fault c => raise b (insFault b i c 0)
  | .error c, .fault c' => raise b (insFault b i (min c c') 0)

/-- DFILL. The lines are those from the line that holds the address: bits 5:0 of it are ignored (DESIGN CHOICE, log entry 73). -/
def planDfill (ic : IC) (w : Nat) : Plan :=
  let x := ic.t.sreg (fld w 20 16)
  let n := fld w 15 0
  planVal [(bit w 25 || n == 0, 0x02), (ic.t.dshare == 0, 0x10)] x.poison [] (some (fld w 24 21))
    { tags := tagsFor (64 * (n + (dirtyLines ic.t x.val.toNat n false).length)), tok := some (fld w 24 21),
      run := dfillRun ic.e w x.val.toNat }

/-- DWB (R87): the dirty lines of the range are written back; with none, it is complete at once. -/
def dwbRun (e : Env) (w : Nat) (a : Nat) (i : Ins) (b : Body) : Body :=
  let n := fld w 15 0
  let k := insKey b i
  let t := (panelAt b k).thread i.th
  let dirty := dirtyLines t a n true
  match writeBacks b i.slot dirty with
  | .error c => raise b (insFault b i c 0)
  | .ok wb =>
    modPanel (findDirty e b k i.slot dirty) k fun p =>
      if wb.isEmpty then p.modThread i.th fun t => t.tokDown (fld w 24 21)
      else
        let p := p.modThread i.th fun t =>
          { t with dline := dirty.foldl (fun m x => fset m x.1 { x.2 with dirty := false }) t.dline }
        let out := (wb.zip (List.range wb.length)).map fun x => { x.1 with grp := [x.2 / 4] }
        { p with store := p.store ++ [chunkStore i (fld w 24 21) (tagsFor (64 * wb.length)) out] }

/-- DWB: it takes tags for the dirty lines it moves (R74). Bits 5:0 of the address are ignored (DESIGN CHOICE, log entry 73). -/
def planDwb (ic : IC) (w : Nat) : Plan :=
  let x := ic.t.sreg (fld w 20 16)
  let n := fld w 15 0
  planVal [(bit w 25 || n == 0, 0x02), (ic.t.dshare == 0, 0x10)] x.poison [] (some (fld w 24 21))
    { tags := tagsFor (64 * (dirtyLines ic.t x.val.toNat n true).length), tok := some (fld w 24 21), run := dwbRun ic.e w x.val.toNat }

/-! ### Line registers, the tick counter, register access -/

/-- MOVA: a poisoned source faults, as an address does (R44, log entry 9). -/
def planMova (ic : IC) (w : Nat) : Plan :=
  let x := ic.t.sreg (fld w 20 16)
  planVal [(bit w 25, 0x02)] x.poison [] none
    { run := fun i b => pushRes i (.a (fld w 24 21)) (x.val + simm16 w) false 1 b }

/-- The tick counter as a panel sees it: after every edge 2 or more C cycles before (R68, Table 1-13). -/
def panelTick (c : Clock) : BitVec 64 := if c.sub < 2 ∧ c.tick ≠ 0 then c.tick - 1 else c.tick

/-- TICK: latency 2. -/
def planTick (ic : IC) (w : Nat) : Plan :=
  planOf [(fld w 20 0 != 0, 0x02)] none
    { run := fun i b => pushRes i (.s (fld w 25 21)) (panelTick ic.e.clk) false 2 b }

/-- The BAR0 offset of a panel page, and of a context page (Table 15-1). -/
def panelPage (k : Nat) : Nat := 0x100000 * (k / 9 + 1) + 0x10000 + 0x1000 * (k % 9)
/-- The BAR0 offset of a context page. -/
def ctxPage (slot : Nat) : Nat := 0x8000000 + 0x1000 * slot

/-- Does the context hold a thread on physical panel `k`? -/
def holdsThread (b : Body) (k slot : Nat) : Bool :=
  (panelAt b k).seq.thr.any fun t => t.2.st != .free && t.2.slot == slot

/-- The one-way count and full count of a CSRR to an address; none where R68 forbids it. -/
def csrLat (ic : IC) (a : Nat) : Option (Nat × Nat) :=
  if a / 4096 * 4096 = ctxPage ic.slot then some (64, 128)
  else match (List.range 36).find? fun k => a / 4096 * 4096 == panelPage k with
    | some k =>
      if holdsThread ic.b k ic.slot then
        if k / 9 = ic.die then some (20, 40) else if k / 9 = (ic.die + 2) % 4 then some (90, 180) else some (62, 124)
      else none
    | none => none

/-- The first C cycle of the K cycle that holds cycle `c`, `n` cycles after issue: K cycles are 8 C cycles from each tick. -/
def kStart (ic : IC) (c n : Nat) : Nat := c - (ic.e.clk.sub + n) % 8

/-- CSRR: the register is sampled at the start of the K cycle (8 C cycles) that holds the sampling cycle. An offset that is no
multiple of 4 names no register and is skipped with PRIV, as an offset outside the allowed pages is (DESIGN CHOICE, log entry
73); so for CSRW. -/
def planCsrr (ic : IC) (w : Nat) : Plan :=
  let x := ic.t.sreg (fld w 20 16)
  let a := memAddr x w
  planVal [] x.poison [(a % 4 != 0 || (csrLat ic a).isNone, 0x07)] none
    { run := fun i b =>
        let (one, lat) := (csrLat ic a).getD (64, 128)
        modPanel b (insKey b i) fun p =>
          { p with scalar := p.scalar ++ [⟨i, kStart ic (i.issue + one) one, .csrr a (fld w 25 21) (i.issue + lat)⟩] } }

/-- CSRW: the context page only; effect in the K cycle that holds issue + 64. -/
def planCsrw (ic : IC) (w : Nat) : Plan :=
  let x := ic.t.sreg (fld w 20 16)
  let v := ic.t.sreg (fld w 25 21)
  let a := memAddr x w
  planVal [] x.poison [(a % 4 != 0 || a / 4096 * 4096 != ctxPage ic.slot, 0x07)] none
    { run := fun i b => modPanel b (insKey b i) fun p =>
        { p with scalar := p.scalar ++ [⟨i, kStart ic (i.issue + 64) 64, .csrw a (v.val.setWidth 32)⟩] } }

/-! ### Branches and loops (R81 to R85) -/

/-- Does the condition of a branch hold? -/
def brCond (ic : IC) (w : Nat) : Bool := (ic.t.preg (fld w 24 22)).val != bit w 25

/-- The checks of a branch whose condition holds (R81, R85). -/
def brChecks (ic : IC) (target : Nat) : List (Bool × Nat) :=
  [(target % 2 == 1, 0x0C),
   (match ic.t.loops with
    | [] => false
    | x :: _ => decide (target < x.first ∨ x.last < target) || ic.t.loops.any (·.last == ic.pc), 0x0B)]

/-- A branch with a target known when its condition holds. -/
def branch (ic : IC) (w : Nat) (rsvd : Bool) (target : Nat) (tpois : Bool) (run : Ins → Body → Body) : Plan :=
  let p := ic.t.preg (fld w 24 22)
  if rsvd then .skip 0x02 none none
  else if p.poison ∨ (brCond ic w ∧ tpois) then .go { run := fun i b => raise b (insFault b i 0x07 0) }
  else if brCond ic w then planOf (brChecks ic target) none { flow := .jump target, run := run }
  else .go {}

/-- The target of a B-format branch: 16-bit units from the address of this bundle. -/
def brTarget (ic : IC) (w : Nat) : Nat := wrapInt 48 ((ic.pc : Int) + 2 * sext 22 w)

/-- BR. -/
def planBr (ic : IC) (w : Nat) : Plan := branch ic w false (brTarget ic w) false fun _ b => b
/-- CALL: when taken, s31 takes the address of the next bundle. -/
def planCall (ic : IC) (w : Nat) : Plan :=
  branch ic w false (brTarget ic w) false fun i b => pushRes i (.s 31) (BitVec.ofNat 64 ic.next) false 0 b
/-- JR: the target is rs1 modulo 2 ^ 48, bits 63:48 dropped (DESIGN CHOICE, log entry 73). -/
def planJr (ic : IC) (w : Nat) : Plan :=
  let x := ic.t.sreg (fld w 20 16)
  branch ic w (bit w 21 || fld w 15 0 != 0) (x.val.toNat % 2 ^ 48) x.poison fun _ b => b

/-- The address of a loop body's last bundle. -/
def loopLast (ic : IC) (w : Nat) : Nat := (ic.pc + 2 * fld w 15 0) % 2 ^ 48

/-- The checks of R85, for a loop entered with count `n`. -/
def loopChecks (ic : IC) (w n : Nat) : List (Bool × Nat) :=
  [(n != 0 && decide (Config.loopDepth ≤ ic.t.loops.length), 0x08),
   (match ic.t.loops with | [] => false | x :: _ => decide (x.last < loopLast ic w), 0x09),
   (decide (loopLast ic w < ic.next), 0x0A)]

/-- A loop entry with a known count; a skipped loop is followed by the next bundle in order (R85). -/
def enterLoop (ic : IC) (w n : Nat) : Plan :=
  planOf (loopChecks ic w n) none
    { flow := if n = 0 then .past (loopLast ic w) else .enter n ic.next (loopLast ic w) }

/-- LOOP: count rs[23:0]; bits 20:16 reserved. -/
def planLoop (ic : IC) (w : Nat) : Plan :=
  let x := ic.t.sreg (fld w 25 21)
  if fld w 20 16 ≠ 0 then .skip 0x02 none none
  else if x.poison then .go { flow := .plain, run := fun i b => raise b (insFault b i 0x07 0) }
  else enterLoop ic w (x.val.toNat % 2 ^ 24)

/-- LOOPI: count `IMM10`. -/
def planLoopi (ic : IC) (w : Nat) : Plan := enterLoop ic w (fld w 25 16)

/-- EXITIF: `OFF22` reserved; with no loop active, LOOP_END. -/
def planExitif (ic : IC) (w : Nat) : Plan :=
  let p := ic.t.preg (fld w 24 22)
  match lowest [(fld w 21 0 != 0, 0x02), (ic.t.loops.isEmpty, 0x0A)] with
  | some r => .skip r none none
  | none =>
    if p.poison then .go { run := fun i b => raise b (insFault b i 0x07 0) }
    else if brCond ic w then .go { flow := .leave } else .go {}

/-- The SCL slot by its opcode (Table 3-6). -/
def planScl (ic : IC) (w : Nat) : Plan :=
  match fld w 31 26 with
  | 0x00 => planSclNop ic w
  | 0x01 => planAdd ic w
  | 0x02 => planSub ic w
  | 0x03 => planAnd ic w
  | 0x04 => planOr ic w
  | 0x05 => planXor ic w
  | 0x06 => planShl ic w
  | 0x07 => planShr ic w
  | 0x08 => planSra ic w
  | 0x09 => planMul ic w
  | 0x10 => planAddi ic w
  | 0x11 => planAndi ic w
  | 0x12 => planLui ic w
  | 0x13 => planShli ic w
  | 0x14 => planOri ic w
  | 0x18 => planCmp ic w
  | 0x20 => planLd ic w
  | 0x21 => planSt ic w
  | 0x22 => planLdsp ic w
  | 0x23 => planStsp ic w
  | 0x24 => planDfill ic w
  | 0x25 => planDwb ic w
  | 0x28 => planMova ic w
  | 0x2A => planTick ic w
  | 0x2B => planCsrr ic w
  | 0x2C => planCsrw ic w
  | 0x30 => planBr ic w
  | 0x31 => planCall ic w
  | 0x32 => planJr ic w
  | 0x34 => planLoop ic w
  | 0x35 => planLoopi ic w
  | 0x36 => planExitif ic w
  | _ => .skip 0x01 none none

end Sys2Proof.Machine
end

