-- ==== Sys2Proof/Machine/Groups.lean ====
section
/-! DEFINITION. Groups (R25 to R27, R221, R276): the prefixes of the plan record, unit descriptors and their aggregation, the head of
a group and its members. -/

namespace Sys2Proof.Machine

/-- `HUB_FEAT` bits (R18, Table 1-7): all or none. -/
def hubFeat (b : Body) : Bool := b.hub.neg == 4 && b.hub.stepping == 2

/-- The group prefixes of the plan record, as keys ℓ · 2^20 + value. -/
def planGroups (b : Body) : List Nat :=
  match b.fab.plan with
  | none => []
  | some d => (List.range 16).filterMap fun k =>
    let w := bytesAt d (240 + 4 * k) 4
    if bit w 31 then some (fld w 28 24 * 2 ^ 20 + fld w 19 0) else none

/-- Does an address lie in a group? -/
def inGroup (key addr : Nat) : Bool :=
  let l := key / 2 ^ 20
  (key % 2 ^ 20) >>> (20 - l) == addr >>> (20 - l)

/-- The ranges two ends have in common. -/
def common (x y : Nat × Nat) : Nat × Nat := (max x.1 y.1, min x.2 y.2)

/-- Is a range empty? -/
def noRange (x : Nat × Nat) : Bool := decide (x.2 < x.1)

/-- Panels available. -/
def panelsUp (b : Body) : Nat :=
  ((List.range 4).map fun d => ((List.range 8).filter fun lp => (fget (fget b.die d).map lp).isSome).length).sum

/-- Tier A capacity in GiB (R182). -/
def tierAGib (b : Body) : Nat := ((List.range 4).map (winCap b)).sum / 2 ^ 30

/-- Tier A capacity in GiB with no channel out of service. -/
def tierAFull (b : Body) : Nat := ((List.range 4).map fun d => 64 * ordSize (fget b.mem.stack (2 * d)).spareIn).sum / 2 ^ 30

/-- This module's own descriptor. -/
def ownDesc (b : Body) : UnitDesc :=
  let rg (k : Nat) : Nat × Nat := (fget b.fab.range k, fget b.fab.range (k + 1))
  let tb := (tierBCap b - b.mem.tb.liningIn * 2 ^ 30) / 2 ^ 30
  let full := 24 * 64 - b.mem.tb.liningIn
  { units := 1, depth := 0, feat := if hubFeat b then 15 else 0
    degraded := decide (panelsUp b < 32 ∨ tierAGib b < tierAFull b ∨ tb < full), head := b.fab.addr, panels := panelsUp b
    tierA := tierAGib b, tierB := tb, stratum := 1024, proto := [rg 4, rg 2, rg 0, rg 8, rg 6], members := [b.fab.addr] }

/-- Aggregate two descriptors (Table 1-14); the head is kept apart. -/
def UnitDesc.join (x y : UnitDesc) : UnitDesc :=
  { units := x.units + y.units, depth := max x.depth y.depth, feat := x.feat &&& y.feat, degraded := x.degraded || y.degraded, head := x.head
    panels := x.panels + y.panels, tierA := x.tierA + y.tierA, tierB := x.tierB + y.tierB, stratum := x.stratum + y.stratum
    proto := (x.proto.zip y.proto).map fun p => common p.1 p.2, members := x.members ++ y.members }

/-- Does group `g` lie strictly inside group `h`? -/
def groupInside (g h : Nat) : Bool := decide (h / 2 ^ 20 < g / 2 ^ 20) && inGroup h (g % 2 ^ 20)

/-- The aggregated descriptor of a group, from the descriptors of its listed member groups and of its single modules. -/
def aggDesc (b : Body) : Nat → Nat → UnitDesc
  | 0, _ => ownDesc b
  | f + 1, key =>
    let subs := (planGroups b).filter fun g => groupInside g key
    let top := subs.filter fun g => !(subs.any fun h => groupInside g h)
    let groups := top.filterMap fun g =>
      if inGroup g b.fab.addr then some (aggDesc b f g) else (b.fab.group.find? (·.1 == g)).map (·.2)
    let one (u : Nat) : Bool := inGroup key u && !(top.any fun g => inGroup g u)
    let singles := (b.fab.group.filter fun g => g.1 / 2 ^ 20 == 20 && one (g.1 % 2 ^ 20) && g.1 % 2 ^ 20 != b.fab.addr).map (·.2)
    let own := if one b.fab.addr then [ownDesc b] else []
    match own ++ singles ++ groups with
    | [] => ownDesc b
    | x :: xs =>
      let d := xs.foldl UnitDesc.join x
      { d with depth := d.depth + 1, head := b.fab.addr,
               proto := if d.proto.any noRange then d.proto.map fun _ => (15, 0) else d.proto }

/-- Is this module the head of a group as far as it knows (R25, R26): it qualifies, and no lower address of the group that qualifies is
known and heard? -/
def isHead (b : Body) (key : Nat) : Bool :=
  (b.fab.outcome == 1 || b.fab.outcome == 2) && inGroup key b.fab.addr &&
    !(b.fab.watch.any fun w => w.2.used && !w.2.silent && (w.2.outcome == 1 || w.2.outcome == 2) && inGroup key w.1 && decide (w.1 < b.fab.addr))

/-- Does this module answer for a group as its head? It does from the first heartbeat period after it detected the loss of the one
before (R26); and, so that there is never more than one answer, once it has counted itself head for `MISS` periods, in which a lower
member is heard (DESIGN CHOICE, log entry 80). -/
def answersFor (b : Body) (key : Nat) : Bool :=
  isHead b key && decide (b.kpr.hbMiss ≤ b.fab.beats) &&
    !(b.fab.watch.any fun w => w.2.used && w.2.fresh && inGroup key w.1 && decide (w.1 < b.fab.addr))

/-- The members of a group as this module knows them (R238): those of its own aggregate where it is the head, else those of the latest
descriptor, less any whose heartbeats report another outcome than MATCH or SUBSET. -/
def groupMembers (b : Body) (key : Nat) : List Nat :=
  let d := if isHead b key then aggDesc b 20 key else fget b.fab.group key
  d.members.filter fun u =>
    let w := fget b.fab.watch u
    if u = b.fab.addr then b.fab.outcome == 1 || b.fab.outcome == 2 else !w.used || w.outcome == 1 || w.outcome == 2

/-- This module's failure-domain tags (R226). -/
def unitTags (b : Body) : UnitTags :=
  { tray := b.fab.fdTray, pwr := b.fab.fdPwr, leafs := (b.fab.port.filter fun p => p.2.answered).map fun p => (p.2.tree, p.2.leaf) }

end Sys2Proof.Machine
end

