-- ==== Sys2Proof/Machine/Far.lean ====
section
/-! DEFINITION. Far transfers and phase tokens as the issuing module does them: peer ids and the active route set (R231,
R239), packets and their sends (R232, R237, R195), and the phase agreement tree (R240 to R242). -/

namespace Sys2Proof.Machine

/-- The valid entry of a logical peer id in the active route set (R231, R239). -/
def peerEntry (c : Ctx) (peer : Nat) : Option (BitVec 32) :=
  let x := fget (fget c.far.sets c.far.active) peer
  if x.getLsbD 31 then some x else none

/-- Does an entry name a group? -/
def entryGroup (x : BitVec 32) : Bool := x.getLsbD 30

/-- The unit address of an entry that names a module. -/
def entryUnit (x : BitVec 32) : Nat := x.toNat % 2 ^ 20

/-- The key of a group among the stored group descriptors: prefix length and value. -/
def entryGroupKey (x : BitVec 32) : Nat := fld x.toNat 29 25 * 2 ^ 20 + x.toNat % 2 ^ 20

/-- The units a put to this entry goes to (R238). -/
def entryUnits (b : Body) (x : BitVec 32) : List Nat :=
  if entryGroup x then groupMembers b (entryGroupKey x) else [entryUnit x]

/-- This module's own peer id in the active set. -/
def ownPeer (b : Body) (c : Ctx) : Option Nat :=
  ((fget c.far.sets c.far.active).find? fun e => e.2.getLsbD 31 && !entryGroup e.2 && entryUnit e.2 == b.fab.addr).map (·.1)

/-- The unit address of a valid peer, when its entry names a module. -/
def peerUnit (c : Ctx) (peer : Nat) : Option Nat := (peerEntry c peer).map entryUnit

/-- Send a frame. -/
def sendFrame (b : Body) (f : Frame) : Body := { b with fab := { b.fab with sent := b.fab.sent ++ [f] } }

/-- The 256-byte port-engine tags of a packet (R195). -/
def frameTags : Frame → Nat
  | .put _ _ _ _ d _ => tagsFor d.length
  | .get _ _ _ _ n => tagsFor n
  | _ => 0

/-- Port-engine tags fitted (Table 8-9). -/
def portTags : Nat := 32768

/-- Does a context execute as a shadow (R339, R340)? It sends no transfer of its own. -/
def shadowing (b : Body) (slot : Nat) : Bool := (ctxAt b slot).con.role == 2 && (ctxAt b slot).con.active

/-- The plane of a port (Table 9-1). -/
def planeOf (p : Nat) : Nat := p / 2

/-- Does a value lie in a range? -/
def inRange (r : Nat × Nat) (v : Nat) : Bool := decide (r.1 ≤ v ∧ v ≤ r.2)

/-- The pinned protocol level of a context (R229): transport, collective, ledger. -/
def jobLevel (c : Ctx) : Nat × Nat × Nat := (c.id.trn, c.id.col, c.id.ldg)

/-- Does a port carry the traffic of a level: UP, at full width, its common ranges hold the level (R219, R230, R253)? Level (0, 0, 0) is
that of no context and needs no range. -/
def portFits (p : Port) (lv : Nat × Nat × Nat) : Bool :=
  p.st == 1 && !p.drz && (lv == (0, 0, 0) || (inRange p.trn lv.1 && inRange p.col lv.2.1 && inRange p.ldg lv.2.2))

/-- The ports that carry a level, each as often as it has lanes in service (R219). -/
def carriers (b : Body) (lv : Nat × Nat × Nat) : List Nat :=
  (List.range 6).flatMap fun n => let p := fget b.fab.port n; if portFits p lv then List.replicate p.lanes n else []

/-- Does some port carry the traffic of a context? -/
def portCarries (b : Body) (c : Ctx) : Bool := !(carriers b (jobLevel c)).isEmpty

/-- The port of one packet among those that carry it: which one the spec leaves open, but for their shares (R219): a free value. -/
def pickPort (b : Body) (cs : List Nat) : Option Nat × Body :=
  match cs.eraseDups with
  | [] => (none, b)
  | [n] => (some n, b)
  | _ => (cs[(Config.freeWord b.free).toNat % cs.length]?, { b with free := b.free + 1 })

/-- The destination of a packet. -/
def frameDst : Frame → Option Nat
  | .put d .. | .get d .. | .completion d .. | .phase d .. | .phaseAgree d .. | .contribution d .. | .chunk d .. | .seal d ..
  | .sealDecision d .. | .mirrorChunk d .. | .mirrorManifest d .. | .mirrorInput d .. | .mirrorLog d .. | .mirrorAck d ..
  | .mirrorRefuse d .. | .mirrorRekey d .. | .mirrorSealed d .. | .mirrorWant d .. | .mirrorSupply d .. | .mirrorSupplyCmd d ..
  | .mirrorSupplyEnd d .. | .buddyAsk d .. | .buddyAnswer d .. | .shadowLine d .. | .shardDigest d .. | .shardResult d .. => some d
  | _ => none

/-- Is a frame a transfer, which ends with a completion acknowledgement (R232)? -/
def isTransfer : Frame → Bool
  | .put .. | .get .. => true
  | _ => false

/-- Does the port engine keep a packet until its receipt comes (R237)? Not a completion acknowledgement, which is one itself. -/
def isKept : Frame → Bool
  | .completion .. => false
  | _ => true

/-- Send one held packet, when tags are free (R195) and a port carries it; a packet to the module itself needs none (R231), one that is
sent again goes on another plane where one carries it (R237). A shadow sends no transfer of its own (R340). -/
def sendOne (b : Body) (p : OutPkt) : Body :=
  let self := frameDst p.frame == some b.fab.addr
  let cs := carriers b p.level
  let far := match p.port with | some n => cs.filter fun m => planeOf m != planeOf n | none => []
  let cs := if far.isEmpty then cs else far
  let tags := if p.sends = 0 then frameTags p.frame else 0
  if portTags < b.fab.tags + tags ∨ (isTransfer p.frame && shadowing b p.slot) ∨ !(self || !cs.isEmpty) then b
  else
    let (n, b) := if self then (none, b) else pickPort b cs
    let q := { p with sends := p.sends + 1, held := false, port := n }
    { b with fab := { b.fab with
        tags := b.fab.tags + tags
        out := if isKept p.frame then b.fab.out.map fun x => if x.seq = p.seq then q else x else b.fab.out.filter (·.seq != p.seq)
        sent := b.fab.sent ++ [.packet n p.job p.level p.seq p.frame] } }

/-- Send the held packets in order. -/
def sendHeld (b : Body) : Body := (b.fab.out.filter (·.held)).foldl sendOne b

/-- Queue one packet of a context: it is sent when the port engine has tags and a port carries it. `mk` builds the frame from its
transport sequence number. -/
def queuePacket (b : Body) (slot handle uid key : Nat) (mk : Nat → Frame) : Body :=
  let s := b.fab.seq + 1
  let c := ctxAt b slot
  let p : OutPkt :=
    { seq := s, slot := slot, handle := handle, uid := uid, key := key, frame := mk s, sends := 0, receipt := false,
      job := c.id.job, level := jobLevel c, port := none, held := true }
  sendHeld { b with fab := { b.fab with seq := s, out := b.fab.out ++ [p] } }

/-- Queue one packet of a load or a store. -/
def addPacket (b : Body) (i : Ins) (key : Nat) (mk : Nat → Frame) : Body := queuePacket b i.slot i.handle i.uid key mk

/-- Send a packet of a context's job that is no transfer: the agreements, reductions, mirrors and seals (R230, R237). -/
def sendJob (b : Body) (slot : Nat) (f : Frame) : Body :=
  let (u, b) := freshUid b
  queuePacket b slot 0 u 0 fun _ => f

/-- The slot whose context speaks for a job: that of the job, or, where none is, one past the last, whose level every UP port
carries. -/
def jobSlot (b : Body) (job : Nat) : Nat := ((b.ctx.slot.find? fun c => c.2.id.st != .free && c.2.id.job == job).map (·.1)).getD 4096

/-- The rows of a strided transfer as (first line, lines, address): rows of 16 lines, or the whole transfer cut into 16 KiB
when it is contiguous (R232, R410). -/
def farPieces (n addr stride : Nat) : List (Nat × Nat × Nat) :=
  if stride = 1024 then
    (List.range (ceilDiv n 256)).map fun q => (256 * q, min 256 (n - 256 * q), addr + 16384 * q)
  else (List.range (ceilDiv n 16)).map fun q => (16 * q, min 16 (n - 16 * q), addr + stride * q)

/-- The packets of a far get: lines are returned under their index in the transfer. -/
def sendGets (b : Body) (i : Ins) (dst n addr stride : Nat) : Body :=
  (farPieces n addr stride).foldl (fun b p =>
    addPacket b i (p.1 * 2 ^ 16 + p.2.1) fun s => .get dst s i.uid p.2.2 (64 * p.2.1)) b

/-- The packets of a far put to one unit. -/
def sendPuts (i : Ins) (n addr stride : Nat) (lines : List (List (BitVec 8) × Bool)) (b : Body) (dst : Nat) : Body :=
  (farPieces n addr stride).foldl (fun b p =>
    let ls := (lines.drop p.1).take p.2.1
    addPacket b i (p.1 * 2 ^ 16 + p.2.1) fun s => .put dst s i.uid p.2.2 (ls.flatMap (·.1)) (ls.map (·.2))) b

/-! ### Phase tokens (R240 to R242) -/

/-- The children of a peer in the agreement tree that are members. -/
def phaseKids (c : Ctx) (p : Nat) : List Nat := (span (16 * p + 1) 16).filter fun q => (peerEntry c q).isSome

/-- The set a context's pending REDRAW names for token `k`. -/
def pendingSet (c : Ctx) (k : Nat) : Option Nat :=
  match c.far.pend with
  | some (set, key, _) => if key = k then some set else none
  | none => none

/-- The units of the members below this one over the active set. -/
def kidUnits (b : Body) (slot : Nat) : List Nat :=
  let c := ctxAt b slot
  match ownPeer b c with
  | some p => (phaseKids c p).filterMap (peerUnit c)
  | none => []

/-- The unit of the member above this one over the active set; none at peer 0. -/
def parentUnit (b : Body) (slot : Nat) : Option Nat :=
  let c := ctxAt b slot
  match ownPeer b c with
  | some (p + 1) => peerUnit c (p / 16)
  | _ => none

/-- The agreement on (step, `k`) reaches this member: the named set becomes active, the pending REDRAW is cleared, waiting
threads may resume, and the members below hear of it (R241). -/
def phaseAgreed (b : Body) (slot k : Nat) (set : Option Nat) : Body :=
  let n := stepNum (ctxAt b slot)
  let b := (kidUnits b slot).foldl (fun b u => sendJob b slot (.phaseAgree u n k set false)) b
  modCtx b slot fun c =>
    { c with far := { c.far with active := set.getD c.far.active, agreed := c.far.agreed ++ [k],
                                 pend := match pendingSet c k with | some _ => none | none => c.far.pend } }

/-- Reports on (step, `k`) differ: the members above and below hear of it, and the context faults (R242). -/
def phaseDiffer (b : Body) (slot k : Nat) : Body :=
  let n := stepNum (ctxAt b slot)
  let b := (kidUnits b slot).foldl (fun b u => sendJob b slot (.phaseAgree u n k none true)) b
  let b := match parentUnit b slot with
    | some u => sendJob b slot (.phase u n k none true)
    | none => b
  raise b { slot := slot, cause := 0x0C, th := none, die := none, slotc := 7, baddr := none, unit := 0, oper := 0,
            origin := none, detail := 0 }

/-- Act on the reports of token `k` a member has so far: once its own and its children's are in, it passes them up, or at
peer 0 decides; reports that differ fault the context (R241, R242). -/
def phaseTry (b : Body) (slot k : Nat) : Body :=
  let c := ctxAt b slot
  let own := pendingSet c k
  let p := (ownPeer b c).getD 0
  let kids := if (ownPeer b c).isSome then phaseKids c p else []
  let reps := c.far.childReports.filter fun r => r.step == stepNum c && r.k == k
  if !c.far.reached.contains k || c.far.agreed.contains k then b
  else if reps.any fun r => r.set != own then phaseDiffer b slot k
  else if kids.all fun q => reps.any (·.peer == q) then
    if p = 0 then phaseAgreed b slot k own
    else match parentUnit b slot with
      | some u => sendJob b slot (.phase u (stepNum c) k own false)
      | none => b
  else b

/-- One thread issues PHASE with token `k`; the context reaches it with the last of `CTX_PHASEQ.COUNT` (R240). -/
def phaseIssue (b : Body) (slot k : Nat) : Body :=
  let c := ctxAt b slot
  let n := fget c.far.phaseCnt k + 1
  let now := decide (c.far.phaseQIn ≤ n) && !c.far.reached.contains k
  let far := { c.far with phaseCnt := fset c.far.phaseCnt k n }
  let b := setCtx b slot { c with far := if now then { far with reached := far.reached ++ [k] } else far }
  if now then phaseTry b slot k else b

end Sys2Proof.Machine
end

