-- ==== Sys2Proof/Machine/Transfer.lean ====
section
/-! DEFINITION. The LDX and STX slots and IFILL: plans and the start of transfers (R71 to R74, R86, R119, R161 to R171,
R231, R410). -/

namespace Sys2Proof.Machine

/-! ### Memory-side ranges -/

/-- The rows of a transfer of `n` lines, `per` memory bytes a line, from `addr`: rows of 16 lines at `stride` (R410). -/
def rowRanges (n per addr stride : Nat) : List (Nat × Nat) :=
  (List.range (ceilDiv n 16)).map fun q => (addr + q * stride, per * min 16 (n - 16 * q))

/-- The stride of a transfer: the register's value, or for s0 the length of a full row. -/
def strideOf (r : Nat) (x : SReg) (full : Nat) : Nat := if r = 0 then full else x.val.toNat

/-- The next `n` bytes of a list of segments, and what follows. -/
def takeSegs : List Seg → Nat → List Seg × List Seg
  | [], _ => ([], [])
  | g :: gs, n =>
    if n = 0 then ([], g :: gs)
    else if g.len ≤ n then
      let (a, r) := takeSegs gs (n - g.len)
      (g :: a, r)
    else ([{ g with len := n }], { g with addr := g.addr + n, len := g.len - n } :: gs)

/-- The bytes `off .. off + n - 1` of a list of segments. -/
def subSegs (gs : List Seg) (off n : Nat) : List Seg := (takeSegs (takeSegs gs off).2 n).1

/-- Cut a list of segments into pieces of `n` bytes, at most `k` of them. -/
def cutSegs : Nat → List Seg → Nat → List (List Seg)
  | 0, _, _ => []
  | k + 1, gs, n => let (a, r) := takeSegs gs n; a :: cutSegs k r n

/-- The fault of a translation at issue, or the continuation with its segments. -/
def withSegs (b : Body) (i : Ins) (wr : Bool) (rs : List (Nat × Nat)) (f : List Seg → Body) : Body :=
  match xlateAll b i.slot wr rs with
  | .fault c => raise b (insFault b i c 0)
  | .ok s => f s

/-- Two lists of ranges translated together: the lowest cause of both is the fault (R264). -/
def withSegs2 (b : Body) (i : Ins) (wr : Bool) (rs rs2 : List (Nat × Nat)) (f : List Seg → List Seg → Body) : Body :=
  match xlateAll b i.slot wr rs, xlateAll b i.slot wr rs2 with
  | .ok s, .ok s2 => f s s2
  | .fault c, .fault c2 => raise b (insFault b i (min c c2) 0)
  | .fault c, .ok _ => raise b (insFault b i c 0)
  | .ok _, .fault c => raise b (insFault b i c 0)

/-- Add a load and set its lines pending (R73). -/
def startLoad (b : Body) (i : Ins) (lines : List Nat) (op : LoadOp) : Body :=
  modPanel b (insKey b i) fun p => { p.pend i lines with load := p.load ++ [op] }

/-! ### LDX -/

/-- The fields of an LDX slot. -/
def ldxDst (ic : IC) (w : Nat) : Nat := ic.t.areg (fld w 52 49)
/-- `TOK`. -/
def ldxTok (w : Nat) : Nat := fld w 44 41
/-- Lines of an LDX slot. -/
def ldxLines (w : Nat) : Nat := fld w 40 31 + 1

/-- The checks every LDX transfer shares. -/
def ldxChecks (w : Nat) (modeUsed peerUsed : Bool) : List (Bool × Nat) :=
  [(dstBad (fld w 52 45) || fld w 7 0 != 0 || (!modeUsed && fld w 30 27 != 0) || (!peerUsed && fld w 26 13 != 0), 0x02),
   (slotOff 3, 0x04)]

/-- NOP: bits 57:0 reserved. -/
def planLdxNop (_ : IC) (w : Nat) : Plan := planOf [(fld w 57 0 != 0, 0x02), (slotOff 3, 0x04)] none {}

/-- The destination lines of a plain load, with their bytes and tag groups. -/
def plainLines (l n : Nat) (cut : List (List Seg)) : List LdLine :=
  (cut.zip (List.range n)).map fun x => ⟨l + x.2, x.2, x.1, [], [x.2 / 4]⟩

/-- LD. -/
def planLdxLd (ic : IC) (w : Nat) : Plan :=
  let l := ldxDst ic w
  let n := ldxLines w
  let x := ic.t.sreg (fld w 57 53)
  let y := ic.t.sreg (fld w 12 8)
  planVal (ldxChecks w false false ++ lineChecks ic l n) (x.poison || y.poison) [] (some (ldxTok w))
    { tags := tagsFor (64 * n), tok := some (ldxTok w), run := fun i b =>
        withSegs b i false (rowRanges n 64 x.val.toNat (strideOf (fld w 12 8) y 1024)) fun s =>
          startLoad b i (span l n)
            ⟨i, ldxTok w, tagsFor (64 * n), .ld, 0, plainLines l n (cutSegs n s 64), [], [], 0, false, []⟩ }

/-- Memory-side bytes of `n` destination lines of a keep format: element bytes, scale bytes (R169, R171). -/
def ldkBytes (code n : Nat) : Nat × Nat :=
  if code = 3 ∨ code = 4 then (16 * n, ceilDiv n 2) else if code ≥ 7 then (576 * (n / 8), 0) else (64 * n, 0)

/-- Feature bits a keep format needs: KEEP, and FP8 or MX for its codes. -/
def keepOff (code : Nat) : Bool :=
  featOff 13 || (decide (code = 1 ∨ code = 2 ∨ code = 7 ∨ code = 8) && featOff 8) ||
    (decide (code = 3 ∨ code = 4) && featOff 9)

/-- The destination lines of an LDK: element bytes and scale byte of each. -/
def ldkLines (code l n : Nat) (s s2 : List Seg) : List LdLine :=
  if code = 3 ∨ code = 4 then
    let sc := cutSegs (n / 2) s2 1
    ((cutSegs n s 16).zip (List.range n)).map fun x =>
      ⟨l + x.2, x.2, x.1, sc.getD (x.2 / 2) [], [x.2 / 16, (16 * n + x.2 / 2) / 256].eraseDups⟩
  else if code ≥ 7 then (List.range n).map fun j => ⟨l + j, j, [], [], []⟩
  else plainLines l n (cutSegs n s 64)

/-- LDK. -/
def planLdk (ic : IC) (w : Nat) : Plan :=
  let l := ldxDst ic w
  let n := ldxLines w
  let code := fld w 30 27
  let a := fld w 57 53
  let mx := decide (code = 3 ∨ code = 4)
  let x := ic.t.sreg a
  let x2 := ic.t.sreg (a + 1)
  let y := ic.t.sreg (fld w 12 8)
  let (ne, ns) := ldkBytes code n
  let bad := decide (9 ≤ code) || (mx && (n % 2 != 0 || a == 31)) ||
    (decide (7 ≤ code) && (n % 8 != 0 || fld w 12 8 != 0))
  let per := if mx then 16 else 64
  planVal (ldxChecks w true false ++ [(bad, 0x02), (keepOff code, 0x04)] ++ lineChecks ic l n)
    (x.poison || y.poison || (mx && x2.poison)) [] (some (ldxTok w))
    { tags := tagsFor (ne + ns), tok := some (ldxTok w), run := fun i b =>
        let rs := if 7 ≤ code then [(x.val.toNat, ne)]
          else rowRanges n per x.val.toNat (strideOf (fld w 12 8) y (16 * per))
        withSegs2 b i false rs (if mx then [(x2.val.toNat, ns)] else []) fun s s2 =>
          startLoad b i (span l n)
            ⟨i, ldxTok w, tagsFor (ne + ns), .ldk code, 0, ldkLines code l n s s2, [], if 7 ≤ code then s else [], 0, false, []⟩ }

/-- FGET (R231): a group entry is RSVD (R238); a missing entry NO_ROUTE. -/
def planFget (ic : IC) (w : Nat) : Plan :=
  let l := ldxDst ic w
  let n := ldxLines w
  let x := ic.t.sreg (fld w 57 53)
  let y := ic.t.sreg (fld w 12 8)
  let ent := peerEntry ic.c (fld w 26 13)
  planVal (ldxChecks w false true ++ [((ent.map entryGroup).getD false, 0x02), (featOff 15, 0x04), (ent.isNone, 0x11)] ++
      lineChecks ic l n) (x.poison || y.poison) [] (some (ldxTok w))
    { tags := tagsFor (64 * n), tok := some (ldxTok w), run := fun i b =>
        let todo := (List.range n).map fun j => (⟨l + j, j, [], [], [j / 4]⟩ : LdLine)
        let b := startLoad b i (span l n) ⟨i, ldxTok w, tagsFor (64 * n), .fget (fld w 26 13), 0, todo, [], [], 0, false, []⟩
        sendGets b i (entryUnit (ent.getD 0)) n x.val.toNat (strideOf (fld w 12 8) y 1024) }

/-! ### LDT (R161 to R166) -/

/-- Mitre sizes of Table 7-1 by `MODE`: E, bits an element, lines a new row, positions, lines a tile. -/
def mitreSize : Nat → Nat × Nat × Nat × Nat × Nat
  | 0 => (128, 16, 4, 4, 512)
  | 1 => (64, 32, 4, 8, 256)
  | 2 => (256, 8, 4, 4, 1024)
  | _ => (256, 4, 2, 8, 512)

/-- The destination of an LDT at line `d`: first position q0, first bank row, group (R162). -/
def mitrePlace (mode d : Nat) : Nat × Nat × Nat :=
  let lam := (mitreSize mode).2.2.1
  if mode = 1 then (d % 16 / 4 + 4 * fld d 7 7, fld d 16 7 - fld d 7 7, fld d 6 4) else (d % 16 / lam, fld d 16 7, fld d 6 4)

/-- The line at a bank row, bank of the group, and group (R35). -/
def lineAt (row g bank : Nat) : Nat := row * 128 + g * 16 + bank

/-- The lines of new row `m` of the tile at position `q` (R162). -/
def mitreRow (mode rho g q m : Nat) : List Nat :=
  let lam := (mitreSize mode).2.2.1
  let row := if mode = 1 then rho + 2 * m + q / 4 else rho + m
  (List.range lam).map fun x => lineAt row g (lam * (q % (16 / lam)) + x)

/-- The scale line of new row `m` (R96, R166). -/
def mitreScale (rho g m : Nat) : Nat := lineAt (rho + m / 16) ((g + 1) % 8) (m % 16)

/-- All destination lines of an LDT. -/
def mitreLines (mode rho g q0 tiles : Nat) (mx : Bool) : List Nat :=
  let e := (mitreSize mode).1
  ((List.range tiles).flatMap fun t => (List.range e).flatMap fun m => mitreRow mode rho g (q0 + t) m) ++
    (if mx then (List.range e).map (mitreScale rho g) else [])

/-- LDT. Mitre holds at most four (R165); those of a context that has been reset have left it (R50). -/
def planLdt (ic : IC) (w : Nat) : Plan :=
  let d := ldxDst ic w
  let n := ldxLines w
  let mode := fld w 30 27
  let (e, bits, lam, pos, per) := mitreSize mode
  let a := fld w 57 53
  let sr := fld w 12 8
  let x := ic.t.sreg a
  let y := ic.t.sreg sr
  let x2 := ic.t.sreg (a + 1)
  let tiles := n / per
  let (q0, rho, g) := mitrePlace mode d
  let st := ic.c.set
  let mx := st.mitreMx && decide (mode = 2 ∨ mode = 3)
  let stride := strideOf sr y (e * bits / 8)
  let q := if mode = 2 then 32 else 16
  let badMode := decide (4 ≤ mode) || n % per != 0 || d % 16 % lam != 0 || decide (pos < q0 + tiles) ||
    (mode == 1 && (fld d 16 7 - fld d 7 7) % 2 != 0) ||
    (mx && (a == 31 || (mode == 2 && !([4, 5, 8].contains st.mitreFmt))))
  let rows := if mode = 1 then 2 * e else e
  let banks := (mitreLines mode 0 g q0 (min tiles (pos - q0)) mx).map (· % 128)
  let stridePoison := y.poison
  planVal (ldxChecks w true false ++
      [(badMode, 0x02), (featOff 12, 0x04), (ic.p.seq.mitre != some ic.slot, 0x05), (foreign ic banks, 0x05),
       (inSealed ic banks, 0x06), (decide (1024 < rho + rows), 0x10)])
    (x.poison || stridePoison || (mx && x2.poison)) [(mx && stride % q != 0, 0x02)] (some (ldxTok w))
    (if 4 ≤ (ic.p.ldt.filter fun x => x.ins.slot == ic.slot && x.ins.handle == ic.t.handle).length then { run := fun i b => noteOverlap ic.e b i }
     else
      let nb := tiles * (e * e * bits / 8) + (if mx then tiles * e * 8 else 0)
      { tags := tagsFor nb, tok := some (ldxTok w), run := fun i b =>
          let srcRows := (List.range (e * tiles)).map fun r => (x.val.toNat + r * stride, e * bits / 8)
          let sstride := if sr = 0 then 8 else stride / q
          let scRows := if mx then (List.range (e * tiles)).map fun r => (x2.val.toNat + r * sstride, 8) else []
          withSegs2 b i false srcRows scRows fun s s2 =>
            modPanel b (insKey b i) fun p =>
              { p.pend i (mitreLines mode rho g q0 tiles mx) with ldt := p.ldt ++ [⟨i, ldxTok w, tagsFor nb, mode,
                  if mx then some (if mode = 2 then st.mitreFmt else 0xA) else none, tiles, 0, 0, q0, rho, g,
                  cutSegs (e * tiles) s (e * bits / 8), cutSegs (if mx then e * tiles else 0) s2 8, []⟩] } })

/-- The LDX slot by its opcode (Table 3-9). -/
def planLdx (ic : IC) (w : Nat) : Plan :=
  match fld w 63 58 with
  | 0x00 => planLdxNop ic w
  | 0x01 => planLdxLd ic w
  | 0x02 => planLdt ic w
  | 0x03 => planLdk ic w
  | 0x04 => planFget ic w
  | _ => .skip 0x01 none none

/-! ### STX -/

/-- Lines of an STX slot. -/
def stxLines (w : Nat) : Nat := fld w 40 31 + 1

/-- The checks every STX transfer shares. -/
def stxChecks (w : Nat) (fmtUsed peerUsed : Bool) : List (Bool × Nat) :=
  [((!fmtUsed && fld w 30 24 != 0) || (!peerUsed && fld w 23 10 != 0) || fld w 4 0 != 0, 0x02), (slotOff 4, 0x04)]

/-- NOP: bits 57:0 reserved. -/
def planStxNop (_ : IC) (w : Nat) : Plan := planOf [(fld w 57 0 != 0, 0x02), (slotOff 4, 0x04)] none {}

/-- Start a store: its lines are read from cycle issue + 1 (R73). -/
def startStore (b : Body) (i : Ins) (op : StoreOp) : Body :=
  modPanel b (insKey b i) fun p => { p with store := p.store ++ [op] }

/-- A store operation before its first read. -/
def newStore (i : Ins) (tok tags : Nat) (kind : StKind) (o : ORef) (n : Nat) (space space2 : List Seg) (ceil : Bool)
    (key : BitVec 64) : StoreOp :=
  { ins := i, tok := tok, tags := tags, kind := kind, line := o.line, exp := o.exp, n := n, addr := 0, stride := 0,
    space := space, space2 := space2, ceil := ceil, key := key, read := 0, raw := [], outE := [], outS := [], out := [] }

/-- ST. -/
def planStxSt (ic : IC) (w : Nat) : Plan :=
  let o := oref ic (fld w 52 45)
  let n := stxLines w
  let x := ic.t.sreg (fld w 57 53)
  let y := ic.t.sreg (fld w 9 5)
  planVal (stxChecks w false false ++ lineChecks ic o.line n) (x.poison || y.poison) [] (some (ldxTok w))
    { tags := tagsFor (64 * n), tok := some (ldxTok w), run := fun i b =>
        withSegs b i true (rowRanges n 64 x.val.toNat (strideOf (fld w 9 5) y 1024)) fun s =>
          startStore b i (newStore i (ldxTok w) (tagsFor (64 * n)) .st o n s [] false 0) }

/-- Bytes of 16 elements (one source line) in a target of STC, and scale bytes for `n` lines (Table 5-2, R119). -/
def stcBytes (t : Target) (n : Nat) : Nat × Nat := (2 * t.bits * n, if t.isMx then n / 2 else 0)

/-- The feature bit of a conversion target (Table 5-2). -/
def targetOff (code : Nat) : Bool :=
  (decide (3 ≤ code ∧ code ≤ 6) && featOff 8) || (decide (7 ≤ code ∧ code ≤ 0xC) && featOff 9) ||
    (code == 0xD && featOff 10) || (code == 0xE && featOff 14)

/-- A converting store from its element bytes a line, element bytes and scale bytes. -/
def convStore (ic : IC) (w : Nat) (kind : StKind) (rs : List (Nat × Nat)) (rs2 : List (Nat × Nat)) (nb : Nat) : Act :=
  let o := oref ic (fld w 52 45)
  { tags := tagsFor nb, tok := some (ldxTok w), run := fun i b =>
      withSegs2 b i true rs rs2 fun s s2 =>
        startStore b i (newStore i (ldxTok w) (tagsFor nb) kind o (stxLines w) s s2 ic.c.num.mxIn (insKey64 ic.c 2 i)) }

/-- STC (R119). -/
def planStc (ic : IC) (w : Nat) : Plan :=
  let o := oref ic (fld w 52 45)
  let n := stxLines w
  let code := fld w 30 27
  let t := (Target.ofCode code).getD (.flt fB32 .inf)
  let a := fld w 57 53
  let x := ic.t.sreg a
  let x2 := ic.t.sreg (a + 1)
  let y := ic.t.sreg (fld w 9 5)
  let rnd := fld w 26 24
  let per := 2 * t.bits
  let bad := code == 0xF || decide (5 ≤ rnd) || ((t.isMx || code == 0xE) && n % 2 != 0) || (t.isMx && a == 31)
  let (ne, ns) := stcBytes t n
  planVal (stxChecks w true false ++ [(bad, 0x02), (targetOff code || (rnd == 4 && featOff 7), 0x04)] ++
      lineChecks ic o.line n) (x.poison || y.poison || (t.isMx && x2.poison)) [] (some (ldxTok w))
    (convStore ic w (.stc code rnd) (rowRanges n per x.val.toNat (strideOf (fld w 9 5) y (16 * per)))
      (if t.isMx then [(x2.val.toNat, ns)] else []) (ne + ns))

/-- Memory-side bytes of one source line of STK; the variable-length codes count 576 a segment of 32 lines (R169 to R171). -/
def stkPer (code : Nat) : Nat :=
  match code with
  | 0 => 64
  | 5 | 6 => 2
  | 7 | 8 => 18
  | _ => 16

/-- STK (R169). -/
def planStk (ic : IC) (w : Nat) : Plan :=
  let o := oref ic (fld w 52 45)
  let n := stxLines w
  let code := fld w 30 27
  let a := fld w 57 53
  let x := ic.t.sreg a
  let x2 := ic.t.sreg (a + 1)
  let y := ic.t.sreg (fld w 9 5)
  let rnd := fld w 26 24
  let mx := decide (code = 3 ∨ code = 4)
  let seg := decide (code = 7 ∨ code = 8)
  let rndOk := rnd == 0 || (rnd == 4 && (decide (1 ≤ code ∧ code ≤ 4) || seg))
  let bad := decide (9 ≤ code) || !rndOk || (mx && n % 2 != 0) || (seg && (n % 32 != 0 || fld w 9 5 != 0)) ||
    ((mx || seg) && a == 31)
  let per := stkPer code
  let ns := if mx then n / 2 else if seg then 8 else 0
  planVal (stxChecks w true false ++ [(bad, 0x02), (keepOff code || (rnd == 4 && featOff 7), 0x04)] ++
      lineChecks ic o.line n) (x.poison || y.poison || ((mx || seg) && x2.poison)) [] (some (ldxTok w))
    (convStore ic w (.stk code rnd)
      (if seg then [(x.val.toNat, per * n)] else rowRanges n per x.val.toNat (strideOf (fld w 9 5) y (16 * per)))
      (if mx || seg then [(x2.val.toNat, ns)] else []) (per * n + ns))

/-- Is transport version 3 what the context pinned (R238)? -/
def transport3 (c : Ctx) : Bool := decide (3 ≤ c.id.trn)

/-- FPUT (R231); to a group entry it needs transport version 3 (R238). -/
def planFput (ic : IC) (w : Nat) : Plan :=
  let o := oref ic (fld w 52 45)
  let n := stxLines w
  let x := ic.t.sreg (fld w 57 53)
  let y := ic.t.sreg (fld w 9 5)
  let ent := peerEntry ic.c (fld w 23 10)
  let grp := (ent.map entryGroup).getD false
  planVal (stxChecks w false true ++ [(featOff 15 || (grp && !transport3 ic.c), 0x04), (ent.isNone, 0x11)] ++
      lineChecks ic o.line n) (x.poison || y.poison) [] (some (ldxTok w))
    { tags := tagsFor (64 * n), tok := some (ldxTok w), run := fun i b =>
        startStore b i { newStore i (ldxTok w) (tagsFor (64 * n)) (.fput (ent.getD 0).toNat) o n [] [] false 0 with
          addr := x.val.toNat, stride := strideOf (fld w 9 5) y 1024 } }

/-- The STX slot by its opcode (Table 3-10). -/
def planStx (ic : IC) (w : Nat) : Plan :=
  match fld w 63 58 with
  | 0x00 => planStxNop ic w
  | 0x01 => planStxSt ic w
  | 0x02 => planStc ic w
  | 0x03 => planStk ic w
  | 0x04 => planFput ic w
  | _ => .skip 0x01 none none

/-! ### IFILL (R86) -/

/-- IFILL: the entry is invalid from issue until its token counts down; together the entries fit the thread's share. -/
def planIfill (ic : IC) (w : Nat) : Plan :=
  let n := fld w 20 11 + 1
  let en := fld w 6 5
  let x := ic.t.sreg (fld w 25 21)
  let others := (((List.range 4).filter (· != en)).map fun q => (fget ic.t.ient q).len).sum
  planVal [(fld w 4 0 != 0, 0x02), (slotOff 5, 0x04), (decide (ic.t.ishare * 1024 < others + 64 * n), 0x10)] x.poison []
    (some (fld w 10 7))
    { tags := tagsFor (64 * n), tok := some (fld w 10 7), run := fun i b =>
        withSegs b i false [(x.val.toNat, 64 * n)] fun s =>
          modPanel b (insKey b i) fun p =>
            let p := p.modThread i.th fun t =>
              { t with ient := fset t.ient en ⟨false, x.val.toNat, 64 * n, List.replicate (64 * n) 0, [], []⟩ }
            let todo := ((cutSegs n s 64).zip (List.range n)).map fun z => (⟨0, z.2, z.1, [], [z.2 / 4]⟩ : LdLine)
            { p with load := p.load ++
                [⟨i, fld w 10 7, tagsFor (64 * n), .ifill en, x.val.toNat, todo, [], [], 0, false, []⟩] } }

end Sys2Proof.Machine
end

