-- ==== Sys2Proof/Machine/Sync.lean ====
section
/-! DEFINITION. The SYN slot (R75 to R80, R53, R240): one plan per opcode. -/

namespace Sys2Proof.Machine

/-- The checks of a SYN slot whose bits `hi` to 0 are reserved. -/
def synChecks (w hi : Nat) (bad : Bool) : List (Bool × Nat) := [(fld w hi 0 != 0 || bad, 0x02), (slotOff 5, 0x04)]

/-- NOP. -/
def planSynNop (_ : IC) (w : Nat) : Plan := planOf (synChecks w 25 false) none {}
/-- WAIT: token `TOK` ≤ `N`. -/
def planWait (_ : IC) (w : Nat) : Plan :=
  planOf (synChecks w 11 false) none { wait := some (.tok (fld w 25 22) (fld w 21 12)) }
/-- WAITM: every token of `MASK` is 0. -/
def planWaitm (_ : IC) (w : Nat) : Plan := planOf (synChecks w 9 false) none { wait := some (.tokMask (fld w 25 10)) }
/-- EVSET. -/
def planEvset (ic : IC) (w : Nat) : Plan :=
  planOf (synChecks w 19 false) none (effect fun i b => queueEvents b i.slot (some ic.k) (evMask (fld w 25 20)) 0)
/-- EVCLR. -/
def planEvclr (ic : IC) (w : Nat) : Plan :=
  planOf (synChecks w 19 false) none (effect fun i b => queueEvents b i.slot (some ic.k) 0 (evMask (fld w 25 20)))
/-- EVWAIT. -/
def planEvwait (_ : IC) (w : Nat) : Plan := planOf (synChecks w 19 false) none { wait := some (.ev (fld w 25 20)) }
/-- EVWAITC. -/
def planEvwaitc (_ : IC) (w : Nat) : Plan := planOf (synChecks w 19 false) none { wait := some (.evClear (fld w 25 20)) }

/-- S of R78: the open step, or the last closed step plus 1. -/
def sealBase (c : Ctx) : Nat := c.led.openStep.getD (c.led.lastClosed + 1)

/-- SEALWAIT: `K` 0 reserved. The step waited for is fixed at issue. -/
def planSealwait (ic : IC) (w : Nat) : Plan :=
  planOf (synChecks w 23 (fld w 25 24 == 0)) none { wait := some (.seal (sealBase ic.c - fld w 25 24)) }

/-- FENCE_COPY: a poisoned base or length faults as an address does (R44). -/
def planFenceCopy (ic : IC) (w : Nat) : Plan :=
  let x := ic.t.sreg (fld w 25 21)
  let y := ic.t.sreg (fld w 20 16)
  planVal (synChecks w 15 false) (x.poison || y.poison) [] none { wait := some (.fence x.val.toNat y.val.toNat) }

/-- ROTATE. -/
def planRotate (_ : IC) (w : Nat) : Plan := planOf (synChecks w 25 false) none { wait := some .rotate }

/-- TESTOVF: the open step's flag as this panel sees it (R138); with no step open, 0 (R80). -/
def planTestovf (ic : IC) (w : Nat) : Plan :=
  let v := ic.c.led.openStep.isSome && ic.c.num.flagSeen ic.k ic.cyc
  planOf (synChecks w 22 false) none
    (effect fun i b => pushRes i (.p (fld w 25 23)) (BitVec.ofNat 64 (b2n v)) false 1 b)

/-- TESTTOK. -/
def planTesttok (ic : IC) (w : Nat) : Plan :=
  let v := ic.t.token (fld w 22 19) == 0
  planOf (synChecks w 18 false) none
    (effect fun i b => pushRes i (.p (fld w 25 23)) (BitVec.ofNat 64 (b2n v)) false 1 b)

/-- PHASE. -/
def planPhase (ic : IC) (w : Nat) : Plan :=
  planOf (synChecks w 17 false) none
    { wait := some (.phase (stepNum ic.c) (fld w 25 18)), run := fun i b => phaseIssue b i.slot (fld w 25 18) }

/-- The SYN slot by its opcode (Table 3-11). -/
def planSyn (ic : IC) (w : Nat) : Plan :=
  match fld w 31 26 with
  | 0x00 => planSynNop ic w
  | 0x01 => planWait ic w
  | 0x02 => planWaitm ic w
  | 0x04 => planEvset ic w
  | 0x05 => planEvclr ic w
  | 0x06 => planEvwait ic w
  | 0x07 => planEvwaitc ic w
  | 0x08 => planSealwait ic w
  | 0x09 => planFenceCopy ic w
  | 0x0A => planRotate ic w
  | 0x0C => planTestovf ic w
  | 0x0D => planTesttok ic w
  | 0x0E => planPhase ic w
  | 0x10 => planIfill ic w
  | _ => .skip 0x01 none none

end Sys2Proof.Machine
end

