-- ==== Sys2Proof/Machine/Trowel.lean ====
section
/-! DEFINITION. Trowel (spec 04): operand formats and layout (R94 to R98), LOADW and PASS (R99 to R104), group sums and the
summation procedure (R106, R107), the drain (R105) and the checksum strip (R109 to R112), cycle by cycle. -/

namespace Sys2Proof.Machine

/-! ### Formats (Table 4-1) -/

/-- The class of a format code: 0 F16, 1 F8, 2 MI8, 3 I8, 4 F4, 5 F32. -/
def twClass (f : Nat) : Nat :=
  if f < 2 then 0 else if f < 8 then 1 else if f = 8 then 2 else if f = 9 then 3 else if f = 0xA then 4 else 5

/-- Depth K of a class. -/
def twK (cls : Nat) : Nat := if cls = 0 ∨ cls = 5 then 512 else if cls = 4 then 2048 else 1024

/-- C cycles a row. -/
def twC (cls : Nat) : Nat := if cls = 5 then 4 else 1

/-- Bank rows a row. -/
def twL (cls : Nat) : Nat := if cls = 5 then 2 else 1

/-- Does the format carry block scales? -/
def twMx (f : Nat) : Bool := (decide (4 ≤ f) && decide (f ≤ 8)) || f == 0xA

/-- Bits of one element. -/
def twBits (f : Nat) : Nat := if f < 2 then 16 else if f = 6 ∨ f = 7 then 6 else if f = 0xA then 4 else if f = 0xB then 32 else 8

/-- Is the format's feature bit absent? -/
def twOff (f : Nat) : Bool :=
  (decide (f = 2 ∨ f = 3) && featOff 8) || (twMx f && featOff 9) || (f == 9 && featOff 10) || (f == 0xB && featOff 11)

/-- The data lines of row (or column) `r` of an operand whose first line is `l` (R96). -/
def twLines (f l r : Nat) : List Nat :=
  let g := l / 16 % 8
  let row := l / 128
  if f = 0xB then
    (List.range 32).map fun x => lineAt (row + 2 * r + x / 16) g (x % 16)
  else (List.range (if f = 6 ∨ f = 7 then 12 else 16)).map fun x => lineAt (row + r) g x

/-- The scale line of row `r`. -/
def twScaleLine (l r : Nat) : Nat := lineAt (l / 128 + r / 16) ((l / 16 + 1) % 8) (r % 16)

/-- The banks an operand of `n` rows uses. -/
def twBanks (f l n : Nat) : List Nat :=
  let g := l / 16 % 8
  (span (16 * g) (if f = 6 ∨ f = 7 then 12 else 16)) ++
    (if twMx f then span (16 * ((g + 1) % 8)) (min n 16) else [])

/-- The checks of an operand (R95, R98). -/
def twChecks (ic : IC) (f l n : Nat) : List (Bool × Nat) :=
  [(l % 16 != 0 || decide (0xC ≤ f), 0x02), (twOff f, 0x04), (foreign ic (twBanks f l n), 0x05),
   (inSealed ic (twBanks f l n), 0x06), (decide (1024 < l / 128 + n * twL (twClass f)), 0x10)]

/-- The decoded elements of a row: for INT8 the plain integers, else in units of 2 ^ -149 (R96, R116). -/
def twVals (f raw scale : Nat) : List FV :=
  let cls := twClass f
  let bits := twBits f
  (List.range (twK cls)).map fun k =>
    let w := (raw >>> (bits * k)) % 2 ^ bits
    let s := (scale >>> (8 * (k / 32))) % 256
    if twMx f && s == 0xFF then .nan
    else
      let sc : Int := (s : Int) - 127
      match f with
      | 0x0 => decodeF fBF16 0 w
      | 0x1 => decodeF fB16 0 w
      | 0x2 => decodeF fE4M3 0 w
      | 0x3 => decodeF fE5M2 0 w
      | 0x4 => decodeF fE4M3 sc w
      | 0x5 => decodeF fE5M2 sc w
      | 0x6 => decodeF fE3M2 sc w
      | 0x7 => decodeF fE2M3 sc w
      | 0x8 => decodeMxInt8 sc w
      | 0x9 => if sext 8 w = 0 then .zero false else .fin (sext 8 w)
      | 0xA => decodeF fE2M1 sc w
      | _ => decodeF fB32 0 w

/-! ### Group sums (R106) -/

/-- One product: special value, or integer with the sign of a zero. -/
def gProd (a w : FV) : GSum :=
  match a, w with
  | .nan, _ => .nan
  | _, .nan => .nan
  | .inf s, y => match y with
    | .zero _ => .nan
    | y => .inf (s != y.neg)
  | x, .inf s => match x with
    | .zero _ => .nan
    | x => .inf (x.neg != s)
  | x, y => let i := x.int * y.int; .val i (i == 0 && (x.neg != y.neg))

/-- The sum of two group values: `nz` stays true only while every product is −0. -/
def gPlus : GSum → GSum → GSum
  | .nan, _ => .nan
  | _, .nan => .nan
  | .inf s, .inf t => if s = t then .inf s else .nan
  | .inf s, .val _ _ => .inf s
  | .val _ _, .inf s => .inf s
  | .val i a, .val j c => .val (i + j) (a && c)

/-- The sum of a nonempty list of products; zero is −0 only when every product is −0. -/
def gSum : List GSum → GSum
  | [] => .val 0 false
  | x :: xs =>
    match xs.foldl gPlus x with
    | .val i nz => .val i (i == 0 && nz)
    | y => y

/-- Cut a list into groups of `n`. -/
def chunksOf {α : Type} : Nat → Nat → List α → List (List α)
  | 0, _, _ => []
  | k + 1, n, l => if l.isEmpty then [] else l.take n :: chunksOf k n (l.drop n)

/-- The group sums of one streamed row against one column. -/
def groupSums (n : Nat) (a w : List FV) : List GSum :=
  (chunksOf a.length n ((a.zip w).map fun x => gProd x.1 x.2)).map gSum

/-! ### The summation procedure (R107) -/

/-- A group sum before its rounding. -/
def GSum.toX (u : Int) : GSum → XV
  | .nan => .nan
  | .inf s => .inf s
  | .val i nz => XV.ofInt i u nz

/-- The exact sum of stored binary32 values and a group sum, in units of 2 ^ -298; an exact zero takes the sign its terms
share, else that of a cancellation in the mode (R122). -/
def exactSum (r : Rnd) (ss : List FV) (g : Option GSum) : XV :=
  let gs := (ss.map fun s => match s with
    | .nan => GSum.nan
    | .inf n => .inf n
    | .zero n => .val 0 n
    | .fin n => .val (n * (2 ^ 149 : Nat)) false) ++ g.toList
  let zeros := gs.map fun x => match x with
    | .val 0 n => some n
    | _ => none
  match gs.foldl gPlus (.val 0 true) with
  | .val i _ =>
    let z := if zeros.all (· == some true) then true else if zeros.all (· == some false) then false else r == .rd
    XV.ofInt i (-298) z
  | x => x.toX (-298)

/-- The generator index of an element (Table 4-5). -/
def twIdx (site row col g : Nat) : Nat := site * 2 ^ 26 + row % 1024 * 2 ^ 16 + col * 2 ^ 9 + g

/-- A stored partial sum: one word, or high and low words. -/
structure PSum where
  hi : Nat
  lo : Nat
  deriving DecidableEq, Repr

/-- One group addition to an INT32 sum, clamped. -/
def addI8 (s : Int) (g : GSum) : Int :=
  let v := s + (match g with | .val i _ => i | _ => 0)
  if v > 2147483647 then 2147483647 else if v < -2147483648 then -2147483648 else v

/-- The update of one element (R107); `old` is none for OVERWRITE. -/
def twElem (cls : Nat) (pair : Bool) (r : Rnd) (key : BitVec 64) (row col : Nat) (old : Option PSum) (gs : List GSum) : PSum :=
  if cls = 3 then
    let s0 : Int := match old with | some p => sext 32 p.hi | none => 0
    ⟨wrapInt 32 (gs.foldl addI8 s0), 0⟩
  else
    let u (site g : Nat) : Nat := if r = .sr then srBits key (twIdx site row col g) 0 else 0
    let step (acc : Option PSum) (g : GSum × Nat) : Option PSum :=
      if pair then
        let terms := match acc with
          | some p => if (dec32 p.hi).isFin then [dec32 p.hi, dec32 p.lo] else [dec32 p.hi]
          | none => []
        let v := exactSum .rne terms (some g.1)
        let hi := rne32 v
        match v, dec32 hi with
        | .fin neg m e st, h =>
          if h.isFin then
            -- the exact residual v − hi, in units of 2 ^ -298
            let vi : Int := (if neg then -1 else 1) * ((m <<< (e + 298).toNat : Nat) : Int)
            let d := vi - h.int * (2 ^ 149 : Nat)
            let _ := st
            some ⟨hi, (rnd32 r (u 1 g.2) (XV.ofInt d (-298) (r == .rd))).1⟩
          else some ⟨hi, 0⟩
        | .zero _, _ => some ⟨hi, (rnd32 r (u 1 g.2) (.zero (r == .rd))).1⟩
        | _, _ => some ⟨hi, 0⟩
      else
        let terms := match acc with | some p => [dec32 p.hi] | none => []
        some ⟨(rnd32 r (u 0 g.2) (exactSum r terms (some g.1))).1, 0⟩
    ((gs.zip (List.range gs.length)).foldl step old).getD ⟨0, 0⟩

/-- The value the drain delivers for one element, and its event (R105, R135). -/
def twDrain (cls : Nat) (pair : Bool) (r : Rnd) (key : BitVec 64) (row col : Nat) (p : PSum) : Nat × Option NumEv :=
  if cls = 3 then (p.hi, if p.hi = 0x7FFFFFFF ∨ p.hi = 0x80000000 then some .sat else none)
  else
    let (v, ev) := if pair then
        let u := if r = .sr then srBits key (twIdx 2 row col 0) 0 else 0
        rnd32 r u (exactSum r (if (dec32 p.hi).isFin then [dec32 p.hi, dec32 p.lo] else [dec32 p.hi]) none)
      else (p.hi, none)
    (v, match dec32 v with
      | .inf _ => some .ovf
      | .nan => some .nan
      | _ => if ev = some .unf then some .unf else none)

/-! ### The checksum strip (R109 to R112) -/

/-- Columns of the array. -/
def twCols : Nat := 128

/-- One strip column from the exact sums, rounded to binary32 except for INT8; none when one is infinite. -/
def stripCol (cls : Nat) (xs : List Int) : List Int × Bool :=
  if cls = 3 then (xs, false)
  else
    let rs := xs.map fun i => dec32 (rne32 (XV.ofInt i (-149) false))
    (rs.map (·.int), rs.any fun v => !v.isFin)

/-- The three strip columns of a tile given by its decoded columns, and whether the set is strip-invalid. -/
def stripOf (cls : Nat) (cols : List (List FV)) : List Int × List Int × List Int × Bool :=
  let k := twK cls
  let zero := List.replicate k (0 : Int)
  let ints := cols.map fun c => c.map (·.int)
  let p := ints.foldl (List.zipWith (· + ·)) zero
  let w := (ints.zip (List.range ints.length)).foldl
    (fun acc c => List.zipWith (fun x (y : Int) => x + ((c.2 + 1 : Nat) : Int) * y) acc c.1) zero
  let m := ints.foldl (List.zipWith fun x (y : Int) => x + (y.natAbs : Int)) zero
  let (cp, b1) := stripCol cls p
  let (cw, b2) := stripCol cls w
  let (cm, b3) := stripCol cls m
  (cp, cw, cm, b1 || b2 || b3 || cols.any fun c => c.any fun v => !v.isFin)

/-- A quotient rounded to the nearest integer, ties toward zero. -/
def roundDiv (a b : Int) : Int :=
  let n := a.natAbs
  let d := b.natAbs
  let q : Int := ((2 * n + d - 1) / (2 * d) : Nat)
  if (a < 0) = (b < 0) then q else -q

/-- The comparison of one row (R110 to R112): none when no comparison is made, else the two failures and the column. -/
def stripCheck (cls : Nat) (x : Latch) (a : List FV) (poison : Bool) (sums : List (List GSum)) : Option (Bool × Bool × Nat) :=
  let flat (g : GSum) : Option Int := match g with | .val i _ => some i | _ => none
  if poison || x.bad || sums.any (fun c => c.any fun g => (flat g).isNone) then none
  else
    let cs := sums.map fun c => (c.map fun g => (flat g).getD 0).foldl (· + ·) 0
    let s := cs.foldl (· + ·) 0
    let sw := (cs.zip (List.range cs.length)).foldl (fun acc y => acc + ((y.2 + 1 : Nat) : Int) * y.1) 0
    let dot (c : List Int) (f : Int → Int) : Int := ((a.zip c).map fun y => f y.1.int * y.2).foldl (· + ·) 0
    let p := dot x.cp id
    let q := dot x.cw id
    let m := dot x.cm fun i => (i.natAbs : Int)
    let plain := if cls = 3 then s != p else decide (((s - p).natAbs : Int) * 2 ^ 22 > m)
    let wt := if cls = 3 then sw != q else decide (((sw - q).natAbs : Int) * 2 ^ 15 > m)
    let col := if plain then
        let j := roundDiv (sw - q) (s - p) - 1
        if 0 ≤ j ∧ j ≤ 127 then j.toNat else 0xFF
      else 0xFF
    some (plain, wt, col)

/-- The pattern signature of a streamed row and a tile (R333). -/
def patSig (f : Nat) (a : List FV) (cols : List (List FV)) (raws : List Nat) : Nat :=
  let xs := a ++ cols.flatten
  let zeros := (xs.filter fun v => v.int == 0).length
  let exps := (xs.filter fun v => v.int != 0).map fun v => Nat.log2 v.int.natAbs
  let spanE := match exps with
    | [] => 0
    | e :: es => es.foldl max e - es.foldl min e
  let width := twBits f * twK (twClass f)
  let tog := ((raws.zip (raws.drop 1)).map fun p => popCount width (p.1 ^^^ p.2)).foldl (· + ·) 0
  min 15 (16 * zeros / max 1 xs.length) * 4096 + min 15 (spanE / 8) * 256 +
    min 15 (16 * tog / max 1 (width * (raws.length - 1))) * 16

/-! ### LOADW -/

/-- NOP: bits 57:0 reserved. -/
def planMatNop (_ : IC) (w : Nat) : Plan := planOf [(fld w 57 0 != 0, 0x02), (slotOff 2, 0x04)] none {}

/-- Must a LOADW not start (R101)? -/
def loadwBusy (p : Panel) (c lat : Nat) : Bool :=
  !p.loadw.isEmpty || p.pass.any fun x => x.lat == lat && decide (c < x.ins.issue + x.c * x.n + 2)

/-- LOADW (R99, R101). -/
def planLoadw (ic : IC) (w : Nat) : Plan :=
  let o := oref ic (fld w 57 50)
  let f := fld w 48 45
  let lat := fld w 49 49
  planOf ([(fld w 44 0 != 0, 0x02), (slotOff 2, 0x04), (ic.p.seq.trowel != some ic.slot, 0x05)] ++ twChecks ic f o.line 128) none
    (effect fun i b =>
      if loadwBusy ic.p ic.cyc lat then noteOverlap ic.e b i
      else modPanel b (insKey b i) fun p =>
        { p with
          loadw := [⟨i, lat, f, o.line, o.exp, [], 0, false⟩]
          latch := fmod p.latch lat fun x => { x with fmt := some f, load := i.issue } })

/-- The reads of a LOADW in cycle `c`: one column, or one bank row of it (R99). -/
def loadwReads (c : Nat) (x : LoadwOp) : List RReq :=
  let l := twL (twClass x.fmt)
  let d := c - x.ins.issue
  let lines := twLines x.fmt x.line (d / l)
  let part := if l = 2 then (lines.drop (16 * (d % 2))).take 16 else lines
  (part ++ (if twMx x.fmt then [twScaleLine x.line d] else [])).map fun n => { prio := 0, line := n, exp := x.exp, ins := x.ins }

/-- What the loader does with the lines read in cycle `c`: the column is written at the end of its last read, the strip
columns at the end of the last cycle (R99, R109). -/
def loadwStep (c : Nat) (g : List RGot) (p : Panel) (x : LoadwOp) : Panel :=
  let cls := twClass x.fmt
  let l := twL cls
  let d := c - x.ins.issue
  let j := d / l
  let lines := twLines x.fmt x.line j
  let part := if l = 2 then (lines.drop (16 * (d % 2))).take 16 else lines
  let (v, q) := gotLines g 0 x.ins.uid part
  let (sv, sq) := if twMx x.fmt then gotLines g 0 x.ins.uid [twScaleLine x.line d] else (0, false)
  let x := { x with raw := x.raw ++ [v], poison := x.poison || q || sq }
  if d % l ≠ l - 1 then { p with loadw := [x] }
  else
    let raw := x.raw.foldr (fun y acc => y + acc * 2 ^ 8192) 0
    let p := { p with latch := fmod p.latch x.lat fun t => { t with col := fset t.col j ⟨x.fmt, raw, sv, x.poison⟩ } }
    if j < 127 then { p with loadw := [{ x with raw := [], poison := false }] }
    else
      let t := fget p.latch x.lat
      let cols := (List.range twCols).map fun n => let y := fget t.col n; twVals x.fmt y.raw y.scale
      let (cp, cw, cm, bad) := stripOf cls cols
      { p with loadw := [], latch := fset p.latch x.lat { t with cp := cp, cw := cw, cm := cm, bad := bad } }

/-! ### PASS -/

/-- The region lines of row `r` (R97). -/
def psLines (pair : Bool) (l r : Nat) : List Nat :=
  let g := l / 16 % 8
  if pair then (List.range 16).map fun x => lineAt (l / 128 + r) g x
  else (List.range 8).map fun x => lineAt (l / 128 + r / 2) g (8 * (r % 2) + x)

/-- Bank rows of a region of `n` rows. -/
def psRows (pair : Bool) (n : Nat) : Nat := if pair then n else ceilDiv n 2

/-- The cycle of a pass's last region write, E of R102. -/
def PassOp.endCyc (x : PassOp) : Nat := x.ins.issue + 13 + x.c * x.n

/-- Is the latch set ready for a pass issued in cycle `c` (R100)? -/
def Latch.ready (x : Latch) (c : Nat) : Bool :=
  match x.fmt with
  | none => false
  | some f => decide (x.load + 125 * twL (twClass f) ≤ c)

/-- Must a PASS not start (R103)? -/
def passBusy (p : Panel) (c lat n cc : Nat) (drain : Bool) : Bool :=
  p.pass.any (fun x => decide (c < x.ins.issue + x.c * x.n)) || !(fget p.latch lat).ready c ||
    (drain && p.pass.any fun x => x.drain && decide (c + 13 + cc * n + 1 ≤ x.endCyc + x.n))

/-- The hazards of an ADD pass's region at issue (R102): per kind, the lines; and the rows they poison. -/
def psIssueHaz (b : Body) (k slot : Nat) (pair : Bool) (o : ORef) (n : Nat) : List (Nat × HazLine) × List Nat :=
  let p := panelAt b k
  let mode := (ctxAt b slot).set.stampMode
  let hs := (List.range n).flatMap fun r => (psLines pair o.line r).filterMap fun l =>
    let x := fget p.line l
    (readHazard mode false false x o.exp).map fun kind =>
      (r, kind, (⟨l, o.exp, x.stamp.toNat, !x.pend.isEmpty, x.poison⟩ : HazLine))
  (hs.map fun h => h.2, (hs.map (·.1)).eraseDups)

/-- PASS (R102 to R104). -/
def planPass (ic : IC) (w : Nat) : Plan :=
  let acc := bit w 57
  let drain := bit w 56
  let pair := bit w 55
  let grp := fld w 54 53
  let f := fld w 52 49
  let rnd := fld w 48 46
  let st := oref ic (fld w 45 38)
  let ps := oref ic (fld w 37 30)
  let hod := fld w 29 26
  let n := fld w 25 16 + 1
  let lat := fld w 15 15
  let cls := twClass f
  let t := fget ic.p.latch lat
  let pg := ps.line / 16 % 8
  let pbanks := if pair then span (16 * pg) 16 else span (16 * pg) (if n = 1 then 8 else 16)
  planOf
    ([(fld w 14 0 != 0 || grp == 3 || decide (5 ≤ rnd) || (hod != 0xF && !drain) || (cls == 3 && (pair || rnd != 0)) ||
        ps.line % 16 != 0 || (match t.fmt with | some g => twClass g != cls | none => false), 0x02),
      (slotOff 2 || (pair && featOff 6) || (rnd == 4 && featOff 7), 0x04),
      (ic.p.seq.trowel != some ic.slot || foreign ic pbanks, 0x05),
      ((drain && (decide (128 < n) || decide (Config.hodDepth ≤ hod))) || !fget ic.p.seq.sealed pg ||
        decide (1024 < ps.line / 128 + psRows pair n), 0x10)] ++ twChecks ic f st.line n) none
    (effect fun i b =>
      if passBusy ic.p ic.cyc lat n (twC cls) drain then noteOverlap ic.e b i
      else
        let (hz, bad) := if acc then psIssueHaz ic.b ic.k ic.slot pair ps n else ([], [])
        let b := noteHaz ic.e (noteHaz ic.e b i 1 ((hz.filter (·.1 == 1)).map (·.2))) i 2 ((hz.filter (·.1 == 2)).map (·.2))
        let op : PassOp :=
          { ins := i, n := n, c := twC cls, acc := acc, drain := drain, pair := pair, grp := 4 * 2 ^ grp, fmt := f, rnd := rnd,
            strm := st.line, strmExp := st.exp, psum := ps.line, badRows := bad, hod := hod, lat := lat,
            key := insKey64 ic.c 0 i, cap := [], sums := [] }
        modPanel b (insKey b i) fun p =>
          { p.pend i ((List.range n).flatMap (psLines pair ps.line)) with pass := p.pass ++ [op] })

/-- The streamed row and quarter read in cycle `c`, if any. -/
def PassOp.streamAt (x : PassOp) (c : Nat) : Option (Nat × Nat) :=
  if x.ins.issue + 2 ≤ c ∧ c < x.ins.issue + 2 + x.c * x.n then
    some ((c - x.ins.issue - 2) / x.c, (c - x.ins.issue - 2) % x.c)
  else none

/-- The row whose event at `t_r + k` falls in cycle `c`, if any. -/
def PassOp.rowAt (x : PassOp) (k c : Nat) : Option Nat :=
  let b := x.ins.issue + 2 + (x.c - 1) + k
  if b ≤ c ∧ (c - b) % x.c = 0 ∧ (c - b) / x.c < x.n then some ((c - b) / x.c) else none

/-- The region row the drain reads in cycle `c`, if any. -/
def PassOp.drainAt (x : PassOp) (c : Nat) : Option Nat :=
  if x.drain ∧ x.endCyc + 1 ≤ c ∧ c < x.endCyc + 1 + x.n then some (c - x.endCyc - 1) else none

/-- The lines of row `r` read in quarter `q`. -/
def PassOp.streamLines (x : PassOp) (r q : Nat) : List Nat :=
  let l := twLines x.fmt x.strm r
  if x.c = 4 then (l.drop (8 * q)).take 8 else l

/-- The reads of a pass in cycle `c` (Table 4-4). -/
def passReads (c : Nat) (x : PassOp) : List RReq :=
  (match x.streamAt c with
    | some (r, q) => (x.streamLines r q ++ (if twMx x.fmt then [twScaleLine x.strm r] else [])).map fun l =>
        { prio := 1, line := l, exp := x.strmExp, ins := x.ins }
    | none => []) ++
  (match if x.acc then x.rowAt 2 c else none with
    | some r => (psLines x.pair x.psum r).map fun l => { prio := 2, line := l, exp := none, ins := x.ins, raw := true }
    | none => []) ++
  (match x.drainAt c with
    | some r => (psLines x.pair x.psum r).map fun l => { prio := 3, line := l, exp := none, ins := x.ins }
    | none => [])

/-- The 16 words of a delivered line. -/
def wordsOf (v : Nat) : List Nat := (List.range 16).map fun m => (v >>> (32 * m)) % 2 ^ 32

/-- The stored sums of a row from its delivered lines, and the poison of each of the 8 output lines. -/
def psRead (pair : Bool) (g : List RGot) (prio uid : Nat) (lines : List Nat) : List PSum × List Bool :=
  let one (l : Nat) : List Nat × Bool := match gotOf g prio uid l with
    | some r => (wordsOf r.data, r.poison)
    | none => (wordsOf 0, true)
  let hi := (lines.take 8).map one
  if pair then
    let lo := (lines.drop 8).map one
    (((hi.flatMap (·.1)).zip (lo.flatMap (·.1))).map fun x => ⟨x.1, x.2⟩, (hi.zip lo).map fun x => x.1.2 || x.2.2)
  else ((hi.flatMap (·.1)).map fun x => ⟨x, 0⟩, hi.map (·.2))

/-- A line of 16 words. -/
def lineOfWords (ws : List Nat) : BitVec 512 := BitVec.ofNat 512 (ws.foldr (fun w acc => w + acc * 2 ^ 32) 0)

/-- The streaming read of a pass in cycle `c`. -/
def passCapture (c : Nat) (g : List RGot) (x : PassOp) : PassOp :=
  match x.streamAt c with
  | none => x
  | some (r, q) =>
    let d := gotLines g 1 x.ins.uid (x.streamLines r q)
    let s : Nat × Bool := if twMx x.fmt then gotLines g 1 x.ins.uid [twScaleLine x.strm r] else (0, false)
    { x with cap := fmod x.cap r fun t => ⟨t.raw + d.1 * 2 ^ (4096 * q), s.1, t.poison || d.2 || s.2⟩ }

/-- The decoded columns of a latch set with their poison: a column keeps the format it was loaded in until the loader writes it
again (R101). -/
def Latch.columns (t : Latch) : List (List FV × Bool) :=
  (List.range twCols).map fun j => let y := fget t.col j; (twVals y.fmt y.raw y.scale, y.poison)

/-- The sample of the latch set for row `r` in t_r + 1: group sums, and what the strip comparison finds in t_r + 13. -/
def passSample (c : Nat) (t : Latch) (x : PassOp) (r : Nat) : PassOp × List Later :=
  let row := fget x.cap r
  let a := twVals x.fmt row.raw row.scale
  let cols := t.columns
  let sums : List ColSum := cols.map fun y => ⟨groupSums x.grp a y.1, row.poison || y.2⟩
  let ev : List LaterAct := match stripCheck (twClass x.fmt) t a (row.poison || cols.any (·.2)) (sums.map (·.g)) with
    | none => [.stripSkip]
    | some (pl, wt, col) =>
      if pl || wt then
        let sig := patSig x.fmt a (cols.map (·.1)) ((List.range twCols).map fun j => (fget t.col j).raw)
        [.strip r pl wt col x.psum sig (twClass x.fmt)]
      else []
  ({ x with sums := fset x.sums r sums, cap := fdel x.cap r }, ev.map fun v => ⟨c + 12, x.ins, v⟩)

/-- The update of region row `r`, read in t_r + 2 and written in t_r + 12 (R107). -/
def passUpdate (c : Nat) (g : List RGot) (x : PassOp) (r : Nat) : PassOp × List WReq :=
  let cs : List ColSum := fget x.sums r
  let lines := psLines x.pair x.psum r
  let old : List PSum × List Bool := if x.acc then psRead x.pair g 2 x.ins.uid lines else ([], [])
  let bad := x.badRows.contains r
  let els : List PSum := (cs.zip (List.range cs.length)).map fun y =>
    twElem (twClass x.fmt) x.pair (Rnd.ofCode x.rnd) x.key r y.2 (if x.acc then old.1[y.2]? else none) y.1.g
  let po (l : Nat) : Bool := ((cs.drop (16 * l)).take 16).any (fun y => y.poison) || bad || old.2.getD l false
  let wr (n line : Nat) (ws : List Nat) : WReq :=
    { cyc := c + 10, prio := 0, line := line, mask := BitVec.allOnes 64, data := lineOfWords ws, poison := po n,
      last := true, ins := x.ins }
  let ws := (List.range 8).flatMap fun l =>
    let e := (els.drop (16 * l)).take 16
    wr l (lines.getD l 0) (e.map fun y => y.hi) ::
      (if x.pair then [wr l (lines.getD (8 + l) 0) (e.map fun y => y.lo)] else [])
  ({ x with sums := fdel x.sums r }, ws)

/-- The drain of region row `r`: its values enter Hod in the next cycle, where their events are counted (R105, R136). -/
def passDrain (c : Nat) (g : List RGot) (x : PassOp) (r : Nat) : Later :=
  let old := psRead x.pair g 3 x.ins.uid (psLines x.pair x.psum r)
  let vs : List ((Nat × Option NumEv) × Nat) := (old.1.zip (List.range old.1.length)).map fun y =>
    (twDrain (twClass x.fmt) x.pair (Rnd.ofCode x.rnd) x.key r y.2 y.1, y.2)
  let cnt := (vs.filter fun y => !(old.2.getD (y.2 / 16) false)).foldl
    (fun (n : NumCounts) y => n.bump y.1.2) NumCounts.zero
  ⟨c + 1, x.ins, .hodRow x.hod r x.n (vs.map fun y => y.1.1) old.2 cnt⟩

/-- Is the pass over after cycle `c`? -/
def PassOp.ended (x : PassOp) (c : Nat) : Bool :=
  if x.drain then decide (x.endCyc + x.n ≤ c) else decide (x.endCyc ≤ c)

/-- One cycle of a pass (Table 4-3). -/
def passStep (c : Nat) (g : List RGot) (p : Panel) (x : PassOp) : Panel :=
  let y := passCapture c g x
  let y1 : PassOp × List Later := match x.rowAt 1 c with
    | some r => passSample c (fget p.latch x.lat) y r
    | none => (y, [])
  let y2 : PassOp × List WReq := match x.rowAt 2 c with
    | some r => passUpdate c g y1.1 r
    | none => (y1.1, [])
  let dr := match x.drainAt c with
    | some r => [passDrain c g x r]
    | none => []
  { p with
    later := p.later ++ y1.2 ++ dr
    wq := p.wq ++ y2.2
    pass := p.pass.filterMap fun z => if z.ins.uid = x.ins.uid then (if x.ended c then none else some y2.1) else some z }

/-- A drained row enters its Hod slot (R158, R159): a slot not EMPTY when row 0 enters is a collision. The chains that have made
their first Hod read no longer empty the slot (R160). -/
def hodEnter (e : Env) (b : Body) (k : Nat) (i : Ins) (hod r n : Nat) (vals : List Nat) (poison : List Bool) : Body :=
  let p := panelAt b k
  let h := fget p.hod hod
  let coll := r == 0 && h.st != 0
  let b := if coll then noteHaz e b i 7 [⟨128 * hod, none, 0, false, false⟩] else b
  let h := if r = 0 then { st := 1, coll := coll, rows := n, slot := i.slot, row := [] } else h
  let row : HodRow := ⟨vals, if h.coll then List.replicate 8 true else poison⟩
  let h := { h with row := fset h.row r row, st := if r + 1 = n then 2 else 1 }
  modPanel b k fun p =>
    { p with hod := fset p.hod hod h,
             chain := if r = 0 then p.chain.map fun x => if x.hod = some hod ∧ x.hodFirst ≤ e.cyc then { x with drained := true } else x
               else p.chain }

/-- The MAT slot by its opcode (Table 3-8). -/
def planMat (ic : IC) (w : Nat) : Plan :=
  match fld w 63 58 with
  | 0x00 => planMatNop ic w
  | 0x01 => planLoadw ic w
  | 0x02 => planPass ic w
  | _ => .skip 0x01 none none

end Sys2Proof.Machine
end

