-- ==== Sys2Proof/Machine/Skim.lean ====
section
/-! DEFINITION. Skim and Hod (spec 06): chain descriptors and their validity (R142 to R149, R156), streams and lane values
(R144, R147), stages and reductions (R146 to R151), and the engine cycle by cycle (R152 to R160). -/

namespace Sys2Proof.Machine

/-! ### Descriptors -/

/-- A decoded chain descriptor (Table 6-4). -/
structure Desc where
  valid : Bool
  nst : Nat
  s : Nat
  hkeep : Bool
  ren : Bool
  rreg : Nat
  een : Bool
  ereg : Nat
  estg : Nat
  fields : List Nat
  cen : Bool
  creg : Nat
  den : Bool
  dreg : Nat
  stages : List Stage
  stageRsvd : Bool
  consts : List Nat
  rsvd : Bool
  deriving DecidableEq, Repr

/-- A stage word (Table 6-5). -/
def stageOf (w : Nat) : Stage :=
  { op := fld w 31 26, rnd := fld w 25 23, src1 := fld w 22 19, sel1 := fld w 18 17, src2 := fld w 16 13, sel2 := fld w 12 11,
    src3 := fld w 10 7, sel3 := fld w 6 5, cvt := fld w 4 1 }

/-- A descriptor from its 64 bytes. -/
def descOf (d : BitVec 512) : Desc :=
  let wd (k : Nat) : Nat := fld d.toNat (32 * k + 31) (32 * k)
  let w0 := wd 0
  let nst := fld w0 30 28 + 1
  let sw := (List.range nst).map fun k => wd (4 + k)
  let fields := [fld (wd 1) 31 24, fld (wd 1) 23 16, fld (wd 1) 15 8, fld (wd 1) 7 0]
  { valid := bit w0 31, nst := nst, s := fld w0 27 19 + 1, hkeep := bit w0 18, ren := bit w0 17, rreg := fld w0 16 13,
    een := bit w0 12, ereg := fld w0 11 8, estg := fld w0 7 5, fields := fields, cen := bit (wd 2) 31,
    creg := fld (wd 2) 30 27, den := bit (wd 2) 26, dreg := fld (wd 2) 25 22, stages := sw.map stageOf,
    stageRsvd := sw.any fun w => bit w 0, consts := (List.range 4).map fun k => wd (12 + k),
    rsvd := fld w0 4 0 != 0 || fields.any (fun f => fld f 1 0 != 0) || fld (wd 2) 21 0 != 0 || wd 3 != 0 }

/-- Operands of a stage operation: how many of a, b, c it uses; 0 for an undefined code (Table 6-8). -/
def opArity (op : Nat) : Nat :=
  if decide (1 ≤ op ∧ op ≤ 4) || op == 8 || op == 9 || decide (0x10 ≤ op ∧ op ≤ 0x14) || op == 0x2C || op == 0x2D || op == 0x39
  then 2
  else if decide (5 ≤ op ∧ op ≤ 7) then 3
  else if op == 0xA || decide (0x18 ≤ op ∧ op ≤ 0x1E) || decide (0x20 ≤ op ∧ op ≤ 0x22) || op == 0x28 || op == 0x30 ||
    op == 0x38 || decide (0x3A ≤ op ∧ op ≤ 0x3C) then 1
  else 0

/-- Is the operation a row reduction? -/
def isRed (op : Nat) : Bool := decide (0x38 ≤ op ∧ op ≤ 0x3C)

/-- Does the operation round? -/
def opRounds (op : Nat) : Bool :=
  decide (1 ≤ op ∧ op ≤ 7) || decide (0x18 ≤ op ∧ op ≤ 0x1E) || decide (0x20 ≤ op ∧ op ≤ 0x22) || op == 0x28

/-- The operands of a stage as (source, selector). -/
def Stage.srcs (x : Stage) : List (Nat × Nat) := [(x.src1, x.sel1), (x.src2, x.sel2), (x.src3, x.sel3)]

/-- Kr of R149. -/
def krOf (st : List Stage) : Int :=
  ((List.range st.length).filter fun k => ((st.map fun x => isRed x.op).getD k false)).foldl (fun (_ : Int) (k : Nat) => (k : Int)) (-1)

/-- Format and mode of stream `x` (0 to 3). -/
def Desc.fmt (d : Desc) (x : Nat) : Nat := fld (d.fields.getD x 0) 7 4
/-- The mode of a stream. -/
def Desc.mode (d : Desc) (x : Nat) : Nat := fld (d.fields.getD x 0) 3 2

/-- Does some stage in the list name stream `x`? -/
def names (st : List Stage) (x : Nat) : Bool := st.any fun s => s.srcs.any fun o => o.1 == 8 + x

/-- Is one operand of the stage at position `k` named as R145, R148 and R149 allow? -/
def srcOk (d : Desc) (kr : Int) (reds : Nat) (k : Nat) (op j : Nat) (o : Nat × Nat) : Bool :=
  let (src, sel) := o
  let gather := decide ((k : Int) ≤ kr)
  let mask := decide (8 ≤ src ∧ src ≤ 11) && d.fmt (src - 8) == 8
  let maskUse := (op == 0x2C || op == 0x2D) && j == 1
  (mask == maskUse) &&
  (if src < 8 then
    decide (src < k) && sel == 0 && (decide ((src : Int) ≤ kr) == gather) &&
      !((d.stages[src]?).map fun s => isRed s.op).getD true
  else if src < 12 then decide (d.mode (src - 8) = 2) || sel == 0
  else if src = 12 then decide (sel < 2)
  else if src = 13 then !gather && decide (sel < 2 * reds)
  else if src = 14 then true
  else false)

/-- Is the stage at position `k` well formed (R148, R149)? -/
def stageOk (d : Desc) (kr : Int) (reds : Nat) (k : Nat) (x : Stage) : Bool :=
  let n := opArity x.op
  decide (0 < n) &&
  ((x.srcs.zip [0, 1, 2]).all fun o =>
    if o.2 < n then srcOk d kr reds k x.op o.2 o.1 else o.1 == (0xF, 0)) &&
  (opRounds x.op || x.rnd == 0) && decide (x.rnd < 5) &&
  (if x.op = 0x28 then decide (x.cvt < 7 ∨ x.cvt = 0xD ∨ x.cvt = 0xE) else x.cvt == 0) &&
  (x.op != 0x39 || x.src2 == 0xC || x.src2 == 0xE)

/-- Is a stream that some stage names well formed (R144)? -/
def streamOk (d : Desc) (x : Nat) : Bool :=
  !(names d.stages x) ||
    (decide (d.fmt x ≤ 8) && d.mode x != 3 && (d.mode x != 2 || d.fmt x == 0) &&
      (x != 2 || d.cen) && (x != 3 || d.den))

/-- The RSVD conditions of a chain descriptor (Table 6-11). -/
def descBad (d : Desc) (hod : Bool) : Bool :=
  let kr := krOf d.stages
  let reds := (d.stages.filter fun x => isRed x.op).length
  let lastRed := decide (kr = (d.nst : Int) - 1)
  !d.valid || d.rsvd || d.stageRsvd || decide (2 < reds) ||
    !((d.stages.zip (List.range d.nst)).all fun x => stageOk d kr reds x.2 x.1) ||
    !((List.range 4).all fun x => streamOk d x) || (lastRed && !d.ren) ||
    (d.een && (decide ((d.estg : Int) ≤ kr) || decide (d.nst ≤ d.estg))) ||
    (hod && (d.s != 1 || d.mode 0 != 0 || !(d.fmt 0 == 0 || d.fmt 0 == 6)))

/-- A feature the chain needs is absent (Table 6-11): stochastic rounding, FP8, INT8, SPLIT32. -/
def descOff (d : Desc) : Bool :=
  let fmts := ((List.range 4).filter (names d.stages)).map d.fmt
  let cvts := (d.stages.filter fun x => x.op == 0x28).map (·.cvt)
  (d.stages.any (fun x => x.rnd == 4) && featOff 7) ||
    ((fmts.any (fun f => f == 3 || f == 4) || cvts.any fun c => decide (3 ≤ c ∧ c ≤ 6)) && featOff 8) ||
    ((fmts.contains 5 || cvts.contains 0xD) && featOff 10) || ((fmts.contains 7 || cvts.contains 0xE) && featOff 14)

/-! ### Streams and outputs in the scratchpad -/

/-- Lines per segment of a stream format; MASK is a quarter line and is treated apart (Table 6-6). -/
def fmtLines (f : Nat) : Nat := if f = 1 ∨ f = 2 then 4 else if f = 3 ∨ f = 4 ∨ f = 5 then 2 else 8

/-- Lines per segment of an output in a conversion target. -/
def outLines (t : Nat) : Nat := if t = 1 ∨ t = 2 then 4 else if t = 0 ∨ t = 0xE then 8 else 2

/-- The format of a stage's output in the scratchpad: its CVT target, or binary32 (log entry 10). -/
def stageFmt (x : Stage) : Nat := if x.op = 0x28 then x.cvt else 0

/-- Lines of a whole stream of `n` rows of `s` segments. -/
def streamLen (f mode n s : Nat) : Nat :=
  if mode = 2 then ceilDiv n 4
  else
    let g := if mode = 1 then s else n * s
    if f = 8 then ceilDiv g 4 else fmtLines f * g

/-- The lines of segment `sg` of row `r`. -/
def segLines (f mode l r s sg : Nat) : List Nat :=
  if mode = 2 then [l + r / 4]
  else
    let n := if mode = 1 then sg else r * s + sg
    if f = 8 then [l + n / 4] else span (l + fmtLines f * n) (fmtLines f)

/-- A lane of a stream value: its binary32 pattern (R144, R147); MASK lanes hold the bit. -/
def laneVal (f w : Nat) : Nat :=
  match f with
  | 0x0 => w
  | 0x1 => rne32 (decodeF fB16 0 w).toX
  | 0x2 => rne32 (decodeF fBF16 0 w).toX
  | 0x3 => rne32 (decodeF fE4M3 0 w).toX
  | 0x4 => rne32 (decodeF fE5M2 0 w).toX
  | 0x5 => rne32 (FV.ofInt (sext 8 w)).toX
  | 0x6 => rne32 (FV.ofInt (sext 32 w)).toX
  | 0x7 => (join32 (BitVec.ofNat 16 w) (BitVec.ofNat 16 (w >>> 16))).toNat
  | _ => w

/-- Bits of an element of a stream format. -/
def fmtBits (f : Nat) : Nat :=
  if f = 8 then 1 else if f = 1 ∨ f = 2 then 16 else if f = 3 ∨ f = 4 ∨ f = 5 then 8 else 32

/-- The 128 lanes of an ELEM or BCOL segment from its delivered lines (value, poison). -/
def lanesOf (f : Nat) (q : Nat) (ls : List (Nat × Bool)) : List Lane :=
  let raw := ls.foldr (fun x acc => x.1 + acc * 2 ^ 512) 0
  (List.range 128).map fun e =>
    if f = 8 then ⟨(raw >>> (128 * q + e)) % 2, (ls.getD 0 (0, true)).2⟩
    else if f = 7 then
      let u := e / 32
      let h := (raw >>> (1024 * u + 16 * (e % 32))) % 2 ^ 16
      let lo := (raw >>> (1024 * u + 512 + 16 * (e % 32))) % 2 ^ 16
      ⟨laneVal 7 (h + lo * 65536), (ls.getD (2 * u) (0, true)).2 || (ls.getD (2 * u + 1) (0, true)).2⟩
    else
      let b := fmtBits f
      ⟨laneVal f ((raw >>> (b * e)) % 2 ^ b), (ls.getD (b * e / 512) (0, true)).2⟩

/-! ### Stages (R146 to R148) -/

/-- IEEE 754-2019 minimum and maximum of two patterns. -/
def minMax (mx : Bool) (a c : Nat) : Nat :=
  match dec32 a, dec32 c with
  | .nan, _ => fB32.nanPat
  | _, .nan => fB32.nanPat
  | x, y =>
    let key (v : FV) : Int := match v with
      | .inf s => if s then -(2 ^ 400 : Nat) else (2 ^ 400 : Nat)
      | .zero s => if s then -1 else 0
      | v => 2 * v.int
    if decide (key x < key y) == mx then c else a

/-- A pattern with a NaN made canonical. -/
def canon (a : Nat) : Nat := if isNan32 a then fB32.nanPat else a

/-- The comparison of a CMPxx code. -/
def cmpStage (op a c : Nat) : Bool :=
  match dec32 a, dec32 c with
  | .nan, _ => op == 0x13
  | _, .nan => op == 0x13
  | x, y =>
    let key (v : FV) : Int := match v with
      | .inf s => if s then -(2 ^ 400 : Nat) else (2 ^ 400 : Nat)
      | v => v.int
    match op with
    | 0x10 => decide (key y < key x)
    | 0x11 => decide (key y ≤ key x)
    | 0x12 => key x == key y
    | _ => key x != key y

/-- The exact result of a rounding stage other than CVT. -/
def stageExact (op : Nat) (r : Rnd) (a b c : FV) : XV :=
  match op with
  | 0x01 => xAdd r a b
  | 0x02 => xAdd r a b.negate
  | 0x03 => xMul a b
  | 0x04 => xDiv a b
  | 0x05 => xFma r a b c
  | 0x06 => xFma r a b c.negate
  | 0x07 => xFma r a.negate b c
  | 0x18 => xExp a
  | 0x19 => xExp2 a
  | 0x1A => xLog a
  | 0x1B => xLog2 a
  | 0x1C => xTanh a
  | 0x1D => xSigm a
  | 0x1E => xErf a
  | 0x20 => xRcp a
  | 0x21 => xSqrt a
  | _ => xRsqrt a

/-- The value a lane carries after a conversion, as binary32 (R147). -/
def cvtLane (t pat : Nat) : Nat :=
  match Target.ofCode t with
  | some (.flt f _) => rne32 (decodeF f 0 pat).toX
  | some .int8 => rne32 (FV.ofInt (sext 8 pat)).toX
  | some .split => laneVal 7 pat
  | _ => pat

/-- The pattern an output stores for a lane in a target that holds it exactly. -/
def outPat (t v : Nat) : Nat :=
  match Target.ofCode t with
  | some tt => (convert1 tt .rz 0 (dec32 v).toX).1
  | none => v

/-- One lane of one stage: value, poison, the flag it leaves (none: the flag stands), and its event. `u` is the random value
of the element. -/
def stageLane (x : Stage) (u : Nat) (flag : Bool × Bool) (a b c : Lane) : Lane × Option (Bool × Bool) × Option NumEv :=
  let n := opArity x.op
  let po := a.p || (decide (2 ≤ n) && b.p) || (decide (3 ≤ n) && c.p)
  let r := Rnd.ofCode x.rnd
  if opRounds x.op then
    let (v, ev) := if x.op = 0x28 then
        match Target.ofCode x.cvt with
        | some t => let (q, e) := convert1 t r u (dec32 a.v).toX; (cvtLane x.cvt q, e)
        | none => (a.v, none)
      else rnd32 r u (stageExact x.op r (dec32 a.v) (dec32 b.v) (dec32 c.v))
    (⟨v, po⟩, none, if po then none else ev)
  else
    match x.op with
    | 0x08 => (⟨minMax false a.v b.v, po⟩, none, none)
    | 0x09 => (⟨minMax true a.v b.v, po⟩, none, none)
    | 0x0A => (⟨canon a.v % 2 ^ 31, po⟩, none, none)
    | 0x14 => (⟨canon (if flag.1 then a.v else b.v), po || flag.2⟩, none, none)
    | 0x2C => (⟨if b.v = 1 then canon a.v else 0, po⟩, none, none)
    | 0x2D => (⟨canon a.v, a.p⟩, some (b.v == 1, b.p), none)
    | 0x30 => (⟨canon a.v, po⟩, none, none)
    | _ => (⟨canon a.v, a.p⟩, some (cmpStage x.op a.v b.v, a.p || b.p), none)

/-! ### Reductions (R150, R151) -/

/-- One softmax segment (R151): the running maximum and denominator, and whether the row has ended in NaN. -/
def smxSeg (acc : Nat × Nat × Bool) (xs : List Nat) : Nat × Nat × Bool :=
  let (m, l, stop) := acc
  if stop then acc
  else
    let ms := xs.foldl (minMax true) m
    match dec32 ms with
    | .nan => (fB32.nanPat, fB32.nanPat, true)
    | .inf true => acc
    | .inf false => (ms, fB32.nanPat, true)
    | mv =>
      let term (v : Nat) : Int := match dec32 v with
        | .inf _ => 0
        | x => (dec32 (rne32 (xExpInt (x.int - mv.int)))).int
      let seg := (xs.map term).foldl (· + ·) 0
      let sc : Int := match dec32 m with
        | .inf _ => 0
        | x => (dec32 (rne32 (xExpInt (x.int - mv.int)))).int
      (ms, rne32 (XV.ofInt ((dec32 l).int * sc + seg * (2 ^ 149 : Nat)) (-298) false), false)

/-- A row value as an output element: its pattern and event (R150, R135). -/
def rvOf (x : XV) : Nat × Option NumEv := rnd32 .rne 0 x

/-- A row value that is not rounded. -/
def rvPass (v : Nat) : Nat × Option NumEv := (canon v, if isNan32 v then some .nan else none)

/-- The first position of a value in the row, as binary32. -/
def firstIdx (vs : List Nat) (p : Nat → Bool) : Nat :=
  rne32 (FV.ofInt ((vs.findIdx p : Nat) : Int)).toX

/-- The two row values of a reduction over a row (R150, Table 6-9); `eps` is operand b of RMOM. -/
def reduceRow (op : Nat) (vs : List Nat) (eps : Nat) : (Nat × Option NumEv) × (Nat × Option NumEv) :=
  let fs := vs.map dec32
  let n := vs.length
  let sum : GSum := gSum (fs.map fun v => match v with
    | .nan => .nan
    | .inf s => .inf s
    | .zero s => .val 0 s
    | .fin i => .val i false)
  match op with
  | 0x38 =>
    let mean : XV := match sum with
      | .val i nz => if i = 0 then .zero nz else XV.ofRat (i < 0) i.natAbs n (-149)
      | g => g.toX (-149)
    (rvOf (sum.toX (-149)), rvOf mean)
  | 0x39 =>
    if fs.any (fun v => !v.isFin) || !(dec32 eps).isFin then (rvOf .nan, rvOf .nan)
    else
      let (s, nz) : Int × Bool := match sum with | .val i z => (i, z) | _ => (0, false)
      let sq : Int := (fs.map fun v => v.int * v.int).foldl (· + ·) 0
      let num : Int := (n : Int) * sq - s * s + (dec32 eps).int * (2 ^ 149 * n * n : Nat)
      if num < 0 then (rvOf .nan, rvOf .nan)
      else if num = 0 then (rvOf (.inf false), rvOf (if s = 0 then .nan else .inf (decide (0 < s))))
      else
        let (va, ev) := rvOf (xSqrtRat (n * n * 2 ^ 298) num.natAbs)
        let p := -s * (dec32 va).int
        ((va, ev), rvOf (match dec32 va with
          | .inf _ => if s = 0 then .nan else .inf (decide (0 < s))
          | _ => if s = 0 then .zero (!nz) else XV.ofRat (p < 0) p.natAbs n (-298)))
  | 0x3C =>
    let (m, l, _) := (chunksOf n 128 vs).foldl smxSeg (0xFF800000, 0, false)
    (rvPass m, rvPass l)
  | _ =>
    if fs.any FV.isNan then (rvOf .nan, (firstIdx vs isNan32, none))
    else
      let m := vs.foldl (minMax (op == 0x3A)) (vs.headD 0)
      (rvPass m, (firstIdx vs (· == m), none))

/-! ### VEC plans -/

/-- The descriptor a VEC slot names, in the store of its die (R142). -/
def descAt (ic : IC) (w : Nat) : Desc := descOf (fget (fget ic.c.chain ic.die) (fld w 57 48))

/-- The read of that descriptor at issue finds the errors of the store's words (R198): channel 31, the entry as the line; and
whether it comes poisoned. -/
def descRead (ic : IC) (w : Nat) (b : Body) : Body × Bool :=
  cacheRead ic.e b ic.die 31 (fld w 57 48) ic.slot (fget (fget ic.c.chainErr ic.die) (fld w 57 48)) 0 16

/-- NOP: bits 57:0 reserved. -/
def planVecNop (_ : IC) (w : Nat) : Plan := planOf [(fld w 57 0 != 0, 0x02), (slotOff 1, 0x04)] none {}

/-- The first line and expected stamp of stream `x`. -/
def streamRef (ic : IC) (w : Nat) (d : Desc) (x : Nat) : ORef :=
  match x with
  | 0 => oref ic (fld w 47 40)
  | 1 => oref ic (fld w 39 32)
  | 2 => ⟨ic.t.areg d.creg, none⟩
  | _ => ⟨ic.t.areg d.dreg, none⟩

/-- The output runs of a chain as (first line, lines): element output, second output, row values. -/
def chainOuts (ic : IC) (w : Nat) (d : Desc) (n : Nat) : List (Nat × Nat) :=
  let kr := krOf d.stages
  let f (k : Nat) : Nat := outLines (((d.stages[k]?).map stageFmt).getD 0)
  (if kr = (d.nst : Int) - 1 then [] else [(ic.t.areg (fld w 31 28), f (d.nst - 1) * n * d.s)]) ++
    (if d.een then [(ic.t.areg d.ereg, f d.estg * n * d.s)] else []) ++
    (if d.ren && decide (0 ≤ kr) then [(ic.t.areg d.rreg, ceilDiv n 4)] else [])

/-- The lines every stream of a chain uses; a CHAINH's stream A is its Hod slot. -/
def chainIns (ic : IC) (w : Nat) (d : Desc) (hod : Bool) (n : Nat) : List (Nat × Nat) :=
  ((List.range 4).filter fun x => names d.stages x && !(hod && x == 0)).map fun x =>
    ((streamRef ic w d x).line, streamLen (d.fmt x) (d.mode x) n d.s)

/-- Λ of R152. -/
def chainLat (kr : Int) (s : Nat) : Nat := if kr < 0 then 0 else s + 4 * kr.toNat + 12

/-- The stages of a half-pass with their positions. -/
def ChainOp.half (x : ChainOp) (gather : Bool) : List (Stage × Nat) :=
  (x.stages.zip (List.range x.stages.length)).filter fun s => decide ((s.2 : Int) ≤ x.kr) == gather

/-- Does a half-pass read the Hod slot? -/
def ChainOp.readsHod (x : ChainOp) (gather : Bool) : Bool := x.hod.isSome && names ((x.half gather).map (·.1)) 0

/-- The cycle of a half-pass's first read (R152). -/
def ChainOp.firstRead (x : ChainOp) (gather : Bool) : Nat := x.ins.issue + 2 + (if gather then 0 else chainLat x.kr x.s)

/-- The cycle of a half-pass's last read. -/
def ChainOp.lastRead (x : ChainOp) (gather : Bool) : Nat := x.firstRead gather + x.n * x.s - 1

/-- The cycles of a chain's first and last Hod read. -/
def ChainOp.withHod (x : ChainOp) : ChainOp :=
  { x with hodFirst := x.firstRead (x.readsHod true), hodLast := x.lastRead (!x.readsHod false) }

/-- CHAIN and CHAINH (R152 to R156). -/
def chainPlan (ic : IC) (w : Nat) (hod : Bool) : Plan :=
  let d := descAt ic w
  let n := fld w 14 8 + 1
  let kr := krOf d.stages
  let runs := chainIns ic w d hod n ++ chainOuts ic w d n
  let hs := fld w 23 20
  planOf
    ([(fld w 7 0 != 0 || dstBad (fld w 31 24) || (hod && fld w 47 40 != 0) || (!hod && hs != 0xF) || descBad d hod, 0x02),
      (slotOff 1 || descOff d, 0x04),
      (ic.p.seq.skim != some ic.slot || (hod && ic.p.seq.trowel != some ic.slot), 0x05),
      (decide (Config.chainDesc ≤ fld w 57 48) || (hod && decide (Config.hodDepth ≤ hs)), 0x10)] ++
      runs.flatMap fun x => lineChecks ic x.1 x.2) none
    (effect fun i b =>
      if ic.cyc < ic.p.skimBusy then noteOverlap ic.e b i
      else
        let (b, bad) := descRead ic w b
        let lam := chainLat kr d.s
        let strs := (List.range 4).map fun x =>
          let o := streamRef ic w d x
          (x, (⟨o.line, d.fmt x, d.mode x, o.exp⟩ : Stream))
        let op : ChainOp :=
          { ins := i, n := n, s := d.s, stages := d.stages, kr := kr, streams := strs, hod := if hod then some hs else none,
            hkeep := d.hkeep, dst := ic.t.areg (fld w 31 28), outFmt := ((d.stages[d.nst - 1]?).map stageFmt).getD 0,
            en2 := if d.een then some (d.estg, ic.t.areg d.ereg, ((d.stages[d.estg]?).map stageFmt).getD 0) else none,
            rv := if d.ren && decide (0 ≤ kr) then some (ic.t.areg d.rreg) else none, sreg := ic.t.sreg (fld w 19 15),
            consts := d.consts, key := insKey64 ic.c 1 i, acc := [], rvs := [], hodFirst := 0, hodLast := 0, drained := false,
            bad := bad }
        let op := op.withHod
        modPanel b (insKey b i) fun p =>
          { p.pend i ((chainOuts ic w d n).flatMap fun x => span x.1 x.2) with
            chain := p.chain ++ [op], skimBusy := i.issue + n * d.s + lam })

/-- CHAIN. -/
def planChain (ic : IC) (w : Nat) : Plan := chainPlan ic w false
/-- CHAINH. -/
def planChainh (ic : IC) (w : Nat) : Plan := chainPlan ic w true

/-- FILL (R157). -/
def planFill (ic : IC) (w : Nat) : Plan :=
  let d := descAt ic w
  let n := fld w 14 8 + 1
  let l := ic.t.areg (fld w 31 28)
  let x := ic.t.sreg (fld w 19 15)
  planOf
    ([(fld w 7 0 != 0 || dstBad (fld w 31 24) || fld w 47 32 != 0 || fld w 23 20 != 0xF || !d.valid, 0x02),
      (slotOff 1, 0x04), (ic.p.seq.skim != some ic.slot, 0x05),
      (decide (Config.chainDesc ≤ fld w 57 48), 0x10)] ++ lineChecks ic l (8 * n * d.s)) none
    (effect fun i b =>
      if ic.cyc < ic.p.skimBusy then noteOverlap ic.e b i
      else
        let (b, bad) := descRead ic w b
        modPanel b (insKey b i) fun p =>
          { p.pend i (span l (8 * n * d.s)) with
            fill := p.fill ++ [⟨i, n, d.s, l, x.val.toNat % 2 ^ 32, x.poison || bad⟩], skimBusy := i.issue + n * d.s })

/-- The VEC slot by its opcode (Table 3-7). -/
def planVec (ic : IC) (w : Nat) : Plan :=
  match fld w 63 58 with
  | 0x00 => planVecNop ic w
  | 0x01 => planChain ic w
  | 0x02 => planChainh ic w
  | 0x03 => planFill ic w
  | _ => .skip 0x01 none none

/-! ### The engine, cycle by cycle -/

/-- The segment number a half-pass reads in cycle `c`. -/
def ChainOp.segAt (x : ChainOp) (gather : Bool) (c : Nat) : Option Nat :=
  let b := x.firstRead gather
  if (x.half gather).isEmpty ∨ c < b ∨ x.n * x.s ≤ c - b then none else some (c - b)

/-- The streams a half-pass reads from the scratchpad. -/
def ChainOp.reads (x : ChainOp) (gather : Bool) : List Nat :=
  (List.range 4).filter fun k => names ((x.half gather).map (·.1)) k && !(x.hod.isSome && k == 0)

/-- The scheduled reads of a chain in cycle `c` (R153). -/
def chainReads (c : Nat) (x : ChainOp) : List RReq :=
  [true, false].flatMap fun g =>
    match x.segAt g c with
    | none => []
    | some n => (x.reads g).flatMap fun k =>
      let st := fget x.streams k
      (segLines st.fmt st.mode st.line (n / x.s) x.s (n % x.s)).map fun l =>
        { prio := (if g then 4 else 8) + k, line := l, exp := st.exp, ins := x.ins }

/-- A row of a Hod slot as lanes, and whether the read met a bad slot (R160). -/
def hodLanes (p : Panel) (fmt hod r : Nat) : List Lane × Bool :=
  let h := fget p.hod hod
  let bad := h.st != 2 || h.coll || decide (h.rows ≤ r)
  let row := fget h.row r
  ((List.range 128).map fun e => ⟨laneVal fmt (row.vals.getD e 0), bad || row.poison.getD (e / 16) true⟩, bad)

/-- The lanes a half-pass has of each stream for segment `n`. -/
def chainLanes (p : Panel) (g : List RGot) (x : ChainOp) (gather : Bool) (n k sel : Nat) : List Lane :=
  let st := fget x.streams k
  let prio := (if gather then 4 else 8) + k
  if x.hod.isSome ∧ k = 0 then (hodLanes p st.fmt (x.hod.getD 0) n).1
  else
    let ls := (segLines st.fmt st.mode st.line (n / x.s) x.s (n % x.s)).map fun l =>
      match gotOf g prio x.ins.uid l with
      | some r => (r.data, r.poison)
      | none => (0, true)
    if st.mode = 2 then
      let v := (ls.getD 0 (0, true))
      List.replicate 128 ⟨(v.1 >>> (128 * (n / x.s % 4) + 32 * sel)) % 2 ^ 32, v.2⟩
    else lanesOf st.fmt ((if st.mode = 1 then n % x.s else n) % 4) ls

/-- The state of a half-pass over one segment: outputs by position, the lane flags, and each stage's events. -/
structure HalfSt where
  outs : List (Nat × List Lane)
  flags : List (Bool × Bool)
  evs : List (Nat × NumCounts)

/-- The lanes of one operand. -/
def operandLanes (p : Panel) (g : List RGot) (x : ChainOp) (gather : Bool) (n : Nat) (h : HalfSt) (o : Nat × Nat) : List Lane :=
  let (src, sel) := o
  if src < 8 then ((h.outs.find? (·.1 == src)).map (·.2)).getD []
  else if src < 12 then chainLanes p g x gather n (src - 8) sel
  else
    List.replicate 128
      (if src = 12 then ⟨(x.sreg.val.toNat >>> (32 * sel)) % 2 ^ 32, x.sreg.poison⟩
      else if src = 13 then (fget x.rvs (n / x.s)).getD sel ⟨0, false⟩
      else if src = 14 then ⟨x.consts.getD sel 0, false⟩ else ⟨0, false⟩)

/-- The operand lanes, by element. -/
def zip3 (a b c : List Lane) : List (Nat × Lane × Lane × Lane) :=
  (List.range a.length).map fun e => (e, a.getD e ⟨0, false⟩, b.getD e ⟨0, false⟩, c.getD e ⟨0, false⟩)

/-- One stage that is no reduction over one segment. -/
def runStage (p : Panel) (g : List RGot) (x : ChainOp) (gather : Bool) (n : Nat) (h : HalfSt) (s : Stage × Nat) : HalfSt :=
  if isRed s.1.op then h
  else
    let op (o : Nat × Nat) : List Lane := operandLanes p g x gather n h o
    let base := n / x.s % 128 * 65536 + 128 * (n % x.s)
    let rs := (zip3 (op (s.1.src1, s.1.sel1)) (op (s.1.src2, s.1.sel2)) (op (s.1.src3, s.1.sel3))).map fun y =>
      stageLane s.1 (if s.1.rnd = 4 then srBits x.key (base + y.1) s.2 else 0) (h.flags.getD y.1 (false, false)) y.2.1 y.2.2.1 y.2.2.2
    let fl := if rs.any (fun y => y.2.1.isSome) then rs.map fun y => y.2.1.getD (false, false) else h.flags
    let cnt := rs.foldl (fun (c : NumCounts) y => c.bump y.2.2) NumCounts.zero
    { outs := h.outs ++ [(s.2, rs.map (·.1))], flags := fl, evs := h.evs ++ [(s.2, cnt)] }

/-- A half-pass over one segment. -/
def runHalf (p : Panel) (g : List RGot) (x : ChainOp) (gather : Bool) (n : Nat) : HalfSt :=
  (x.half gather).foldl (runStage p g x gather n) ⟨[], [], []⟩

/-- The lines of an output segment in a target, with their poison (R144, R155). -/
def outSegLines (t : Nat) (ls : List Lane) : List (BitVec 512 × Bool) :=
  if t = 0xE then
    (List.range 4).flatMap fun u =>
      let e := (ls.drop (32 * u)).take 32
      let ps := e.map fun y => outPat 0xE y.v
      let half (f : Nat → Nat) : BitVec 512 := BitVec.ofNat 512 (ps.foldr (fun w acc => f w % 65536 + acc * 65536) 0)
      let po := e.any (·.p)
      [(half id, po), (half (· / 65536), po)]
  else
    let bits := 512 * outLines t / 128
    let per := 512 / bits
    (List.range (outLines t)).map fun k =>
      let e := (ls.drop (per * k)).take per
      (BitVec.ofNat 512 (e.foldr (fun y acc => outPat t y.v + acc * 2 ^ bits) 0), e.any (·.p))

/-- The write cycle of segment `n` of the output of stage `k` (R152). -/
def ChainOp.outCyc (x : ChainOp) (k n : Nat) : Nat := x.firstRead false + n + 4 * ((k : Int) - x.kr).toNat + 1

/-- The write cycle of the row values of row `r` (R152). -/
def ChainOp.rvCyc (x : ChainOp) (r : Nat) : Nat := x.ins.issue + 1 + (r + 1) * x.s + 4 * x.kr.toNat + 12 + 1

/-- The last write of each output of a chain to a line: its cycle and its station. -/
def ChainOp.writesTo (x : ChainOp) (line : Nat) : List (Nat × Nat) :=
  let run (k first t : Nat) (prio : Nat) : List (Nat × Nat) :=
    if first ≤ line ∧ line < first + outLines t * x.n * x.s then [(x.outCyc k ((line - first) / outLines t), prio)] else []
  (if (x.half false).isEmpty then [] else run (x.stages.length - 1) x.dst x.outFmt 1) ++
    (match x.en2 with
      | some (k, l, t) => run k l t 2
      | none => []) ++
    (match x.rv with
      | some l => if l ≤ line ∧ line < l + ceilDiv x.n 4 then [(x.rvCyc (min (4 * (line - l) + 3) (x.n - 1)), 3)] else []
      | none => [])

/-- Is a write the chain's last of its line (R41)? -/
def ChainOp.lastWrite (x : ChainOp) (cyc prio line : Nat) : Bool :=
  (x.writesTo line).all fun w => decide (w.1 < cyc ∨ (w.1 = cyc ∧ w.2 ≤ prio))

/-- The writes of an output segment. -/
def outWrites (x : ChainOp) (cyc prio first t n : Nat) (ls : List Lane) : List WReq :=
  ((outSegLines t ls).zip (List.range (outLines t))).map fun y =>
    let line := first + outLines t * n + y.2
    { cyc := cyc, prio := prio, line := line, mask := BitVec.allOnes 64, data := y.1.1,
      poison := y.1.2, last := x.lastWrite cyc prio line, ins := x.ins }

/-- The row values of a finished row: four lanes and their events. A value no reduction writes is a free value of the chain's own
generator inputs, the same in every execution of the same work (R140). -/
def rowValues (x : ChainOp) (acc : FMap (List Lane)) (r : Nat) : List Lane × NumCounts :=
  let reds := (x.half true).filter fun s => isRed s.1.op
  let res := (reds.zip (List.range reds.length)).map fun s =>
    let ls := fget acc (2 * r + s.2)
    let eps : Lane :=
      if s.1.1.op = 0x39 then
        (if s.1.1.src2 = 0xC then ⟨(x.sreg.val.toNat >>> (32 * s.1.1.sel2)) % 2 ^ 32, x.sreg.poison⟩
         else ⟨x.consts.getD s.1.1.sel2 0, false⟩)
      else ⟨0, false⟩
    let v := reduceRow s.1.1.op (ls.map (·.v)) eps.v
    let po := ls.any (·.p) || eps.p || x.bad
    (v, po)
  let lanes : List Lane := res.flatMap fun y => [⟨y.1.1.1, y.2⟩, ⟨y.1.2.1, y.2⟩]
  let cnt := (res.filter fun y => !y.2).foldl (fun (c : NumCounts) y => (c.bump y.1.1.2).bump y.1.2.2) NumCounts.zero
  let free (k : Nat) : Lane := ⟨(Config.freeWord (x.key.toNat * 512 + 4 * r + k)).toNat, x.bad⟩
  ((List.range 4).map fun k => (lanes[k]?).getD (free k), cnt)

/-- The gather half of a chain in cycle `c`. -/
def chainGather (c : Nat) (g : List RGot) (p : Panel) (x : ChainOp) (n : Nat) : ChainOp × List WReq × List Later :=
  let h := runHalf p g x true n
  let r := n / x.s
  let reds := (x.half true).filter fun s => isRed s.1.op
  let acc := (reds.zip (List.range reds.length)).foldl (fun (a : FMap (List Lane)) s =>
    fmod a (2 * r + s.2) fun l => l ++ operandLanes p g x true n h (s.1.1.src1, s.1.1.sel1)) x.acc
  let evs := if x.bad then [] else h.evs.map fun y => (⟨c + 4 * (y.1 + 1), x.ins, .count y.2⟩ : Later)
  if n % x.s + 1 < x.s then ({ x with acc := acc }, [], evs)
  else
    let (vs, cnt) := rowValues x acc r
    let fin := x.rvCyc r - 1
    let wr : List WReq := match x.rv with
      | none => []
      | some l =>
        let word := vs.foldr (fun y acc => y.v + acc * 2 ^ 32) 0
        [{ cyc := x.rvCyc r, prio := 3, line := l + r / 4, mask := 0xFFFF#64 <<< (16 * (r % 4)),
           data := BitVec.ofNat 512 (word * 2 ^ (128 * (r % 4))), poison := vs.any (·.p),
           last := x.lastWrite (x.rvCyc r) 3 (l + r / 4), ins := x.ins }]
    ({ x with acc := (reds.zip (List.range reds.length)).foldl (fun a s => fdel a (2 * r + s.2)) acc,
              rvs := fset x.rvs r vs }, wr, evs ++ [⟨fin, x.ins, .count cnt⟩])

/-- The apply half of a chain in cycle `c`. Once poison has entered a reduction of the row, every output of the row is poisoned
(Table 2-6), and poisoned elements count no events (R135). A descriptor read in uncorrectable error enters every output (R44). -/
def chainApply (g : List RGot) (p : Panel) (x : ChainOp) (n : Nat) : List WReq × List Later :=
  let h := runHalf p g x false n
  let bad := x.bad || (fget x.rvs (n / x.s)).any (·.p)
  let out (k : Nat) : List Lane := (((h.outs.find? (·.1 == k)).map (·.2)).getD []).map fun y => { y with p := y.p || bad }
  let last := x.stages.length - 1
  let w2 := match x.en2 with
    | some (k, l, t) => outWrites x (x.outCyc k n) 2 l t n (out k)
    | none => []
  (outWrites x (x.outCyc last n) 1 x.dst x.outFmt n (out last) ++ w2,
    if bad then [] else h.evs.map fun y => ⟨x.outCyc y.1 n - 1, x.ins, .count y.2⟩)

/-- One cycle of a chain; `p0` is the panel at the start of the cycle, whose Hod slots it reads (R160). -/
def chainStep (c : Nat) (g : List RGot) (p0 p : Panel) (x : ChainOp) : Panel :=
  let z : ChainOp × List WReq × List Later := match x.segAt true c with
    | some n => chainGather c g p0 x n
    | none => (x, [], [])
  let y : List WReq × List Later := match x.segAt false c with
    | some n => chainApply g p0 z.1 n
    | none => ([], [])
  let p := { p with wq := p.wq ++ z.2.1 ++ y.1, later := p.later ++ z.2.2 ++ y.2 }
  let ended := decide (x.lastRead (x.half false).isEmpty ≤ c)
  { p with chain := p.chain.filterMap fun w =>
    if w.ins.uid = x.ins.uid then (if ended then none else some { z.1 with drained := w.drained }) else some w }

/-- The end of a chain's last Hod read (R158, R160): the slot it names becomes EMPTY when it is FULL, `HKEEP` is 0 and no drain has
entered it since the chain's first Hod read, in this cycle included. `p0` is the panel at the start of the cycle. -/
def hodClear (c : Nat) (p0 p : Panel) (x : ChainOp) : Panel :=
  match x.hod with
  | some s =>
    let drained := x.drained || (p0.later.any fun y => match y.act with
      | .hodRow h 0 .. => h == s && decide (y.cyc ≤ c)
      | _ => false)
    if (x.readsHod true || x.readsHod false) && c == x.hodLast && !x.hkeep && !drained && (fget p.hod s).st == 2 then
      { p with hod := fdel p.hod s }
    else p
  | none => p

/-- The Hod reads of a chain in cycle `c` that meet a bad slot: the hazard lines of R160. -/
def chainHodHaz (c : Nat) (p : Panel) (x : ChainOp) : List HazLine :=
  match x.hod with
  | none => []
  | some s => [true, false].filterMap fun gather =>
    match x.segAt gather c with
    | some n =>
      if x.readsHod gather && (hodLanes p 0 s n).2 then some ⟨128 * s + n, none, 0, false, false⟩ else none
    | none => none

/-- One cycle of a FILL: segment n is written in cycle issue + 2 + n (R157). -/
def fillStep (c : Nat) (p : Panel) (x : FillOp) : Panel :=
  let b := x.ins.issue + 2
  let ws : List WReq := if b ≤ c ∧ c < b + x.n * x.s then
      (List.range 8).map fun k =>
        { cyc := c, prio := 1, line := x.dst + 8 * (c - b) + k, mask := BitVec.allOnes 64,
          data := lineOfWords (List.replicate 16 x.val), poison := x.poison, last := true, ins := x.ins }
    else []
  { p with wq := p.wq ++ ws,
           fill := if b + x.n * x.s ≤ c + 1 then p.fill.filter (fun y => y.ins.uid != x.ins.uid) else p.fill }

end Sys2Proof.Machine
end

