-- ==== Sys2Proof/Machine/Digest.lean ====
section
/-! DEFINITION. The digests and the signature check the spec takes from published standards: SHA-256 and SHA-384 (FIPS 180-4;
R185, R287, R336, R369) and the verification of ECDSA over P-384 (R336, R369). -/

namespace Sys2Proof.Machine

/-! ### SHA-2 -/

/-- The round constants of SHA-256. -/
def sha256K : List Nat :=
  [0x428A2F98, 0x71374491, 0xB5C0FBCF, 0xE9B5DBA5, 0x3956C25B, 0x59F111F1, 0x923F82A4, 0xAB1C5ED5] ++
  [0xD807AA98, 0x12835B01, 0x243185BE, 0x550C7DC3, 0x72BE5D74, 0x80DEB1FE, 0x9BDC06A7, 0xC19BF174] ++
  [0xE49B69C1, 0xEFBE4786, 0x0FC19DC6, 0x240CA1CC, 0x2DE92C6F, 0x4A7484AA, 0x5CB0A9DC, 0x76F988DA] ++
  [0x983E5152, 0xA831C66D, 0xB00327C8, 0xBF597FC7, 0xC6E00BF3, 0xD5A79147, 0x06CA6351, 0x14292967] ++
  [0x27B70A85, 0x2E1B2138, 0x4D2C6DFC, 0x53380D13, 0x650A7354, 0x766A0ABB, 0x81C2C92E, 0x92722C85] ++
  [0xA2BFE8A1, 0xA81A664B, 0xC24B8B70, 0xC76C51A3, 0xD192E819, 0xD6990624, 0xF40E3585, 0x106AA070] ++
  [0x19A4C116, 0x1E376C08, 0x2748774C, 0x34B0BCB5, 0x391C0CB3, 0x4ED8AA4A, 0x5B9CCA4F, 0x682E6FF3] ++
  [0x748F82EE, 0x78A5636F, 0x84C87814, 0x8CC70208, 0x90BEFFFA, 0xA4506CEB, 0xBEF9A3F7, 0xC67178F2]
/-- The initial value of SHA-256. -/
def sha256H : List Nat :=
  [0x6A09E667, 0xBB67AE85, 0x3C6EF372, 0xA54FF53A, 0x510E527F, 0x9B05688C, 0x1F83D9AB, 0x5BE0CD19]
/-- The round constants of SHA-512 and SHA-384. -/
def sha512K : List Nat :=
  [0x428A2F98D728AE22, 0x7137449123EF65CD, 0xB5C0FBCFEC4D3B2F, 0xE9B5DBA58189DBBC] ++
  [0x3956C25BF348B538, 0x59F111F1B605D019, 0x923F82A4AF194F9B, 0xAB1C5ED5DA6D8118] ++
  [0xD807AA98A3030242, 0x12835B0145706FBE, 0x243185BE4EE4B28C, 0x550C7DC3D5FFB4E2] ++
  [0x72BE5D74F27B896F, 0x80DEB1FE3B1696B1, 0x9BDC06A725C71235, 0xC19BF174CF692694] ++
  [0xE49B69C19EF14AD2, 0xEFBE4786384F25E3, 0x0FC19DC68B8CD5B5, 0x240CA1CC77AC9C65] ++
  [0x2DE92C6F592B0275, 0x4A7484AA6EA6E483, 0x5CB0A9DCBD41FBD4, 0x76F988DA831153B5] ++
  [0x983E5152EE66DFAB, 0xA831C66D2DB43210, 0xB00327C898FB213F, 0xBF597FC7BEEF0EE4] ++
  [0xC6E00BF33DA88FC2, 0xD5A79147930AA725, 0x06CA6351E003826F, 0x142929670A0E6E70] ++
  [0x27B70A8546D22FFC, 0x2E1B21385C26C926, 0x4D2C6DFC5AC42AED, 0x53380D139D95B3DF] ++
  [0x650A73548BAF63DE, 0x766A0ABB3C77B2A8, 0x81C2C92E47EDAEE6, 0x92722C851482353B] ++
  [0xA2BFE8A14CF10364, 0xA81A664BBC423001, 0xC24B8B70D0F89791, 0xC76C51A30654BE30] ++
  [0xD192E819D6EF5218, 0xD69906245565A910, 0xF40E35855771202A, 0x106AA07032BBD1B8] ++
  [0x19A4C116B8D2D0C8, 0x1E376C085141AB53, 0x2748774CDF8EEB99, 0x34B0BCB5E19B48A8] ++
  [0x391C0CB3C5C95A63, 0x4ED8AA4AE3418ACB, 0x5B9CCA4F7763E373, 0x682E6FF3D6B2B8A3] ++
  [0x748F82EE5DEFB2FC, 0x78A5636F43172F60, 0x84C87814A1F0AB72, 0x8CC702081A6439EC] ++
  [0x90BEFFFA23631E28, 0xA4506CEBDE82BDE9, 0xBEF9A3F7B2C67915, 0xC67178F2E372532B] ++
  [0xCA273ECEEA26619C, 0xD186B8C721C0C207, 0xEADA7DD6CDE0EB1E, 0xF57D4F7FEE6ED178] ++
  [0x06F067AA72176FBA, 0x0A637DC5A2C898A6, 0x113F9804BEF90DAE, 0x1B710B35131C471B] ++
  [0x28DB77F523047D84, 0x32CAAB7B40C72493, 0x3C9EBE0A15C9BEBC, 0x431D67C49C100D4C] ++
  [0x4CC5D4BECB3E42B6, 0x597F299CFC657E2A, 0x5FCB6FAB3AD6FAEC, 0x6C44198C4A475817]
/-- The initial value of SHA-384. -/
def sha384H : List Nat :=
  [0xCBBB9D5DC1059ED8, 0x629A292A367CD507, 0x9159015A3070DD17, 0x152FECD8F70E5939] ++
  [0x67332667FFC00B31, 0x8EB44A8768581511, 0xDB0C2E0D64F98FA7, 0x47B5481DBEFA4FA4]

/-- A member of the family: word width, round constants, the rotations and shifts of its four functions. -/
structure ShaFn where
  w : Nat
  k : List Nat
  big0 : Nat × Nat × Nat
  big1 : Nat × Nat × Nat
  sm0 : Nat × Nat × Nat
  sm1 : Nat × Nat × Nat

/-- SHA-256. -/
def fn256 : ShaFn := ⟨32, sha256K, (2, 13, 22), (6, 11, 25), (7, 18, 3), (17, 19, 10)⟩
/-- SHA-384. -/
def fn512 : ShaFn := ⟨64, sha512K, (28, 34, 39), (14, 18, 41), (1, 8, 7), (19, 61, 6)⟩

/-- Rotate right in `w` bits. -/
def rotR (w x n : Nat) : Nat := (x >>> n ||| x <<< (w - n)) % 2 ^ w
/-- A function of three rotations. -/
def bigS (w : Nat) (r : Nat × Nat × Nat) (x : Nat) : Nat := rotR w x r.1 ^^^ rotR w x r.2.1 ^^^ rotR w x r.2.2
/-- A function of two rotations and a shift. -/
def smS (w : Nat) (r : Nat × Nat × Nat) (x : Nat) : Nat := rotR w x r.1 ^^^ rotR w x r.2.1 ^^^ (x >>> r.2.2)

/-- The message schedule, newest word first, grown by `n` words. -/
def shaSched (f : ShaFn) : Nat → List Nat → List Nat
  | 0, ws => ws
  | n + 1, ws =>
    let g (i : Nat) : Nat := ws.getD i 0
    shaSched f n ((smS f.w f.sm1 (g 1) + g 6 + smS f.w f.sm0 (g 14) + g 15) % 2 ^ f.w :: ws)

/-- One round over the eight working words. -/
def shaRound (f : ShaFn) (v : List Nat) (kw : Nat) : List Nat :=
  match v with
  | [a, b, c, d, e, ff, g, h] =>
    let m := 2 ^ f.w
    let ch := (e &&& ff) ^^^ ((m - 1 - e) &&& g)
    let t1 := h + bigS f.w f.big1 e + ch + kw
    let t2 := bigS f.w f.big0 a + ((a &&& b) ^^^ (a &&& c) ^^^ (b &&& c))
    [(t1 + t2) % m, a, b, c, (d + t1) % m, e, ff, g]
  | _ => v

/-- The big-endian value of bytes. -/
def beVal (l : List (BitVec 8)) : Nat := l.foldl (fun a x => a * 256 + x.toNat) 0
/-- The `n` big-endian bytes of a number. -/
def beBytes (n v : Nat) : List (BitVec 8) := ((leBytes n v).map (BitVec.ofNat 8)).reverse

/-- One block. -/
def shaBlock (f : ShaFn) (h : List Nat) (blk : List (BitVec 8)) : List Nat :=
  let ws := (List.range 16).map fun i => beVal ((blk.drop (i * (f.w / 8))).take (f.w / 8))
  let all := (shaSched f (f.k.length - 16) ws.reverse).reverse
  let v := (f.k.zip all).foldl (fun v x => shaRound f v (x.1 + x.2)) h
  (h.zip v).map fun x => (x.1 + x.2) % 2 ^ f.w

/-- Blocks of `n` bytes. -/
def blocksOf (n : Nat) : Nat → List (BitVec 8) → List (List (BitVec 8))
  | 0, _ => []
  | k + 1, l => l.take n :: blocksOf n k (l.drop n)

/-- The digest words of a message. -/
def shaWords (f : ShaFn) (h : List Nat) (msg : List (BitVec 8)) : List Nat :=
  let bb := 2 * f.w
  let lb := f.w / 4
  let pad := (bb - (msg.length + 1 + lb) % bb) % bb
  let m := msg ++ [0x80] ++ List.replicate pad 0 ++ beBytes lb (8 * msg.length)
  (blocksOf bb (m.length / bb) m).foldl (shaBlock f) h

/-- SHA-256. -/
def sha256 (msg : List (BitVec 8)) : List (BitVec 8) := (shaWords fn256 sha256H msg).flatMap (beBytes 4)
/-- SHA-384. -/
def sha384 (msg : List (BitVec 8)) : List (BitVec 8) := ((shaWords fn512 sha384H msg).take 6).flatMap (beBytes 8)

/-! ### ECDSA over P-384 -/

/-- The field prime. -/
def p384 : Nat := 2 ^ 384 - 2 ^ 128 - 2 ^ 96 + 2 ^ 32 - 1
/-- The order of the base point. -/
def n384 : Nat := 0xFFFFFFFFFFFFFFFFFFFFFFFFFFFFFFFFFFFFFFFFFFFFFFFFC7634D81F4372DDF581A0DB248B0A77AECEC196ACCC52973
/-- The coefficient b. -/
def b384 : Nat := 0xB3312FA7E23EE7E4988E056BE3F82D19181D9C6EFE8141120314088F5013875AC656398D8A2ED19D2A85C8EDD3EC2AEF
/-- The base point. -/
def g384 : Nat × Nat :=
  (0xAA87CA22BE8B05378EB1C71EF320AD746E1D3B628BA79B9859F741E082542A385502F25DBF55296C3A545E3872760AB7,
   0x3617DE4A96262C6F5D9E98BF9292DC29F8F41DBD289A147CE9DA3113B5F0B8C00A60B1CE1D7E819D7A431D7C90EA0E5F)

/-- A power modulo `m`, over `k` bits of the exponent. -/
def powMod (m : Nat) : Nat → Nat → Nat → Nat → Nat
  | 0, _, _, acc => acc
  | k + 1, b, e, acc => powMod m k (b * b % m) (e / 2) (if e % 2 = 1 then acc * b % m else acc)

/-- The inverse modulo a prime. -/
def invMod (m x : Nat) : Nat := powMod m 384 (x % m) (m - 2) 1

/-- Add two points; none is the point at infinity. -/
def ecAdd : Option (Nat × Nat) → Option (Nat × Nat) → Option (Nat × Nat)
  | none, q => q
  | p, none => p
  | some (x1, y1), some (x2, y2) =>
    let p := p384
    if x1 = x2 ∧ (y1 + y2) % p = 0 then none
    else
      let l := if x1 = x2 then (3 * x1 * x1 + (p - 3)) * invMod p (2 * y1) % p
        else (y2 + p - y1) * invMod p (x2 + p - x1) % p
      let x3 := (l * l + 2 * p - x1 - x2) % p
      some (x3, (l * (x1 + p - x3) + p - y1) % p)

/-- A multiple of a point, over `k` bits. -/
def ecMul : Nat → Nat → Option (Nat × Nat) → Option (Nat × Nat) → Option (Nat × Nat)
  | 0, _, _, acc => acc
  | k + 1, s, q, acc => ecMul k (s / 2) (ecAdd q q) (if s % 2 = 1 then ecAdd acc q else acc)

/-- Does a 96-byte signature (r, s) of a SHA-384 digest verify under a 96-byte public key (x, y)? -/
def ecdsa384 (key : List (BitVec 8)) (digest sig : List (BitVec 8)) : Bool :=
  let x := beVal (key.take 48)
  let y := beVal ((key.drop 48).take 48)
  let r := beVal (sig.take 48)
  let s := beVal ((sig.drop 48).take 48)
  if key.length ≠ 96 ∨ r = 0 ∨ n384 ≤ r ∨ s = 0 ∨ n384 ≤ s ∨ p384 ≤ x ∨ p384 ≤ y then false
  else if (x * x * x + (p384 - 3) * x + b384) % p384 ≠ y * y % p384 then false
  else
    let w := invMod n384 s
    let u1 := beVal digest * w % n384
    let u2 := r * w % n384
    match ecAdd (ecMul 384 u1 (some g384) none) (ecMul 384 u2 (some (x, y)) none) with
    | none => false
    | some (x3, _) => x3 % n384 == r

end Sys2Proof.Machine
end

