-- ==== Sys2Proof/Machine/Store.lean ====
section
/-! DEFINITION. Transfers after their issue: STX reads, conversions and keep formats (R73, R119, R169 to R172), the pieces
of a store and their acknowledgements (R45, R196), arrival writes of loads (R37, R73, R86, R87), and Mitre (R162 to
R168). -/

namespace Sys2Proof.Machine

/-! ### Units of a store -/

/-- Source lines of one unit of a store: 2 for MX and SPLIT32, 32 for MASK+NARROW. -/
def StKind.unit : StKind → Nat
  | .stc code _ => if (7 ≤ code ∧ code ≤ 0xC) ∨ code = 0xE then 2 else 1
  | .stk code _ => if code = 3 ∨ code = 4 then 2 else if code = 7 ∨ code = 8 then 32 else 1
  | _ => 1

/-- The conversion of a store and its rounding, when it converts. -/
def StKind.target : StKind → Option (Target × Nat)
  | .stc code rnd => (Target.ofCode code).map fun t => (t, rnd)
  | .stk code rnd =>
    match code with
    | 1 | 7 => some (.flt fE4M3 .max, rnd)
    | 2 | 8 => some (.flt fE5M2 .max, rnd)
    | 3 => some (.mx fE4M3, rnd)
    | 4 => some (.mx fE5M2, rnd)
    | _ => none
  | _ => none

/-- Is the keep format one of variable length (R170)? -/
def StKind.varLen : StKind → Bool
  | .stk code _ => decide (7 ≤ code)
  | _ => false

/-- The line a store reads in cycle `c`, if any (R73). -/
def StoreOp.readAt (x : StoreOp) (c : Nat) : Option Nat :=
  if x.ins.issue + 1 ≤ c ∧ c < x.ins.issue + 1 + x.n ∧ x.read < x.n then some (c - (x.ins.issue + 1)) else none

/-- The reads of a store in cycle `c`. -/
def storeReads (c : Nat) (x : StoreOp) : List RReq :=
  match x.readAt c with
  | some k => [{ prio := 12, line := x.line + k, exp := x.exp, ins := x.ins }]
  | none => []

/-- Codes of `bits` bits packed as one little-endian integer. -/
def packBits (bits : Nat) (cs : List Nat) : List (BitVec 8) :=
  (leBytes (cs.length * bits / 8) (cs.foldr (fun v acc => v + acc * 2 ^ bits) 0)).map (BitVec.ofNat 8)

/-- The random value of element `e` of source line `k` (Table 5-6, STC and STK). -/
def storeU (key : BitVec 64) (rnd k e : Nat) : Nat := if rnd = 4 then srBits key (k % 1024 * 16 + e) 0 else 0

/-- What one unit becomes: element bytes, scale bytes, and the events of each of its lines. -/
structure UnitOut where
  e : List (BitVec 8)
  s : List (BitVec 8)
  cnt : List NumCounts
  deriving DecidableEq, Repr

/-- The 16 words of a line with their places. -/
def lineElems (v : Nat) : List (Nat × Nat) := (wordsOf v).zip (List.range 16)

/-- One line converted element by element. -/
def convLine (t : Target) (rnd : Nat) (key : BitVec 64) (k v : Nat) : List (Nat × Option NumEv) :=
  (lineElems v).map fun x => convert1 t (Rnd.ofCode rnd) (storeU key rnd k x.2) (dec32 x.1).toX

/-- Counts of a list of results. -/
def countEvs (l : List (Nat × Option NumEv)) : NumCounts := l.foldl (fun (c : NumCounts) x => c.bump x.2) NumCounts.zero

/-- The bits of a MASK or a SIGN unit (Table 7-5). -/
def bitBytes (f : Nat → Bool) (v : Nat) : List (BitVec 8) := packBits 1 ((wordsOf v).map fun w => b2n (f w))

/-- Is a binary32 pattern nonzero or NaN? -/
def nonZero32 (w : Nat) : Bool := w % 2 ^ 31 != 0

/-- The segment of 32 lines in a MASK+NARROW format (R170). -/
def narrowSeg (t : Target) (rnd : Nat) (key : BitVec 64) (k : Nat) (ls : List Nat) : UnitOut :=
  let res := (ls.zip (List.range ls.length)).map fun x =>
    ((convLine t rnd key (k + x.2) x.1).zip (wordsOf x.1)).filter fun y => nonZero32 y.2
  let codes := res.flatMap fun l => l.map fun y => y.1.1
  let mask := ls.flatMap fun v => (wordsOf v).map fun w => b2n (nonZero32 w)
  let pad := ceilDiv codes.length 64 * 64 - codes.length
  ⟨packBits 1 mask ++ packBits 8 (codes ++ List.replicate pad 0), [], res.map fun l => countEvs (l.map (·.1))⟩

/-- One unit of a store: its lines from source line `k` on. -/
def unitOut (x : StoreOp) (k : Nat) (ls : List Nat) : UnitOut :=
  match x.kind with
  | .stk 5 _ => ⟨ls.flatMap (bitBytes nonZero32), [], []⟩
  | .stk 6 _ => ⟨ls.flatMap (bitBytes fun w => w.testBit 31), [], []⟩
  | kind => match kind.target with
    | none => ⟨ls.flatMap fun v => lineBytes (BitVec.ofNat 512 v), [], []⟩
    | some (t, rnd) =>
      if kind.varLen then narrowSeg t rnd x.key k ls
      else if t.isMx then
        let us := (List.range 32).map fun i => storeU x.key rnd (k + i / 16) (i % 16)
        let (sc, els) := mxBlock t x.ceil (Rnd.ofCode rnd) us ((ls.flatMap wordsOf).map dec32)
        ⟨packBits t.bits (els.map (·.1)), [BitVec.ofNat 8 sc], [countEvs (els.take 16), countEvs (els.drop 16)]⟩
      else
        let rs := (ls.zip (List.range ls.length)).map fun y => convLine t rnd x.key (k + y.2) y.1
        let codes := rs.flatMap fun l => l.map (·.1)
        let bytes := match t with
          | .split => packBits 16 (codes.map (· % 65536)) ++ packBits 16 (codes.map (· / 65536))
          | _ => packBits t.bits codes
        ⟨bytes, [], rs.map countEvs⟩

/-! ### Pieces of a store -/

/-- The pieces of a byte stream over its ranges: each lies in one 64-byte memory line; a piece with a byte of a poisoned
unit is a poison mark (R45). `base` is the place of the stream in the transfer, for its tag groups. -/
def chunksFor (base : Nat) (out : List (List (BitVec 8) × Bool)) : Nat → List Seg → List Chunk
  | _, [] => []
  | o, g :: gs =>
    let bytes := out.flatMap (·.1)
    let po := out.flatMap fun x => x.1.map fun _ => x.2
    (linePieces (g.len / 64 + 2) g.addr g.len).map (fun p =>
      let at_ := o + (p.1 - g.addr)
      { segs := [⟨g.host, p.1, p.2⟩], data := (bytes.drop at_).take p.2, poison := ((po.drop at_).take p.2).any id,
        grp := grpOf 0 (base + at_) p.2 }) ++ chunksFor base out (o + g.len) gs

/-- The pieces of a store whose source lines have all been read. -/
def storeChunks (x : StoreOp) : List Chunk :=
  let n := (x.outE.map fun y => y.1.length).sum
  let varLen := x.kind.varLen
  let outS := if varLen then [((leBytes 8 n).map (BitVec.ofNat 8), false)] else x.outS
  let base := (x.space.map (·.len)).sum
  chunksFor 0 x.outE 0 (if varLen then subSegs x.space 0 n else x.space) ++ chunksFor base outS 0 x.space2

/-- Token down, tags back: the end of a transfer of a thread (R73, R196). -/
def Panel.endTransfer (p : Panel) (i : Ins) (tok tags : Nat) : Panel :=
  (if tok < 16 then p.modThread i.th fun t => t.tokDown tok else p).giveTags tags

/-- Is the thread that issued an instruction still the one that holds the place? -/
def insLive (e : Env) (b : Body) (i : Ins) : Bool := liveHandle e b i.slot i.handle

/-- Finish a transfer: of a handle that is no longer live, only the tags return (R51). -/
def endTransfer (e : Env) (b : Body) (k : Nat) (i : Ins) (tok tags : Nat) : Body :=
  modPanel b k fun p => p.endTransfer i (if insLive e b i then tok else 16) tags

/-- Count an arrival discarded because its handle is no longer live (R51). -/
def countStale (e : Env) (b : Body) (i : Ins) : Body :=
  if insLive e b i then b else { b with ctx := { b.ctx with stale := b.ctx.stale + 1 } }

/-- The packets of a far put, to one unit or to each member of a group (R232, R238). -/
def putPackets (b : Body) (x : StoreOp) (peer : Nat) : Body :=
  (entryUnits b (BitVec.ofNat 32 peer)).foldl (sendPuts x.ins x.n x.addr x.stride x.outE) b

/-- Replace a store of a panel; none removes it. -/
def Panel.putStore (p : Panel) (uid : Nat) (y : Option StoreOp) : Panel :=
  { p with store := p.store.filterMap fun z => if z.ins.uid = uid ∧ z.tok < 16 then y else some z }

/-- The store after all its lines are read: its pieces, or its packets. -/
def storeDone (e : Env) (b : Body) (k : Nat) (x : StoreOp) : Body :=
  match x.kind with
  | .fput peer =>
    let b := putPackets (modPanel b k fun p => p.putStore x.ins.uid (some x)) x peer
    if b.fab.out.any fun q => q.uid == x.ins.uid then b
    else endTransfer e (modPanel b k fun p => p.putStore x.ins.uid none) k x.ins x.tok x.tags
  | _ => modPanel b k fun p => p.putStore x.ins.uid (some { x with out := storeChunks x })

/-- The events of source line `k` of a MASK+NARROW store: those of the elements it keeps (R170). -/
def narrowEvs (x : StoreOp) (k v : Nat) : NumCounts :=
  match x.kind.target with
  | some (t, rnd) => countEvs ((((convLine t rnd x.key k v).zip (wordsOf v)).filter fun y => nonZero32 y.2).map (·.1))
  | none => NumCounts.zero

/-- The line a store has read, its poison, and the unit it may complete. Events of source line `k` are counted in cycle
issue + 2 + k (R136); elements of poisoned lines, and of a poisoned MX block or SPLIT32 unit, count nothing. -/
def storeStep (e : Env) (c : Nat) (g : List RGot) (k : Nat) (b : Body) (x : StoreOp) : Body :=
  match x.readAt c with
  | none => b
  | some j =>
    let (d, po) := gotLines g 12 x.ins.uid [x.line + j]
    let ln := fget (panelAt b k).line (x.line + j)
    let b := if po then
        reportDirty (noteHaz e b x.ins 8 [⟨x.line + j, x.exp, ln.stamp.toNat, !ln.pend.isEmpty, ln.poison⟩]) x.ins.slot
      else b
    let b := if x.kind.varLen && !po then
        modPanel b k fun p => { p with later := p.later ++ [⟨x.ins.issue + 2 + j, x.ins, .count (narrowEvs x j d)⟩] }
      else b
    let x := { x with raw := x.raw ++ [(d, po)], read := x.read + 1 }
    let (b, x) : Body × StoreOp :=
      if x.raw.length < x.kind.unit then (b, x)
      else
        let k0 := x.read - x.raw.length
        let u := unitOut x k0 (x.raw.map (·.1))
        let any := x.raw.any (·.2)
        let evs : List Later := (u.cnt.zip (List.range u.cnt.length)).filterMap fun y =>
          let bad := if x.kind.unit = 2 then any else ((x.raw[y.2]?).getD (0, true)).2
          if bad || x.kind.varLen then none else some ⟨x.ins.issue + 2 + k0 + y.2, x.ins, .count y.1⟩
        (modPanel b k fun p => { p with later := p.later ++ evs },
          { x with raw := [], outE := x.outE ++ [(u.e, any)], outS := if u.s.isEmpty then x.outS else x.outS ++ [(u.s, any)] })
    if x.read < x.n then modPanel b k fun p => p.putStore x.ins.uid (some x) else storeDone e b k x

/-- Tags a finished piece frees: its groups that no other piece still uses (R196). -/
def freedTags (rest : List Chunk) (c : Chunk) : Nat :=
  (c.grp.filter fun g => !(rest.any fun r => r.grp.contains g)).length

/-- The acknowledgement of piece `j` of a store reaches the panel (R196): tags, then the token with the last. The piece has
been written. -/
def ackChunk (e : Env) (b : Body) (k : Nat) (x : StoreOp) (j : Nat) : Body :=
  match x.out[j]? with
  | none => b
  | some c =>
    let rest := x.out.eraseIdx j
    let put (y : Option StoreOp) (b : Body) : Body := modPanel b k fun p =>
      { p with store := p.store.filterMap fun z => if z.ins.uid = x.ins.uid ∧ z.tok = x.tok then y else some z }
    if rest.isEmpty then endTransfer e (put none b) k x.ins x.tok x.tags
    else
      let f := min (freedTags rest c) x.tags
      modPanel (put (some { x with out := rest, tags := x.tags - f }) b) k fun p => p.giveTags f

/-! ### Arrival writes -/

/-- The binary32 lines of a kept MXFP8 line (Table 7-5, codes 3 and 4). -/
def mxLine (code : Nat) (els : List (BitVec 8)) (scale : Nat) : BitVec 512 :=
  let f := if code = 3 then fE4M3 else fE5M2
  lineOfWords (els.map fun w => if scale = 0xFF then fB32.nanPat else rne32 (decodeF f ((scale : Int) - 127) w.toNat).toX)

/-- The output line `q` (0 to 7) of a MASK+NARROW segment from its mask and codes, and the codes' range it needs. -/
def narrowLine (mask : Nat) (q : Nat) (codes : List (BitVec 8)) : BitVec 512 × Nat × Nat :=
  let before := ((List.range (64 * q)).filter fun i => mask.testBit i).length
  let els := span (64 * q) 64
  let n := (els.filter fun i => mask.testBit i).length
  let step (acc : List (BitVec 8) × Nat) (i : Nat) : List (BitVec 8) × Nat :=
    if mask.testBit i then (acc.1 ++ [codes.getD acc.2 0], acc.2 + 1) else (acc.1 ++ [0], acc.2)
  (lineOf (els.foldl step ([], before)).1, before, n)

/-- Bytes of segments with the poison of each byte's memory line. -/
def readSegsB (b : Body) (gs : List Seg) : List (BitVec 8 × Bool) :=
  gs.flatMap fun g =>
    if g.host then (hostRead b g.addr g.len).map fun v => (v, false)
    else (linePieces (g.len / 64 + 2) g.addr g.len).flatMap fun p =>
      let po := linePoison b (p.1 / 64) || serveRead b p.1 == .dead
      (b.mem.read p.1 p.2).map fun v => (v, po)

/-- The lines of a load that have not arrived. -/
def LoadOp.left (x : LoadOp) : List LdLine := x.todo.filter fun l => !x.inbuf.contains l.idx

/-- Is a load one of a variable-length keep format? -/
def LdKind.varLen : LdKind → Bool
  | .ldk code => decide (7 ≤ code)
  | _ => false

/-- The 256-byte groups of its transfer that line `l` of a load is read from; those of a variable-length format show at its
arrival (R171). -/
def loadGroups (b : Body) (x : LoadOp) (l : LdLine) : List Nat :=
  if x.kind.varLen then
    let mask := bytesVal (readSegs b (subSegs x.space x.shift 64)).1
    let (_, r0, n) := narrowLine mask (l.idx % 8) []
    (x.shift / 256 :: grpOf 0 (x.shift + 64 + r0) n).eraseDups
  else l.grp

/-- The data and poison of one line of a load, and the load after it (variable-length formats move on to their next
segment after its last line). -/
def loadLine (b : Body) (x : LoadOp) (l : LdLine) : BitVec 512 × Bool × LoadOp :=
  match x.kind with
  | .ldk code =>
    if code = 3 ∨ code = 4 then
      let (d, p) := readSegs b l.segs
      let (s, q) := readSegs b l.segs2
      (mxLine code d (bytesVal s), p || q, x)
    else if 7 ≤ code then
      let (m, mp) := readSegs b (subSegs x.space x.shift 64)
      let mask := bytesVal m
      let c := popCount 512 mask
      let codes := (readSegs b (subSegs x.space (x.shift + 64) (ceilDiv c 64 * 64))).1
      let (d, r0, n) := narrowLine mask (l.idx % 8) codes
      let bad := x.bad || mp
      let po := bad || (readSegs b (subSegs x.space (x.shift + 64 + r0) n)).2
      let more := x.left.any fun y => y.idx != l.idx && y.idx / 8 == l.idx / 8
      (d, po, if more then x else { x with shift := x.shift + 64 + ceilDiv c 64 * 64, bad := bad })
    else let (d, p) := readSegs b l.segs; (lineOf d, p, x)
  | .fget _ =>
    match x.got.find? (·.1 == l.idx) with
    | some g => (g.2.1, g.2.2, { x with got := x.got.filter (·.1 != l.idx) })
    | none => (0, true, x)
  | _ => let (d, p) := readSegs b l.segs; (lineOf d, p, x)

/-- The errors that the memory reads of one line of a load find. -/
def findLoad (e : Env) (b : Body) (x : LoadOp) (l : LdLine) : Body :=
  let find (b : Body) (gs : List Seg) : Body := findSegs e (if insLive e b x.ins then some x.ins.slot else none) b gs
  match x.kind with
  | .fget _ => b
  | .ldk code =>
    if 7 ≤ code then
      let b := find b (subSegs x.space x.shift 64)
      let c := popCount 512 (bytesVal (readSegs b (subSegs x.space x.shift 64)).1)
      find b (subSegs x.space (x.shift + 64) (ceilDiv c 64 * 64))
    else find b (l.segs ++ l.segs2)
  | _ => find b (l.segs ++ l.segs2)

/-- May line `l` of a load arrive now? -/
def mayArrive (e : Env) (b : Body) (k : Nat) (x : LoadOp) (l : LdLine) : Bool :=
  decide (x.ins.issue < e.clk.cyc) &&
    match x.kind with
    | .fget _ => x.got.any (·.1 == l.idx)
    | .dfill => !((panelAt b k).store.any fun s =>
        s.tok == 16 && s.ins.slot == x.ins.slot && s.ins.th == x.ins.th && decide (s.ins.uid ≤ x.ins.uid)) && !segsWait b l.segs
    | .ldk code =>
      if 7 ≤ code then x.left.all (fun y => decide (l.idx / 8 ≤ y.idx / 8)) && !segsWait b (subSegs x.space x.shift 576)
      else !segsWait b (l.segs ++ l.segs2)
    | _ => !segsWait b (l.segs ++ l.segs2)

/-- The context memory lines of `n` filled instruction bytes that come poisoned. -/
def ifillPoison (b : Body) (va n : Nat) (segs : List Seg) : List Nat :=
  (linePieces (n / 64 + 2) va n).filterMap fun p => if (readSegs b (subSegs segs (p.1 - va) p.2)).2 then some (p.1 / 64) else none

/-- Does a load write scratchpad lines, by way of the arrival buffer? -/
def LdKind.spad : LdKind → Bool
  | .dfill => false
  | .dwb => false
  | .ifill _ => false
  | _ => true

/-- Put an arrived line where it belongs: a cache line, a residency entry, or the arrival buffer. -/
def placeLine (b : Body) (k : Nat) (x : LoadOp) (l : LdLine) (d : BitVec 512) (po : Bool) : Body :=
  match x.kind with
  | .dfill => modPanel b k fun p => p.modThread x.ins.th fun t =>
      { t with dline := fset t.dline l.line ⟨true, l.idx, false, po, d, default⟩ }
  | .ifill en =>
    let bad := ifillPoison b (x.addr + 64 * l.idx) 64 l.segs
    modPanel b k fun p => p.modThread x.ins.th fun t =>
      { t with ient := fmod t.ient en fun y =>
          { y with bytes := y.bytes.take (64 * l.idx) ++ lineBytes d ++ y.bytes.drop (64 * l.idx + 64),
                   poison := y.poison ++ bad, err := fdel y.err (x.addr / 64 + l.idx) } }
  | _ => modPanel b k fun p => { p with arrq := p.arrq ++ [⟨x.ins, l.idx, l.line, BitVec.allOnes 64, d, po⟩] }

/-- Tags the write of a line frees: its groups that no line still to be written uses (R196). A later segment of a
variable-length format may use a group that does not end before it. -/
def freedLoad (x : LoadOp) (rest : List LdLine) (l : LdLine) : Nat :=
  (l.grp.filter fun g => !(rest.any fun r => r.grp.contains g) &&
    (!x.kind.varLen || x.left.isEmpty || decide (256 * (g + 1) ≤ x.shift))).length

/-- Replace a load of a panel; none removes it. -/
def Panel.putLoad (p : Panel) (uid : Nat) (y : Option LoadOp) : Panel :=
  { p with load := p.load.filterMap fun z => if z.ins.uid = uid then y else some z }

/-- Line `j` of a load has been written, or discarded for a handle no longer live: tags return, and with the last line the load
ends (R73, R86, R196). -/
def lineDone (e : Env) (b : Body) (k uid j : Nat) : Body :=
  match (panelAt b k).load.find? (·.ins.uid == uid) with
  | none => b
  | some x =>
    match x.todo.find? (·.idx == j) with
    | none => b
    | some l =>
      let rest := x.todo.filter (·.idx != j)
      if rest.isEmpty then
        let b := match x.kind with
          | .ifill en => if insLive e b x.ins then
              modPanel b k fun p => p.modThread x.ins.th fun t => { t with ient := fmod t.ient en fun q => { q with valid := true } }
            else b
          | _ => b
        endTransfer e (modPanel b k fun p => p.putLoad uid none) k x.ins x.tok x.tags
      else
        let f := min (freedLoad x rest l) x.tags
        modPanel b k fun p => (p.putLoad uid (some { x with todo := rest, inbuf := x.inbuf.filter (· != j), tags := x.tags - f })).giveTags f

/-- Tiles of an LDT that have arrived and are now wholly written return their tags (R196); with the last tile the LDT leaves
Mitre and its token counts down (R164, R165). -/
def ldtSettle (e : Env) (b : Body) (k uid : Nat) : Body :=
  let p := panelAt b k
  match p.ldt.find? (·.ins.uid == uid) with
  | none => b
  | some x =>
    let busy (t : Nat) : Bool :=
      (p.later.any fun y => y.ins.uid == uid && (match y.act with | .arrive t' .. => t' == t | _ => false)) ||
        p.arrq.any fun y => y.ins.uid == uid && y.idx == t
    let n := ((span x.done (x.next - x.done)).takeWhile fun t => !busy t).length
    if x.done + n = x.tiles then
      endTransfer e (modPanel b k fun p => { p with ldt := p.ldt.filter fun y => y.ins.uid != uid }) k x.ins x.tok x.tags
    else
      let f := x.tags * n / (x.tiles - x.done)
      modPanel b k fun p =>
        { p.giveTags f with ldt := p.ldt.map fun y => if y.ins.uid = uid then { y with done := x.done + n, tags := x.tags - f } else y }

/-- One entry of the arrival buffer: it is written when its bank has taken no arrival write in this cycle (R37); one whose
handle is no longer live is discarded and counted (R51). -/
def drainOne (e : Env) (k : Nat) (b : Body) (a : Arr) : Body :=
  let p := panelAt b k
  let out (b : Body) : Body := modPanel b k fun p => { p with arrq := p.arrq.erase a }
  if !insLive e b a.ins then lineDone e (countStale e (out b) a.ins) k a.ins.uid a.idx
  else if p.arrBank.contains (a.line % 128) then b
  else
    let b := modPanel (out b) k fun p => { p with arrBank := p.arrBank ++ [a.line % 128] }
    lineDone e (arriveLine e b k a.ins a.line a.data a.mask a.poison true) k a.ins.uid a.idx

/-- The arrival buffer of a panel writes what it can, in arrival order (R37); LDTs whose tiles it has written move on. -/
def drainArr (e : Env) (b : Body) (k : Nat) : Body :=
  let b := (panelAt b k).arrq.foldl (drainOne e k) b
  (panelAt b k).ldt.foldl (fun b x => ldtSettle e b k x.ins.uid) b

/-- Line `j` of a load arrives (R37, R73). A scratchpad line enters the arrival buffer, which writes it at once when its bank is
free in this cycle. Lines of a reset context's loads are discarded and counted (R51). -/
def arrival (e : Env) (b : Body) (k uid j : Nat) : Body :=
  match (panelAt b k).load.find? (·.ins.uid == uid) with
  | none => b
  | some x =>
    match x.left.find? (·.idx == j) with
    | none => b
    | some l =>
      if !mayArrive e b k x l then b
      else
        let b := findLoad e b x l
        let gs := loadGroups b x l
        let (d, po, y) := loadLine b x l
        let y := { y with todo := y.todo.map fun z => if z.idx = j then { z with grp := gs } else z }
        if !insLive e b x.ins then lineDone e (countStale e (modPanel b k fun p => p.putLoad uid (some y)) x.ins) k uid j
        else if x.kind.spad then
          drainArr e (placeLine (modPanel b k fun p => p.putLoad uid (some { y with inbuf := y.inbuf ++ [j] })) k x l d po) k
        else lineDone e (placeLine (modPanel b k fun p => p.putLoad uid (some y)) k x l d po) k uid j

/-! ### Mitre (R162 to R168) -/

/-- One element of an MX block re-expressed under a larger scale (R167), and whether it became zero; a NaN becomes the format's
canonical NaN (R117), an infinity stays. -/
def rescaleEl (f : FFmt) (d : Nat) (w : Nat) : Nat × Bool :=
  match decodeF f 0 w with
  | .fin n =>
    let r := (roundF f .max .rne 0 (.fin (n < 0) n.natAbs (-149 - (d : Int)) false)).1
    (r, r % 2 ^ (f.eb + f.fb) = 0)
  | .nan => (f.nanPat, false)
  | _ => (w, false)

/-- The element format of MX data in Mitre. -/
def mitreFmtOf (code : Nat) : Target :=
  match code with
  | 4 => .mx fE4M3
  | 5 => .mx fE5M2
  | 8 => .mxint8
  | _ => .mx fE2M1

/-- One element of any MX format under R167. -/
def rescale1 (t : Target) (d w : Nat) : Nat × Bool :=
  match t with
  | .mx f => rescaleEl f d w
  | _ =>
    let r := (roundI (-128) 127 .rne 0 (-6) (decodeMxInt8 (-(d : Int)) w).toX).1
    (wrapInt 8 r, sext 8 w != 0 && r == 0)

/-- A transposed block: 32 codes and their scales become codes under the largest scale; the counts of R167. -/
def mitreBlock (t : Target) (xs ss : List Nat) : List Nat × Nat × Bool × Nat :=
  let s := ss.foldl max 0
  if s = 0xFF ∨ ss.all (· == s) then (xs, s, false, 0)
  else
    let rs := (xs.zip ss).map fun p => if p.2 = s then (p.1, false) else rescale1 t (s - p.2) p.1
    (rs.map (·.1), s, true, (rs.filter (·.2)).length)

/-- Element `n` of a packed source row. -/
def rowEl (bits n : Nat) (row : List (BitVec 8 × Bool)) : Nat × Bool :=
  let lo := bits * n / 8
  let len := max 1 (bits / 8)
  let bs := (row.drop lo).take len
  ((bytesVal (bs.map (·.1)) >>> (bits * n % 8)) % 2 ^ bits, bs.any (·.2))

/-- New row `n` of a tile: codes with their poison, the scale bytes with theirs, blocks rescaled and elements made zero. -/
structure MitreRow where
  els : List (Nat × Bool)
  sc : List (Nat × Bool)
  resc : Nat
  zero : Nat

/-- A new row from the tile's source rows and scale rows. -/
def mitreNewRow (bits : Nat) (mx : Option Nat) (rows sc : List (List (BitVec 8 × Bool))) (n : Nat) : MitreRow :=
  let col := rows.map (rowEl bits n)
  match mx with
  | none => ⟨col, [], 0, 0⟩
  | some code =>
    let scol := sc.map fun r => let y := r.getD (n / 32) (0, true); (y.1.toNat, y.2)
    let bl := (chunksOf (col.length) 32 col).zip (chunksOf (scol.length) 32 scol)
    let rs := bl.map fun p =>
      let r := mitreBlock (mitreFmtOf code) (p.1.map (·.1)) (p.2.map (·.1))
      let sp := p.2.any (·.2)
      (r, p.1.map (·.2), sp)
    ⟨rs.flatMap fun r => (r.1.1.zip r.2.1).map fun y => (y.1, y.2 || r.2.2),
      rs.map fun r => (r.1.2.1, r.2.2), (rs.filter (·.1.2.2.1)).length, (rs.map (·.1.2.2.2)).sum⟩

/-- The arrival writes of new row `m` of tile `t` in cycle `cyc`. -/
def mitreRowWrites (x : LdtOp) (t cyc m : Nat) (r : MitreRow) : List Later :=
  let bits := (mitreSize x.mode).2.1
  let per := 512 / bits
  ((mitreRow x.mode x.rho x.grpNo (x.q0 + t) m).zip (chunksOf r.els.length per r.els)).map fun y =>
    ⟨cyc, x.ins, .arrive t y.1 (BitVec.allOnes 64) (lineOf (packBits bits (y.2.map (·.1)))) (y.2.any (·.2))⟩

/-- The rows of tile `t` of an LDT from its memory. -/
def mitreTile (b : Body) (x : LdtOp) (t : Nat) : List MitreRow :=
  let (e, bits, _) := mitreSize x.mode
  let rows := ((x.rows.drop (e * t)).take e).map (readSegsB b)
  let sc := ((x.scales.drop (e * t)).take e).map (readSegsB b)
  (List.range e).map (mitreNewRow bits x.mxFmt rows sc)

/-- The scale-line write of new row `m`: the bytes of all tiles of the LDT, written once (R166). -/
def mitreScaleWrite (x : LdtOp) (cyc m : Nat) (scs : List (Nat × Bool)) : Later :=
  let sh := 64 * x.q0
  ⟨cyc, x.ins, .arrive (x.tiles - 1) (mitreScale x.rho x.grpNo m) (BitVec.ofNat 64 ((2 ^ scs.length - 1) * 2 ^ (8 * x.q0)))
    (BitVec.ofNat 512 (bytesVal (scs.map fun y => BitVec.ofNat 8 y.1) * 2 ^ sh)) (scs.any (·.2))⟩

/-- Must a tile's reads wait for a channel (R193)? -/
def mitreWaits (b : Body) (x : LdtOp) : Bool :=
  let e := (mitreSize x.mode).1
  ((x.rows.drop (e * x.next)).take e ++ (x.scales.drop (e * x.next)).take e).any (segsWait b)

/-- A tile of an LDT whose handle is no longer live: its source lines are discarded at the arrival buffer and counted, and its
tags return (R51). -/
def mitreStale (e : Env) (b : Body) (k : Nat) (x : LdtOp) : Body :=
  let b := { b with ctx := { b.ctx with stale := b.ctx.stale + (mitreSize x.mode).2.2.2.2 } }
  ldtSettle e (modPanel b k fun p =>
    { p with ldt := p.ldt.map fun y => if y.ins.uid = x.ins.uid then { y with next := x.next + 1 } else y }) k x.ins.uid

/-- The last source line of the panel's next tile reaches Mitre in cycle `a` (R164). While both tile buffers are in use no tile's
memory requests are out beyond those two, so none arrives. -/
def mitreArrive (e : Env) (b : Body) (k : Nat) : Body :=
  let p := panelAt b k
  match p.ldt.find? (fun x => decide (x.next < x.tiles)) with
  | none => b
  | some x =>
    if e.clk.cyc ≤ x.ins.issue ∨ mitreWaits b x then b
    else if !insLive e b x.ins then mitreStale e b k x
    else if 2 ≤ p.mitreHeld.length then b
    else
      let n := (mitreSize x.mode).1
      let b := ((x.rows.drop (n * x.next)).take n ++ (x.scales.drop (n * x.next)).take n).foldl
        (findSegs e (some x.ins.slot)) b
      let rows := mitreTile b x x.next
      let start := max (e.clk.cyc + 8) (p.mitreLast + 1)
      let last := decide (x.next + 1 = x.tiles)
      let ws := ((rows.zip (List.range n)).map fun r => mitreRowWrites x x.next (start + r.2) r.2 r.1).flatten
      let sc := x.sc ++ [rows.map (·.sc)]
      let sw := if last ∧ x.mxFmt.isSome then
          (List.range n).map fun m => mitreScaleWrite x (start + m) m (sc.flatMap fun t => t.getD m [])
        else []
      let b := modCtx b x.ins.slot fun c =>
        { c with log := { c.log with mitreResc := satAdd 0xFFFF c.log.mitreResc ((rows.map (·.resc)).sum),
                                     mitreZero := satAdd 0xFFFF c.log.mitreZero ((rows.map (·.zero)).sum) } }
      modPanel b k fun p =>
        { p with mitreLast := start + n - 1, mitreHeld := p.mitreHeld ++ [start + n - 1], later := p.later ++ ws ++ sw,
                 ldt := p.ldt.map fun y => if y.ins.uid = x.ins.uid then { y with next := x.next + 1, sc := sc } else y }

end Sys2Proof.Machine
end

