-- ==== Sys2Proof/Machine/Ring.lean ====
section
/-! DEFINITION. Command rings (R266 to R271, R282): the entry a command comes from, its header and reserved bits, the
conditions of its start, its completion and its records, and the frames the step ledger sends for it. -/

namespace Sys2Proof.Machine

/-! ### Rings -/

/-- A ring as the admin registers or the create block set it up. -/
def ringAt (b : Body) : RingRef → Ring
  | .admin =>
    let a := b.host.ar
    { a.ring with present := a.en, cmdBase := a.base.toNat, cplBase := a.cpl.toNat, logn := a.logn, vec := 0 }
  | .ctx s r => fget (ctxAt b s.val).ring r.val

/-- Change a ring. -/
def modRing (b : Body) (r : RingRef) (f : Ring → Ring) : Body :=
  match r with
  | .admin => { b with host := { b.host with ar := { b.host.ar with ring := f b.host.ar.ring } } }
  | .ctx s r => modCtx b s.val fun c => { c with ring := fmod c.ring r.val f }

/-- The number of a ring in its records. -/
def ringNum : RingRef → Nat
  | .admin => 0
  | .ctx _ r => r.val

/-- The context slot of a ring. -/
def ringSlot : RingRef → Option Nat
  | .admin => none
  | .ctx s _ => some s.val

/-- The rings of a context. -/
def ctxRings (slot : Nat) : List RingRef := if h : slot < 4096 then (List.finRange 4).map (RingRef.ctx ⟨slot, h⟩) else []

/-- The vector count of a record with `IRQ` set (R268). -/
def countIrq (e : Env) (b : Body) (r : RingRef) : Body :=
  match r with
  | .admin => raiseVector b 0
  | .ctx _ _ =>
    let x := ringAt b r
    if max 1 x.modCnt ≤ x.irqCnt + 1 then raiseVector (modRing b r fun x => { x with irqCnt := 0 }) x.vec
    else modRing b r fun x => { x with irqCnt := x.irqCnt + 1, irqTick := if x.irqCnt = 0 then e.tick else x.irqTick }

/-- Write one completion record and advance the queue (R267, Table 10-6). Host memory is written only while the function
is a bus master (R255). -/
def writeRecord (e : Env) (b : Body) (r : RingRef) (kind status idx : Nat) (result user : BitVec 32) (irq : Bool) : Body :=
  let x := ringAt b r
  let n := 2 ^ (x.logn + 1)
  let w0 := b2n x.cplPhase * 2 ^ 31 + ringNum r * 2 ^ 29 + kind * 2 ^ 27 + status * 2 ^ 16 + idx
  let d := bytesOf 4 (BitVec.ofNat 32 w0) ++ bytesOf 4 result ++ bytesOf 4 user ++ bytesOf 4 (e.clk.tick.setWidth 32)
  let b := if b.host.master then hostWrite b (x.cplBase + 16 * x.cplIdx) d else b
  let b := modRing b r fun y =>
    { y with cplIdx := (x.cplIdx + 1) % n, cplPhase := if x.cplIdx + 1 = n then !x.cplPhase else x.cplPhase }
  if irq then countIrq e b r else b

/-! ### Commands -/

/-- A command that starts: its ring, the context it concerns, its 64 bytes, its place among the commands in flight. -/
structure Cmd where
  e : Env
  r : RingRef
  slot : Nat
  w : BitVec 512
  seq : Nat

/-- A field of a command: `n` bytes at byte `off`. -/
def Cmd.at (c : Cmd) (off n : Nat) : Nat := (c.w.toNat >>> (8 * off)) % 256 ^ n

/-- A bit field of a command, bits `hi` to `lo` of the byte at `off` upward. -/
def Cmd.bits (c : Cmd) (off hi lo : Nat) : Nat := fld (c.w.toNat >>> (8 * off)) hi lo

/-- The header fields of a command word (Table 10-5). -/
def hdrField (w : BitVec 512) (off hi lo : Nat) : Nat := fld (w.toNat >>> (8 * off)) hi lo

/-- A mask of the bits a command defines: the header, and (byte, bits) fields of its body. -/
def usedMask (fs : List (Nat × Nat)) : Nat :=
  let f (o n : Nat) : Nat := (2 ^ n - 1) * 2 ^ (8 * o)
  (f 0 8 + f 1 4 + f 2 6 + f 3 6 + f 4 64) ||| fs.foldl (fun m x => m ||| f x.1 x.2) 0

/-- Is a reserved bit of a command nonzero? Byte 12 holds the ring number of a logged command (R282) and is not read. -/
def rsvdSet (w : BitVec 512) (fs : List (Nat × Nat)) : Bool := (w.toNat &&& (2 ^ 512 - 1 - usedMask fs)) != 0

/-- A command completes: its record can be written (R267). Effects so far stand. -/
def finish (b : Body) (c : Cmd) (status : Nat) (result : BitVec 32) : Body :=
  modRing b c.r fun x => { x with fly := x.fly.map fun f => if f.seq = c.seq then { f with done := some (status, result) } else f }

/-- Complete with OK. -/
def finishOk (b : Body) (c : Cmd) : Body := finish b c 0x00 0
/-- Refuse with the reason INVALID. -/
def invalid (b : Body) (c : Cmd) : Body := finish b c 0x01 0

/-- Mark a command in flight as complete, found by its number, on whichever ring it started. -/
def finishSeq (b : Body) (r : RingRef) (seq status : Nat) (result : BitVec 32) : Body :=
  modRing b r fun x => { x with fly := x.fly.map fun f => if f.seq = seq ∧ f.done.isNone then { f with done := some (status, result) } else f }

/-- A ring of a context by its number. -/
def ctxRing (slot r : Nat) : RingRef :=
  if h : slot < 4096 ∧ r < 4 then .ctx ⟨slot, h.1⟩ ⟨r, h.2⟩ else .admin

/-- Is the context in the replay of logged commands (R302)? -/
def replaying (b : Body) (slot : Nat) : Bool := (ctxAt b slot).led.replay.isSome && (ctxAt b slot).id.st == .live

/-- The first bytes of the command a ring starts next: in a replay of its context the ring's oldest logged one, else the one at the
head, read while the function masters reads (R255). -/
def nextHeader (b : Body) (r : RingRef) : Option (List (BitVec 8)) :=
  let x := ringAt b r
  let atHead := if !x.present ∨ x.head = x.tail ∨ !b.host.master then none else some (hostRead b (x.cmdBase + 64 * x.head) 8)
  match r with
  | .admin => atHead
  | .ctx s n =>
    if replaying b s.val then ((ctxAt b s.val).led.replayQ.find? fun y => y.ring == n.val).map fun y => bytesOf 8 y.w else atHead

/-- The context whose event a ring's next command waits for; none when it waits for none. -/
def waitSlot (r : RingRef) (h : List (BitVec 8)) : Option Nat :=
  if bytesAt h 1 1 / 4 % 2 = 0 then none
  else match r with
    | .admin => if bytesAt h 4 4 = 0 then none else some (bytesAt h 4 4 % 4096)
    | .ctx s _ => some s.val

/-- The H-die sees an event that the next command of a ring waits for: its start condition is met from then on (R413). -/
def latchWev (slot t : Nat) (b : Body) : Body :=
  let ev := hostEvents b slot t
  (.admin :: ctxRings slot).foldl (fun b r =>
    match nextHeader b r with
    | none => b
    | some h =>
      if waitSlot r h = some slot ∧ ev.getLsbD (bytesAt h 3 1 % 64) then modRing b r fun x => { x with wevSeen := true } else b) b

/-- Set an event of a context from the host side (R77): the change belongs to the current cycle, and every panel sees it from then
on. -/
def setEventNow (e : Env) (b : Body) (slot v : Nat) : Body :=
  latchWev slot e.cyc (modCtx b slot fun c => c.evChange ⟨e.cyc, none, evMask (v % 64), 0⟩)

/-- Write the record of a command that has reached its completion point, set `CEV`, count `IRQ`, and leave the ring
(R267). A replayed command writes no record (R302); it carries index 0x10000 and above. -/
def completeFlight (e : Env) (b : Body) (r : RingRef) (f : Flight) (kind : Nat) : Body :=
  match f.done with
  | none => b
  | some (st, res) =>
    let b := if f.idx < 65536 then writeRecord e b r kind st f.idx res f.user f.irq else b
    let b := modRing b r fun x => { x with fly := x.fly.filter fun g => g.seq != f.seq }
    let s := (ringSlot r).getD (f.cev / 64)
    if f.cen && (ctxAt b s).id.st != .free then setEventNow e b s f.cev else b

/-! ### The command log (R282) -/

/-- Capacity of a step's command log in entries. -/
def StepRec.logCap (x : StepRec) : Nat :=
  match x.rb.find? (·.tag == 0xFF) with
  | some r => r.units * 1024
  | none => 0

/-- The log entry of a command: the ring number in byte 12. -/
def logEntry (w : BitVec 512) (r : Nat) : BitVec 512 :=
  BitVec.ofNat 512 (w.toNat % 2 ^ 96 + r % 256 * 2 ^ 96 + w.toNat / 2 ^ 104 * 2 ^ 104)

/-- Store log entry `i` of a step in its log buffer, when the buffer's page is mapped. -/
def storeLog (e : Env) (b : Body) (slot : Nat) (x : StepRec) (i : Nat) (w : BitVec 512) : Body :=
  match x.rb.find? (·.tag == 0xFF) with
  | none => b
  | some r =>
    if r.units * 1024 ≤ i then b
    else match xlate b slot (r.addr + 64 * i) 64 false with
      | .ok s => (putSegs e none false b s (lineBytes w)).getD b
      | .fault _ => b

/-- The step in the label of a command's mirrored log entry. -/
def logLabel (b : Body) (slot : Nat) (w : BitVec 512) : Nat :=
  logStep (ctxAt b slot).led (if hdrField w 0 7 0 = 0x10 then bytesAt (lineBytes w) 16 8 else 0)

/-- Append a started command to the log of the open step, or of the next step's prologue; without room the step is
NOREPLAY. -/
def logCommand (e : Env) (b : Body) (slot r : Nat) (w : BitVec 512) : Body :=
  let c := ctxAt b slot
  let l := c.led
  let en := logEntry w r
  let b := if c.con.role = 1 ∧ c.con.active then sendJob b slot (.mirrorLog c.con.peer (logLabel b slot w) r w) else b
  match l.openStep with
  | some n =>
    let x := fget l.step n
    let b := storeLog e b slot x x.log.length en
    modCtx b slot fun c => { c with led := { c.led with step := fmod c.led.step n fun x =>
      if x.log.length < x.logCap then { x with log := x.log ++ [(r, en)] } else { x with noReplay := true } } }
  | none => modCtx b slot fun c => { c with led := { c.led with next := { c.led.next with log := c.led.next.log ++ [(r, en)] } } }

/-! ### Starting -/

/-- Does an opcode act without a C-die? (R346: in DUSK the others wait.) Queries, and host-side and register work. -/
def runsInDusk (adm : Bool) (opc : Nat) : Bool := adm && [0x01, 0x1F, 0x21, 0x22, 0x25, 0x26].contains opc

/-- May commands start in this power state (R345, R346)? None does in a module that has lost its clocks, which stays stopped until a
module reset (R24, R212). A LAUNCH, CTX_RESUME or EVENT returns the module from HAZE. While a
firmware activation is armed, STEP_OPEN and LAUNCH are held (R371). -/
def powerAllows (b : Body) (r : RingRef) (opc : Nat) : Bool :=
  let p := b.kpr.pwr
  if p.stopped ∨ (b.kpr.fw.act = 1 ∧ (opc = 0x06 ∨ opc = 0x10)) then false
  else match p.st with
  | .clear | .haze => decide (p.hold = 0) && !p.off
  | .dusk => runsInDusk (r == .admin) opc
  | .night => false

/-- Do the start conditions of R266 hold for the command `w` at the head of a ring? -/
def mayStart (e : Env) (b : Body) (r : RingRef) (w : BitVec 512) : Bool :=
  let x := ringAt b r
  let slot := match r with
    | .admin => hdrField w 4 11 0
    | .ctx s _ => s.val
  let c := ctxAt b slot
  x.present && powerAllows b r (hdrField w 0 7 0) && (hdrField w 1 0 0 == 0 || x.fly.isEmpty) &&
    (hdrField w 1 2 2 == 0 || x.wevSeen || (r == .admin && hdrField w 4 31 0 == 0) || (hostEvents b slot e.cyc).getLsbD (hdrField w 3 5 0)) &&
    (match r with
      | .admin => true
      | .ctx _ _ => c.id.st == .live && !c.id.resetting && !replaying b slot)

/-- Take the command at the head of a ring: it is in flight, the head has moved on. -/
def takeEntry (b : Body) (r : RingRef) (w : BitVec 512) : Nat × Body :=
  let (u, b) := freshUid b
  let x := ringAt b r
  let f : Flight :=
    { idx := x.head, opc := hdrField w 0 7 0, irq := hdrField w 1 3 3 == 1, cen := hdrField w 1 1 1 == 1,
      cev := (if r = .admin then hdrField w 4 11 0 * 64 else 0) + hdrField w 2 5 0,
      user := BitVec.ofNat 32 (hdrField w 8 31 0), seq := u, done := none }
  let h := (x.head + 1) % 2 ^ x.logn
  (u, modRing b r fun y =>
    { y with head := h, tail := if x.head = x.tail then h else y.tail, fly := y.fly ++ [f], wevSeen := false, logAcks := none })

/-- Units of the context's buddies. -/
def buddyUnits (b : Body) (slot : Nat) : List Nat := (ctxAt b slot).led.buddies.map (·.unit)

/-- The command must first be logged at every buddy: send its log entry (R282). -/
def sendLog (b : Body) (r : RingRef) (slot : Nat) (w : BitVec 512) : Body :=
  let us := buddyUnits b slot
  let b := us.foldl (fun b u => sendJob b slot (.mirrorLog u (logLabel b slot w) (ringNum r) w)) b
  modRing b r fun x => { x with logAcks := some us }

/-- Does a command carry a handle that is not the context's (R262)? -/
def staleHandle (e : Env) (b : Body) (slot : Nat) (w : BitVec 512) : Bool :=
  let h := hdrField w 4 31 0
  h != handleOf e b slot || h == 0

/-- A command that has started: the check of its handle (R262), its log entry (R282), the header checks (R266, R270), then its own
action `act`. `adm` says which rings accept it (0 context, 1 admin naming a context, 2 admin for the module, 3 both), `fs` its body
fields. A command with a stale handle has no effect, its log entry among them; a replayed command (`rep`) carries the handle of its
first run. A command for the module as a whole has `HANDLE` 0. -/
def acceptCommand (c : Cmd) (adm : Nat) (fs : List (Nat × Nat)) (act : Cmd → Body → Body) (rep : Bool) (b : Body) : Body :=
  let isAdm := decide (c.r = .admin)
  let h := hdrField c.w 4 31 0
  let module := isAdm && decide (2 ≤ adm)
  let stale := !rep && !(module && h == 0) && staleHandle c.e b c.slot c.w
  let b := if isAdm || rep || stale then b else logCommand c.e b c.slot (ringNum c.r) c.w
  let ring := if isAdm then adm != 0 else adm == 0 || adm == 3
  if !ring then invalid b c
  else if stale then finish b c 0x02 0
  else if module && h != 0 then invalid b c
  else if rsvdSet c.w fs || (module && (hdrField c.w 1 2 1 != 0)) then invalid b c
  else act c b

/-- Start the command at the head of ring `r` when it may start: its log entry goes to every buddy first (R282). -/
def startCommand (e : Env) (b : Body) (r : RingRef) (w : BitVec 512) (adm : Nat) (fs : List (Nat × Nat))
    (act : Cmd → Body → Body) : Body :=
  if !mayStart e b r w then b
  else
    let hslot := hdrField w 4 11 0
    let slot := (ringSlot r).getD hslot
    let us := if r = .admin ∨ staleHandle e b slot w then [] else buddyUnits b slot
    if !us.isEmpty && (ringAt b r).logAcks != some [] then
      (if (ringAt b r).logAcks.isNone then sendLog b r slot w else b)
    else
      let (u, b) := takeEntry b r w
      acceptCommand ⟨e, r, slot, w, u⟩ adm fs act false b

/-- Start the next logged command of a ring in the replay of a context (R302), as far as the rules of R266 allow: earlier
steps' commands have all started. It writes no record: its ring index is above every real one. -/
def replayCommand (e : Env) (b : Body) (slot r : Nat) (adm : Nat) (fs : List (Nat × Nat)) (act : Cmd → Body → Body) : Body :=
  let l := (ctxAt b slot).led
  match l.replayQ.find? fun x => x.ring == r with
  | none => b
  | some x =>
    let w := BitVec.ofNat 512 (x.w.toNat % 2 ^ 96 + x.w.toNat / 2 ^ 104 * 2 ^ 104)
    let rr := ctxRing slot r
    let ev := hostEvents b slot e.cyc
    if l.replayQ.any (fun y => decide (y.step < x.step)) ∨ !replaying b slot ∨ !powerAllows b rr (hdrField w 0 7 0) ∨
        (hdrField w 1 0 0 = 1 ∧ !(ringAt b rr).fly.isEmpty) ∨ (hdrField w 1 2 2 = 1 ∧ !(ringAt b rr).wevSeen ∧ !(ev.getLsbD (hdrField w 3 5 0))) then b
    else
      let (u, b) := freshUid b
      let f : Flight :=
        { idx := 65536, opc := hdrField w 0 7 0, irq := false, cen := hdrField w 1 1 1 == 1, cev := hdrField w 2 5 0,
          user := BitVec.ofNat 32 (hdrField w 8 31 0), seq := u, done := none }
      let b := modRing b rr fun y => { y with fly := y.fly ++ [f], wevSeen := false }
      let b := modCtx b slot fun c => { c with led := { c.led with replayQ := c.led.replayQ.erase x } }
      acceptCommand ⟨e, rr, slot, w, u⟩ adm fs act true b

end Sys2Proof.Machine
end

