-- ==== Sys2Proof/Machine/Scaffold.lean ====
section
/-! DEFINITION. Scaffold groups and their holders (R277, R357, R358, Tables 10-14 and 13-8). -/

namespace Sys2Proof.Machine

/-- A resource group: type and instance of Table 10-14, as one key. -/
def grpKey (t i : Nat) : Nat := t * 65536 + i

/-- The port at the other end of a die-to-die link (Table 1-2): ports a, b, c of C-die d are 3d to 3d + 2, hub ports 12 + h. -/
def otherEnd (n : Nat) : Nat :=
  if 12 ≤ n then 3 * (n - 12) + 2
  else if n % 3 = 2 then 12 + n / 3
  else if n % 3 = 0 then [3, 0, 9, 6].getD (n / 3) 0
  else [10, 7, 4, 1].getD (n / 3) 0

/-- Does group `g` contain group `h` (R357)? -/
def grpContains (g h : Nat) : Bool :=
  let t := g / 65536
  let i := g % 65536
  let u := h / 65536
  let j := h % 65536
  t == 0 || g == h ||
    (t == 1 && ((u == 2 && j / 9 == i) || (u == 5 && j == i) || (u == 6 && decide (j < 12) && j / 3 == i))) ||
    (t == 8 && u == 3 && j / 2 == i)

/-- Do two groups overlap (R357)? -/
def grpOverlap (g h : Nat) : Bool :=
  grpContains g h || grpContains h g ||
    (g / 65536 == 6 && h / 65536 == 6 && otherEnd (g % 65536) == h % 65536)

/-- Table 13-8: may a held activity share its group with a requested one? -/
def actShare (held req : Nat) : Bool :=
  match held with
  | 2 => [4, 7, 8, 9].contains req
  | 3 | 5 => req == 8
  | 4 => [2, 7, 8].contains req
  | 7 => [2, 4, 8].contains req
  | 8 => [2, 3, 4, 5, 7].contains req
  | 9 => req == 2
  | _ => false

/-- The holder that stands in the way of a request, if any. -/
def blocker (b : Body) (g act : Nat) : Option Holder :=
  b.host.holders.find? fun h => grpOverlap h.group g && !actShare h.act act

/-- Take a group. -/
def takeGroup (b : Body) (h : Holder) : Body := { b with host := { b.host with holders := b.host.holders ++ [h] } }

/-- Take a group when nothing stands in the way. -/
def tryGroup (b : Body) (h : Holder) : Option Body := if (blocker b h.group h.act).isSome then none else some (takeGroup b h)

/-- Release what a predicate names. -/
def releaseWhere (b : Body) (p : Holder → Bool) : Body :=
  { b with host := { b.host with holders := b.host.holders.filter fun h => !p h } }

/-- Release a group held for an activity. -/
def releaseGroup (b : Body) (g act : Nat) (host : Bool) : Body :=
  releaseWhere b fun h => h.group == g && h.act == act && h.host == host

/-- Is a group held for an activity? -/
def holds (b : Body) (g act : Nat) (host : Bool) : Bool :=
  b.host.holders.any fun h => h.group == g && h.act == act && h.host == host

/-- The RESULT of a SCAFFOLD_BUSY (R277). -/
def busyResult (h : Holder) : BitVec 32 := BitVec.ofNat 32 (h.act * 2 ^ 24 + b2n h.host * 2 ^ 23)

/-- Is some scaffold held by a host request (R344, R354)? -/
def hostHolds (b : Body) : Bool := b.host.holders.any (·.host)

end Sys2Proof.Machine
end

