-- ==== Sys2Proof/Machine/Ledger.lean ====
section
/-! DEFINITION. The step ledger (spec 11): declared state and its stack images (R284 to R286), generations, chunks and
manifests (R186, R287, R288), the state blocks a snapshot has still to copy (R289), the seal and what it releases (R297 to
R300). -/

namespace Sys2Proof.Machine

/-- Change the ledger of a context. -/
def modLed (b : Body) (slot : Nat) (f : Ledger → Ledger) : Body := modCtx b slot fun c => { c with led := f c.led }

/-- Change a step record. -/
def modStep (b : Body) (slot n : Nat) (f : StepRec → StepRec) : Body :=
  modLed b slot fun l => { l with step := fmod l.step n f }

/-- Record a ledger reason (Table 11-7, `LASTREASON`). -/
def setReason (b : Body) (slot r : Nat) : Body := modLed b slot fun l => { l with reason := r }

/-- Set the `LEDGER` bit of a context page's error summary (R402, Table 15-7). -/
def ledgerErr (b : Body) (slot : Nat) : Body :=
  { b with dir := errSet b.dir (0x8000 + slot) (2 ^ 7) }

/-- Refuse with status LEDGER and a reason. -/
def ledgerRefuse (b : Body) (c : Cmd) (reason : Nat) : Body :=
  finish (ledgerErr (setReason b c.slot reason) c.slot) c 0x1C (BitVec.ofNat 32 reason)

/-! ### Declared state -/

/-- Put a region into ascending order of address. -/
def insRegion (x : Region) : List Region → List Region
  | [] => [x]
  | y :: ys => if x.addr < y.addr then x :: y :: ys else y :: insRegion x ys

/-- Regions in ascending order. -/
def sortRegions (l : List Region) : List Region := l.foldr insRegion []

/-- The regions of a context in ascending order. -/
def Ledger.sorted (l : Ledger) : List Region := sortRegions l.regions

/-- The module physical address of a context address, when it is mapped to module memory. -/
def modPhys (c : Ctx) (va : Nat) : Option Nat :=
  let x := fget c.xl (va / 2 ^ 21)
  if x.valid ∧ !x.host then some (x.page * 2 ^ 21 + va % 2 ^ 21) else none

/-- The 2 KiB granules of regions, ascending, with their region's buddy form. -/
def regGranules (rs : List Region) : List (Nat × Nat) :=
  rs.flatMap fun r => (List.range (r.len / 2048)).map fun i => (r.addr + 2048 * i, r.bform)

/-- The stack a granule is placed on (R180). -/
def granStack (b : Body) (c : Ctx) (va : Nat) : Option Nat :=
  match (modPhys c va).bind (placeOf b) with
  | some (.hbm s _ _) => some s
  | _ => none

/-- The stack image of regions (R286). -/
def stackImage (b : Body) (slot : Nat) (rs : List Region) (s : Nat) : List (Nat × Nat) :=
  (regGranules rs).filter fun g => granStack b (ctxAt b slot) g.1 == some s

/-- The channels of a stack in service, ascending (R186). -/
def serviceChans (b : Body) (s : Nat) : List Nat := (List.range 32).filter fun ch => chState b s ch == 0

/-- Chunk places of a generation on a stack, M of R186. -/
def chunkPlaces (b : Body) (s : Nat) (chs : List Nat) : Nat := chs.length * 32 * (fget b.mem.stack s).spareIn

/-- Chunk places of a stack less the two of the manifest (R186, R284). -/
def chunkLimit (b : Body) (s : Nat) : Nat := chunkPlaces b s (serviceChans b s) - 2

/-- Is a channel of the spare region out of service: FAILED or MAPPED_OUT? -/
def chanOut (b : Body) (s ch : Nat) : Bool := decide (2 ≤ chState b s ch)

/-- The places of a manifest's copies on the stacks (R288), those on channels out of service left out. -/
def manPlaces (b : Body) (chs : FMap (List Nat)) : List ManCopy :=
  (List.range 8).flatMap fun s =>
    let cl := fget chs s
    let m := chunkPlaces b s cl
    ((if 2 ≤ m then [m - 2, m - 1] else []).map fun p => (⟨s, cl.getD (p % cl.length) 0, p / cl.length⟩ : ManCopy)).filter fun c =>
      !chanOut b c.stack c.chan

/-- Chunks of an image. -/
def imageChunks (n : Nat) : Nat := ceilDiv n 2048

/-- The 64 KiB state blocks of regions. -/
def stateBlocks (rs : List Region) : List Nat := rs.flatMap fun r => span (r.addr / 65536) (r.len / 65536)

/-! ### Snapshots -/

/-- The closed steps whose snapshots have still to start, in order. -/
def Ledger.waitingSnaps (l : Ledger) : List (Nat × StepRec) :=
  l.step.filter fun s => s.2.closed && !s.2.snapDone && !s.2.resetSince && (l.snap.map (·.step)) != some s.1

/-- The declared state that the snapshot in progress records: that of its step's close (R285). -/
def snapRegions (l : Ledger) : List Region := match l.snap with | some s => (fget l.step s.step).regions | none => []

/-- State blocks that a snapshot in progress has not yet copied (R79, R289). -/
def uncopied (c : Ctx) : List Nat :=
  (match c.led.snap with | some s => s.blocks | none => []) ++ c.led.waitingSnaps.flatMap fun s => stateBlocks s.2.regions

/-- Does a module address lie in a state block that a snapshot of some context has not copied (R289)? The context and the
block. -/
def heldBlock (b : Body) (a : Nat) : Option (Nat × Nat) :=
  b.ctx.slot.findSome? fun c => ((uncopied c.2).find? fun k =>
    let x := fget c.2.xl (k * 65536 / 2 ^ 21)
    x.valid && !x.host && decide ((x.page * 2 ^ 21 + k * 65536 % 2 ^ 21) / 65536 = a / 65536)).map fun k => (c.1, k)

/-- The generation that a step's snapshot is written to (R285). -/
def genOfStep (n : Nat) : Nat := n % 2

/-- Nonzero bytes of a granule at a place of its chunk. -/
def sparseBytes (off : Nat) (d : List (BitVec 8)) : List (Nat × BitVec 8) :=
  ((List.range d.length).zip d).filterMap fun x => if x.2 = 0 then none else some (off + x.1, x.2)

/-- The bytes of a chunk. -/
def GenChunk.dense (x : GenChunk) : List (BitVec 8) := (List.range x.len).map fun i => fget x.data i

/-- Is a line poisoned as Undercoat reads it: in the tier itself, in the fallback of a channel out of service, or, of a FAILED
channel, in the stratum's copy if there is one (R185, R191, R193)? -/
def srcPoison (b : Body) (a : Nat) : Bool :=
  match placeOf b a with
  | some (.hbm s ch _) =>
    if fget (fget b.mem.str (a / 2 ^ 38)).fb (a / 2048) then fget b.mem.spoison (a / 64)
    else if chState b s ch = 2 then !framed b (a / 64) || fget b.mem.spoison (a / 64)
    else fget b.mem.poison (a / 64)
  | _ => true

/-- Copy granule `va`, number `i` of stack `s`'s image, into a generation record: the stack is read, not the stratum (R191), and a
poisoned line is copied as one (R185). -/
def copyGranule (e : Env) (b : Body) (slot gen s i va : Nat) : Body :=
  match modPhys (ctxAt b slot) va with
  | none => b
  | some a =>
    let b := (span (a / 64) 32).foldl (fun b l => if serveRead b (64 * l) = .dead then b else findLine e none true b l) b
    let d := b.mem.read a 2048
    let po := (List.range 32).filter fun k => srcPoison b (a + 64 * k)
    let c := i / 2048
    let ins (x : GenChunk) : GenChunk :=
      { x with data := sparseBytes (i % 2048 * 2048) d ++ x.data, poison := x.poison ++ po.map (i % 2048 * 32 + ·) }
    modLed b slot fun l =>
      let g := fget l.gens gen
      let chunks := if g.chunks.any (fun x => x.stack == s && x.idx == c) then
          g.chunks.map fun x => if x.stack = s ∧ x.idx = c then ins x else x
        else g.chunks ++ [ins { stack := s, idx := c, chan := 0, data := [], len := 0, poison := [], missing := false,
                                digest := [], narrow := [] }]
      { l with gens := fset l.gens gen { g with chunks := chunks } }

/-- Mark granules copied; a block all of whose granules are copied leaves the list (R289). -/
def markCopied (b : Body) (slot : Nat) (gs : List Nat) : Body :=
  modLed b slot fun l => { l with snap := l.snap.map fun s =>
    let cp := s.copied ++ gs.map (· / 2048)
    { s with copied := cp, blocks := s.blocks.filter fun k => !((span (32 * k) 32).all cp.contains) } }

/-- Is a granule already copied in this snapshot? -/
def Snap.has (s : Snap) (va : Nat) : Bool := s.copied.contains (va / 2048)

/-- The narrow bytes of a granule (R295): MXFP8 elements under the CEIL rule, then the scale bytes. -/
def narrowGranule (form : Nat) (d : List (BitVec 8)) : List (BitVec 8) :=
  let t : Target := if form = 1 then .mx fE4M3 else .mx fE5M2
  let words := (List.range 512).map fun i => bytesAt d (4 * i) 4
  let bl := (chunksOf 16 32 words).map fun ws => mxBlock t true .rne (List.replicate 32 0) (ws.map dec32)
  packBits 8 (bl.flatMap fun x => x.2.map (·.1)) ++ bl.map fun x => BitVec.ofNat 8 x.1

/-- The bytes of a chunk as buddies get them: narrow where the region's form is. -/
def chunkNarrow (img : List (Nat × Nat)) (x : GenChunk) (d : List (BitVec 8)) : List (BitVec 8) :=
  ((List.range 2048).zip ((img.drop (2048 * x.idx)).take 2048)).flatMap fun g =>
    let gd := (d.drop (2048 * g.1)).take 2048
    if g.2.2 = 0 then gd else narrowGranule g.2.2 gd

/-- Is some region streamed in narrow form? -/
def hasNarrow (rs : List Region) : Bool := rs.any (·.bform != 0)

/-- A chunk as buddies get it (R294, R295). -/
def mirrorBytes (img : List (Nat × Nat)) (x : GenChunk) : List (BitVec 8) :=
  if x.narrow.isEmpty then x.dense else chunkNarrow img x x.dense

/-- Undercoat completes the next chunk of stack `s` (R286, R287): the granules not yet copied by push-ahead are copied, the
digest is formed, and the chunk is streamed to every buddy. A chunk without a place, or whose channel is out of service, is missing
(R186, R291). -/
def completeChunk (e : Env) (b : Body) (slot s : Nat) : Body :=
  match (ctxAt b slot).led.snap with
  | none => b
  | some sn =>
    let c := ((sn.chunkNext.find? (·.1 == s)).map (·.2)).getD 0
    let rs := snapRegions (ctxAt b slot).led
    let img := stackImage b slot rs s
    let gs := ((List.range img.length).zip img |>.drop (2048 * c)).take 2048
    if !sn.stackHeld.contains s ∨ gs.isEmpty then b
    else
      let gen := genOfStep sn.step
      let todo := gs.filter fun g => !sn.has g.2.1
      let b := todo.foldl (fun b g => copyGranule e b slot gen s g.1 g.2.1) b
      let b := markCopied b slot (todo.map (·.2.1))
      let chs := fget (fget (ctxAt b slot).led.gens gen).chs s
      let ch := chs.getD (c % chs.length) 0
      let gone := decide (chunkPlaces b s chs ≤ c + 2) || chanOut b s ch
      let b := modLed b slot fun l =>
        let g := fget l.gens gen
        let upd (x : GenChunk) : GenChunk :=
          if x.stack = s ∧ x.idx = c then
            let x := { x with len := 2048 * gs.length, chan := ch, missing := gone }
            { x with digest := sha256 x.dense, narrow := if hasNarrow rs then sha256 (chunkNarrow img x x.dense) else [] }
          else x
        let next := (sn.chunkNext.filter (·.1 != s)) ++ [(s, c + 1)]
        { l with gens := fset l.gens gen { g with chunks := g.chunks.map upd },
                 snap := l.snap.map fun q => { q with chunkNext := next } }
      let x := ((fget (ctxAt b slot).led.gens gen).chunks.find? fun x => x.stack == s && x.idx == c)
      match x with
      | none => b
      | some x =>
        let b := (buddyUnits b slot).foldl (fun b u => sendJob b slot (.mirrorChunk u sn.step s c (mirrorBytes img x))) b
        if imageChunks img.length ≤ c + 1 then
          modLed (releaseGroup b (grpKey 3 s) 4 false) slot fun l => { l with snap := l.snap.map fun q =>
            { q with stackDone := q.stackDone ++ [s], stackHeld := q.stackHeld.filter (· != s) } }
        else b

/-- Push-ahead copies one state block out of turn (R289). -/
def pushBlock (e : Env) (b : Body) (slot k : Nat) : Body :=
  match (ctxAt b slot).led.snap with
  | none => b
  | some sn =>
    let gen := genOfStep sn.step
    let todo := (List.range 8).flatMap fun s =>
      let img := stackImage b slot (snapRegions (ctxAt b slot).led) s
      (((List.range img.length).zip img).filter fun g => g.2.1 / 65536 == k && !sn.has g.2.1).map fun g => (s, g.1, g.2.1)
    markCopied (todo.foldl (fun b g => copyGranule e b slot gen g.1 g.2.1 g.2.2) b) slot (todo.map (·.2.2))

/-- The state block that push-ahead holds a write for, if any (R289): its context and block. -/
def segsHeld (b : Body) (gs : List Seg) : Option (Nat × Nat) :=
  gs.findSome? fun g => if g.host ∨ g.len = 0 then none else (heldBlock b g.addr).or (heldBlock b (g.addr + g.len - 1))

/-- The line writes of a write that push-ahead holds. -/
def heldLines (b : Body) (gs : List Seg) : Nat :=
  (gs.map fun g => if g.host then 0
    else ((linePieces (g.len / 64 + 2) g.addr g.len).filter fun p => (heldBlock b p.1).isSome).length).sum

/-- A write at the memory controllers (R196, R289): held while its state block is not copied, and counted once in
`CTX_PUSHCNT`; not served while its channel retrains without a fallback. The flag says whether it was made. -/
def tryPut (e : Env) (b : Body) (slot : Option Nat) (uid j : Nat) (gs : List Seg) (d : List (BitVec 8)) (poison : Bool) : Body × Bool :=
  match segsHeld b gs with
  | some (s, _) =>
    if b.mem.held.contains (uid, j) then (b, false)
    else
      let b := modLed b s fun l => { l with pushCnt := satAdd 0xFFFFFFFF l.pushCnt (heldLines b gs) }
      ({ b with mem := { b.mem with held := b.mem.held ++ [(uid, j)] } }, false)
  | none => match putSegs e slot poison b gs d with
    | some b => ({ b with mem := { b.mem with held := b.mem.held.filter (· != (uid, j)) } }, true)
    | none => (b, false)

/-- Write a command's own result, and complete the command when there is one; a write that its controller holds waits. -/
def resPut (e : Env) (b : Body) (x : ResWrite) : Body :=
  let (b, done) := tryPut e b x.slot x.uid 0 x.segs x.data x.poison
  if done then (match x.fin with | some (r, q) => finishSeq b r q 0x00 0 | none => b)
  else { b with host := { b.host with results := b.host.results ++ [x] } }

/-- The same for a new result. -/
def cmdPut (e : Env) (b : Body) (slot : Option Nat) (gs : List Seg) (d : List (BitVec 8)) (poison : Bool) (fin : Option (RingRef × Nat)) : Body :=
  let (u, b) := freshUid b
  resPut e b ⟨u, slot, gs, d, poison, fin⟩

/-- The controllers serve what they still hold, oldest first. -/
def resultsTry (e : Env) (b : Body) : Body :=
  b.host.results.foldl (resPut e) { b with host := { b.host with results := [] } }

/-- Push-ahead copies a block that holds a write, once its snapshot has started and the stack's scaffold is held (R289,
R290). -/
def pushAhead (e : Env) (b : Body) (slot k : Nat) : Body :=
  let c := ctxAt b slot
  match c.led.snap with
  | none => b
  | some sn =>
    let ss := (List.range 32).filterMap fun i => granStack b c (65536 * k + 2048 * i)
    if ss.all fun s => sn.stackHeld.contains s || sn.stackDone.contains s then pushBlock e b slot k else b

/-- Take the stack scaffold a snapshot needs, when it is granted (R290); the stack's part of the generation begins, with the
channels in service now (R186). -/
def snapTake (b : Body) (slot s : Nat) : Body :=
  match (ctxAt b slot).led.snap with
  | none => b
  | some sn =>
    if sn.stackHeld.contains s ∨ sn.stackDone.contains s ∨ (stackImage b slot (snapRegions (ctxAt b slot).led) s).isEmpty then b
    else match tryGroup b ⟨grpKey 3 s, 4, false, none, BitVec.ofNat 64 slot⟩ with
      | some b => modLed b slot fun l =>
        { l with
          snap := l.snap.map fun q => { q with stackHeld := q.stackHeld ++ [s] }
          gens := fmod l.gens (genOfStep sn.step) fun g => { g with chs := fset g.chs s (serviceChans b s) } }
      | none => b

/-- The snapshot of the first waiting closed step starts (R285): the step before it is sealed or was never opened, so that no record
of it is kept, and no readout of the target generation runs. -/
def snapStart (b : Body) (slot : Nat) : Body :=
  let l := (ctxAt b slot).led
  match l.snap, l.waitingSnaps.head? with
  | none, some (n, r) =>
    let okPrev := !(fget l.step (n - 1)).used
    let okRead := l.readout.all fun q => q.gen != genOfStep n
    if okPrev && okRead then
      let b := modLed b slot fun l =>
        { l with
          snap := some { step := n, copied := [], stackDone := [], stackHeld := [], blocks := stateBlocks r.regions, chunkNext := [] }
          gens := fset l.gens (genOfStep n) { (default : GenRec) with st := .writing, step := n } }
      (List.range 8).foldl (fun b s => snapTake b slot s) b
    else b
  | _, _ => b

/-! ### Manifests (R288, Table 11-1) -/

/-- Chunks in the order of the manifest: stack 0 first, ascending within each stack. -/
def orderChunks (cs : List GenChunk) : List GenChunk :=
  (List.range 8).flatMap fun s =>
    let mine := cs.filter (·.stack == s)
    (List.range mine.length).filterMap fun i => mine.find? (·.idx == i)

/-- The pages of the regions, in region order. -/
def manifestPages (c : Ctx) (rs : List Region) : List Nat :=
  rs.flatMap fun r => (span (r.addr / 2 ^ 21) ((r.addr + r.len - 1) / 2 ^ 21 + 1 - r.addr / 2 ^ 21)).map fun v =>
    (fget c.xl v).page * 2 ^ 21

/-- Little-endian bytes of a number. -/
def le (n v : Nat) : List (BitVec 8) := (leBytes n v).map (BitVec.ofNat 8)

/-- The manifest of a generation of the state in regions `regs`. `fl` are the flags that do not follow from the chunks. -/
def manifestOf (b : Body) (slot : Nat) (regs : List Region) (step fl cause : Nat) (cs : List GenChunk) : List (BitVec 8) :=
  let c := ctxAt b slot
  let cs := orderChunks cs
  let nar := hasNarrow regs
  let starts := (List.range regs.length).map fun i =>
    ((regs.take i).map fun r => (r.addr + r.len - 1) / 2 ^ 21 + 1 - r.addr / 2 ^ 21).sum
  let regBytes := (regs.zip starts).flatMap fun r =>
    le 8 r.1.addr ++ le 8 r.1.len ++ le 1 r.1.cls ++ le 1 r.1.bform ++ le 2 0 ++ le 4 r.2 ++ le 8 0
  let pages := manifestPages c regs
  let shard := sha256 (cs.flatMap (·.digest))
  let nshard := if nar then sha256 (cs.flatMap (·.narrow)) else List.replicate 32 0
  let schunk := (List.range 8).flatMap fun s => le 2 ((cs.filter (·.stack == s)).length)
  let mask := (List.range 8).flatMap fun s =>
    le 4 (((List.range 32).map fun k => if chState b s k = 3 then 2 ^ k else 0).sum)
  let head (md : List (BitVec 8)) : List (BitVec 8) :=
    le 4 0x4E4D4C49 ++ le 1 c.id.ldg ++ le 1 (fl + 4 * b2n nar) ++ le 1 cause ++ le 1 (genOfStep step) ++ le 8 step ++
      le 4 c.id.job ++ le 4 (ownUnit b) ++ le 4 regs.length ++ le 4 pages.length ++ le 4 cs.length ++
      le 4 (if nar then cs.length else 0) ++ shard ++ nshard ++ schunk ++ mask ++ le 8 c.led.lstep ++ List.replicate 64 0 ++ md
  let tail := regBytes ++ pages.flatMap (le 8) ++ cs.flatMap (·.digest) ++ (if nar then cs.flatMap (·.narrow) else [])
  head (sha256 (head (List.replicate 32 0) ++ tail)) ++ tail

/-- The manifest with another flags byte, its digest formed again (R299). -/
def manifestFlag (m : List (BitVec 8)) (fl : Nat) : List (BitVec 8) :=
  let m0 := m.take 5 ++ [BitVec.ofNat 8 (bytesAt m 5 1 ||| fl)] ++ (m.drop 6).take 218
  m0 ++ sha256 (m0 ++ List.replicate 32 0 ++ m.drop 256) ++ m.drop 256

/-- Does a manifest verify (R288)? -/
def manifestOk (m : List (BitVec 8)) : Bool :=
  decide (256 ≤ m.length) && (m.drop 224).take 32 == sha256 (m.take 224 ++ List.replicate 32 0 ++ m.drop 256)

/-- Can a generation's manifest be read and verified: one of its copies at least (R288)? -/
def GenRec.readable (g : GenRec) : Bool := !g.copies.isEmpty && manifestOk g.manifest

/-- Are all stacks with state complete? -/
def snapAll (b : Body) (slot : Nat) (s : Snap) : Bool :=
  (List.range 8).all fun k => (stackImage b slot (snapRegions (ctxAt b slot).led) k).isEmpty || s.stackDone.contains k

/-- The last block is copied: the manifest is written on every stack, the generation is complete (R288). What the ledger has already
found against the step stays (R294, R297). -/
def snapDone (b : Body) (slot : Nat) : Body :=
  let c := ctxAt b slot
  match c.led.snap with
  | none => b
  | some sn =>
    if !snapAll b slot sn then b
    else
      let gen := genOfStep sn.step
      let g := fget c.led.gens gen
      let r := fget c.led.step sn.step
      let fl := 2 * b2n c.led.lineageNow + 8 * b2n r.noReplay + 16 * b2n (c.led.restart != 0)
      let m := manifestOf b slot r.regions sn.step fl c.led.restart g.chunks
      let miss := g.chunks.any fun x => x.missing || !x.poison.isEmpty
      let chs := (List.range 8).foldl (fun (f : FMap (List Nat)) s => if (fget f s).isEmpty then fset f s (serviceChans b s) else f) g.chs
      let dg := (orderChunks g.chunks).map (·.digest)
      let b := modLed b slot fun l =>
        { l with
          snap := none
          gens := fset l.gens gen { g with st := .complete, miss := (g.chunks.filter (·.missing)).length, manifest := m, chs := chs, copies := manPlaces b chs }
          step := fmod l.step sn.step fun r =>
            { r with snapDone := true, snapBad := r.snapBad || miss, digests := dg, snapAcks := l.buddies.map (·.unit) } }
      (buddyUnits b slot).foldl (fun b u => sendJob b slot (.mirrorManifest u sn.step m)) b

/-! ### Replay comparison (R300) -/

/-- The adjudication of a refused step (R325): a member whose own step was clean, or dirty for checker disagreements only,
keeps its first run and waits for a second; one under way for this step goes on as its last decision left it. -/
def adjEnter (n : Nat) (r : StepRec) (a : Adj) : Adj :=
  if a.step = n ∧ a.run ≠ 0 then a
  else if r.dirtyOther ∨ r.resetSince ∨ !r.snapDone then a
  else { (default : Adj) with run := 1, step := n, firstDirty := r.dirtyChecker, firstList := r.disagree, firstDig := r.digests }

/-- Keep the chunk digests of a refused step, once its snapshot has formed them (R300). -/
def keepDigests (n : Nat) (l : Ledger) : Ledger :=
  let r := fget l.step n
  if r.snapDone then { l with kept := (l.kept.filter (·.1 != n)) ++ [(n, r.digests)], adj := adjEnter n r l.adj } else l

/-- The snapshot of a step is complete: a replayed one's digests are compared with the kept ones of the refused run; of a step refused
already, they are kept (R300). -/
def compareKept (b : Body) (slot n : Nat) : Body :=
  modLed b slot fun l =>
    let r := fget l.step n
    let l := match l.kept.find? (·.1 == n) with
      | none => l
      | some k => { l with cmp := if k.2 = r.digests then 1 else 2 }
    if r.refused then keepDigests n l else l

/-! ### Seals (R297 to R299) -/

/-- Micro-batch tags a context still needs: retention slots and replay buffers of unsealed steps (R178). -/
def tagsNeeded (c : Ctx) : List Nat :=
  (c.ret.slot.filter fun s => s.2.st != .free).map (·.2.tag) ++
    (c.led.step.flatMap fun s => (s.2.rb.filter (·.tag != 0xFF)).map (·.tag))

/-- Give back every tag that nothing bears any more. -/
def dropTags (b : Body) (slot : Nat) : Body :=
  modCtx b slot fun c =>
    let need := tagsNeeded c
    { c with ret := { c.ret with tags := (List.range 64).foldl (fun (t : BitVec 64) k =>
        if need.contains k then t else t &&& ~~~evMask k) c.ret.tags } }

/-- What a buddy refused of the steps that a predicate names. -/
def Buddy.keepTo (p : Nat → Bool) (y : Buddy) : Buddy :=
  { y with refusedOnce := y.refusedOnce.filter fun k => p (k / 2 ^ 19), failed := y.failed.filter p }

/-- Step `n` is sealed at this member (R299). -/
def sealStep (b : Body) (slot n : Nat) : Body :=
  let b := modLed b slot fun l =>
    let gen := genOfStep n
    let g := fget l.gens gen
    { l with
      sealedStep := max l.sealedStep n
      seals := l.seals ++ [n]
      remoteSealed := l.remoteSealed.filter (· != n)
      buddies := l.buddies.map (Buddy.keepTo fun k => k != n)
      step := fdel l.step n
      kept := l.kept.filter (·.1 != n)
      adj := if l.adj.step = n then default else l.adj
      gens := if g.step = n then fset l.gens gen { g with st := .sealed, manifest := manifestFlag g.manifest 1 } else l.gens }
  let b := (buddyUnits b slot).foldl (fun b u => sendJob b slot (.mirrorSealed u n)) b
  dropTags b slot

/-- Step `n` is refused: it stays unsealed, its digests are kept, and STEP_REFUSED is raised (R300, R325, Table 12-16). -/
def refuseStep (e : Env) (b : Body) (slot n : Nat) : Body :=
  let b := modLed (modStep b slot n fun r => { r with refused := true }) slot (keepDigests n)
  moduleEvent e (ledgerErr b slot) 0x02 0 0 (handleOf e b slot) 0 n

/-- The peers below `p` in the tree over a route set. -/
def treeKids (c : Ctx) (set p : Nat) : List Nat :=
  (span (16 * p + 1) 16).filter fun q => (fget (fget c.far.sets set) q).getLsbD 31

/-- The unit a set names for a peer. -/
def setUnit (c : Ctx) (set p : Nat) : Nat := entryUnit (fget (fget c.far.sets set) p)

/-- This module's peer id in a set. -/
def setOwn (b : Body) (c : Ctx) (set : Nat) : Option Nat :=
  ((fget c.far.sets set).find? fun x => x.2.getLsbD 31 && !entryGroup x.2 && entryUnit x.2 == b.fab.addr).map (·.1)

/-- The tree that a step's agreement runs over, as the route set stands when STEP_OPEN records it (R241, R298). -/
def stepTree (b : Body) (slot : Nat) (r : StepRec) : StepRec :=
  let c := ctxAt b slot
  let p := if c.id.job = 0 then none else setOwn b c r.routeSet
  { r with
    own := p
    up := setUnit c r.routeSet ((p.getD 0 - 1) / 16)
    kids := match p with | some p => (treeKids c r.routeSet p).map fun q => (q, setUnit c r.routeSet q) | none => [] }

/-- A decision reaches this member: pass it down and act (R298, R299). It is made once. -/
def decideStep (e : Env) (b : Body) (slot n : Nat) (sealed : Bool) : Body :=
  let r := fget (ctxAt b slot).led.step n
  if !r.used ∨ r.refused then b
  else
    let b := r.kids.foldl (fun b q => sendJob b slot (.sealDecision q.2 n sealed)) b
    if sealed then sealStep b slot n else refuseStep e b slot n

/-- Act on the reports of step `n` (R298): DIRTY goes up the tree, or decides at peer 0, as soon as one is in; CLEAN once this member's
and its children's are. -/
def sealTry (e : Env) (b : Body) (slot n : Nat) : Body :=
  let r := fget (ctxAt b slot).led.step n
  let dirty := r.report == some false || r.reports.any (!·.2)
  let all := r.report.isSome && r.kids.all fun q => r.reports.any (·.1 == q.1)
  if !dirty && !all then b
  else if r.own.getD 0 = 0 then decideStep e b slot n (!dirty)
  else if r.sentUp then b
  else sendJob (modStep b slot n fun r => { r with sentUp := true }) slot (.seal r.up n (!dirty))

/-- Report a step (R297). -/
def reportStep (e : Env) (b : Body) (slot n : Nat) (clean : Bool) : Body :=
  let r := fget (ctxAt b slot).led.step n
  if !r.used ∨ r.report.isSome then b else sealTry e (modStep b slot n fun r => { r with report := some clean }) slot n

/-- Is the step clean at this member (R297)? -/
def stepClean (r : StepRec) : Bool :=
  r.closed && !r.dirtyOther && !r.dirtyChecker && r.snapDone && !r.snapBad && r.rbAcks.isEmpty && r.snapAcks.isEmpty && !r.resetSince

/-- Is it certain that step `n` is not clean? -/
def stepDirty (l : Ledger) (n : Nat) : Bool :=
  let r := fget l.step n
  r.closed && (r.dirtyOther || r.dirtyChecker || r.snapBad || r.resetSince || l.buddies.any (·.failed.contains n))

/-! ### Retention slots (R177) -/

/-- Free the retention slots a predicate names. -/
def freeRet (b : Body) (slot : Nat) (p : Nat → RetSlot → Bool) : Body :=
  modCtx b slot fun c => { c with ret := { c.ret with slot := c.ret.slot.filter fun s => !p s.1 s.2 } }

/-- Granules of the pool that a slot holds. -/
def retUsed (c : Ctx) : List Nat := c.ret.slot.flatMap fun s => span s.2.off s.2.gran

/-- The lowest run of `n` free granules of the pool. -/
def retRoom (c : Ctx) (n : Nat) : Option Nat :=
  let used := retUsed c
  (List.range (c.ret.size + 1 - n)).find? fun o => (span o n).all fun g => !used.contains g

end Sys2Proof.Machine
end

