-- ==== Sys2Proof/Machine/Reset.lean ====
section
/-! DEFINITION. Context resets (R50, R51, R261, R310 to R316, Table 12-5), the end of the bank scrub, context destruction
(R412), and Squall. -/

namespace Sys2Proof.Machine

/-! ### Ports and Squall -/

/-- Is a port UP? -/
def portUp (b : Body) (p : Nat) : Bool := (fget b.fab.port p).st == 1
/-- Planes with an UP port. -/
def upPlanes (b : Body) : List Nat := (List.range 3).filter fun q => portUp b (2 * q) || portUp b (2 * q + 1)

/-- The units a context's loaded route sets name (R314). -/
def routeUnits (b : Body) (c : Ctx) : List Nat :=
  (c.far.sets.flatMap fun s => s.2.flatMap fun x => if x.2.getLsbD 31 then entryUnits b x.2 else []).eraseDups

/-- Causes that send Squall (Table 12-2). -/
def sendsSquall (cause : Nat) : Bool := !([0x01, 0x02, 0x11, 0x16].contains cause)

/-- Send one Squall frame to a unit on every plane with an UP port. -/
def squallTo (e : Env) (b : Body) (job origin oh cause step : Nat) (relayed : Bool) (pw : BitVec 32) (u : Nat) : Body :=
  let _ := e
  (upPlanes b).foldl (fun b q => sendFrame b (.squall u q job origin oh cause relayed step pw)) b

/-- The Squall of a context reset (R314). -/
def emitSquall (e : Env) (b : Body) (c : Ctx) (handle cause : Nat) : Body :=
  if c.id.job = 0 ∨ !sendsSquall cause ∨ c.con.role = 2 then b
  else
    let us := (routeUnits b c ++ if c.con.role = 1 then [c.con.peer] else []).eraseDups.filter (· != ownUnit b)
    us.foldl (squallTo e · c.id.job (ownUnit b) handle cause (stepNum c) false e.pwrOn) b

/-! ### What a reset removes from panels -/

/-- The physical panels on which a context holds threads. -/
def ctxPanels (b : Body) (slot : Nat) : List Nat :=
  (b.panel.filter fun p => p.2.seq.thr.any fun t => t.2.st != .free && t.2.slot == slot).map (·.1)

/-- An LDT whose context is reset (R50, R51): of its tiles only those whose memory requests are out can still return; the tags of
the others are given back now. Mitre sends the requests of an LDT's first two tiles at issue, and of a later one when a tile
buffer is free (R164). -/
def LdtOp.killed (x : LdtOp) (held : Nat) : LdtOp × Nat :=
  let sent := min x.tiles (max 2 (x.next + (2 - held)))
  let f := x.tags * (x.tiles - sent) / (x.tiles - x.done)
  ({ x with tiles := sent, tags := x.tags - f }, f)

/-- The context's threads enter KILLING and its work leaves the engines (R50 steps 1 and 2, R114, R313). Loads, stores and tiles
whose requests are out stay until they return (R51); a store still reading stops. -/
def Panel.kill (p : Panel) (slot : Nat) : Panel :=
  let mine (i : Ins) : Bool := i.slot == slot
  let stop := p.store.filter fun s => mine s.ins && decide (s.read < s.n)
  let ldt := p.ldt.map fun x => if mine x.ins then x.killed p.mitreHeld.length else (x, 0)
  let p := p.giveTags ((stop.map (·.tags)).sum + (ldt.map (·.2)).sum)
  let mit := p.seq.mitre == some slot
  let trw := p.seq.trowel == some slot
  { p with
    seq := { p.seq with thr := fmapVals p.seq.thr fun _ t => if t.slot = slot ∧ t.st ≠ .free then { t with st := .killing } else t }
    latch := if trw then [] else p.latch
    hod := p.hod.filter fun h => h.2.slot != slot
    loadw := p.loadw.filter fun x => !mine x.ins
    pass := p.pass.filter fun x => !mine x.ins
    chain := p.chain.filter fun x => !mine x.ins
    fill := p.fill.filter fun x => !mine x.ins
    skimBusy := if p.seq.skim = some slot then 0 else p.skimBusy
    mitreLast := if mit then 0 else p.mitreLast
    mitreHeld := if mit then [] else p.mitreHeld
    ldt := ldt.map (·.1)
    store := p.store.filter fun s => !(mine s.ins && decide (s.read < s.n))
    scalar := p.scalar.filter fun x => !mine x.ins
    wq := p.wq.filter fun x => !mine x.ins
    later := p.later.filter fun x => !mine x.ins
    pendq := p.pendq.filter fun x => !mine x.ins }

/-- Release what a context owns on a panel (R50 step 4). -/
def Panel.release (p : Panel) (slot : Nat) : Panel :=
  let banks := (p.seq.bank.filter fun x => x.2 == some slot).map (·.1)
  let p := p.scrubBanks banks
  let ths := (p.seq.thr.filter fun t => t.2.slot == slot && t.2.st != .free).map (·.1)
  let q := p.seq
  { p with seq := { q with
      roller := q.roller.filter fun x => !(match x.2 with | some t => ths.contains t | none => false)
      thr := q.thr.filter fun t => !ths.contains t.1
      bank := q.bank.filter fun x => x.2 != some slot
      sealed := q.sealed.filter fun g => !banks.contains (16 * g.1)
      trowel := if q.trowel = some slot then none else q.trowel
      skim := if q.skim = some slot then none else q.skim
      mitre := if q.mitre = some slot then none else q.mitre } }

/-! ### Destruction -/

/-- Free the stratum frames that hold pages a context has pinned, as a predicate on module pages names them (R191). -/
def unpin (b : Body) (slot : Nat) (pg : Nat → Bool) : Body :=
  { b with mem := { b.mem with str := fmapVals b.mem.str fun _ s =>
      { s with pinned := s.pinned.filter fun p => !(p.1 == slot && pg p.2) } } }

/-- The slot becomes FREE (R259, R412): the generation advances, the context's generations are discarded. -/
def freeSlot (b : Body) (slot : Nat) : Body :=
  let b := unpin (advGen b slot) slot fun _ => true
  { b with ctx := { b.ctx with slot := fdel b.ctx.slot slot, freed := b.ctx.freed ++ [slot],
                               jobs := b.ctx.jobs.filter (·.slot != slot) } }

/-- The DIRTY reports of R412: closed steps not sealed and not reported, and the open step. -/
def reportAllDirty (e : Env) (b : Body) (slot : Nat) : Body :=
  let l := (ctxAt b slot).led
  let ns := (l.step.filter fun s => s.2.report.isNone && (s.2.closed || l.openStep == some s.1)).map (·.1)
  ns.foldl (fun b n => reportStep e b slot n false) b

/-- The context is HALTED (R50 step 4 on every panel): waiting CTX_RESETs complete; a dying context leaves its slot. -/
def haltCtx (e : Env) (b : Body) (slot : Nat) : Body :=
  let c := ctxAt b slot
  let b := modCtx b slot fun c => { c with id := { c.id with st := .halted, resetting := false, scrubs := [], resetFly := [] } }
  let b := c.id.resetFly.foldl (fun b x => finishSeq b .admin x.2 0x00 0) b
  if c.id.dying then freeSlot (reportAllDirty e b slot) slot else b

/-! ### The reset itself -/

/-- The fault record of a cause (R311, R312, Table 12-3). -/
def faultRec (e : Env) (b : Body) (r : FaultReq) : FaultRec :=
  { cause := r.cause, th := r.th, die := r.die, slotc := r.slotc, baddr := r.baddr, handle := handleOf e b r.slot,
    unit := r.unit, oper := r.oper, step := stepNum (ctxAt b r.slot), pwrOn := e.pwrOn, tick := e.clk.tick,
    temp := tempWord b r.die, vrail := voltWord b r.die, origin := r.origin.getD (ownUnit b), detail := r.detail }

/-- End every command of a ring and write its ring-reset record (R261). -/
def resetRing (e : Env) (b : Body) (r : RingRef) : Body :=
  let x := ringAt b r
  if !x.present then b
  else
    let b := x.fly.foldl (fun b f => completeFlight e b r { f with done := some (f.done.getD (0x18, 0)) } 0) b
    let b := modRing b r fun y => { y with head := y.tail, wevSeen := false, logAcks := none }
    writeRecord e b r 3 0x18 x.tail (BitVec.ofNat 32 x.head) 0 true

/-- Far loads and stores of a reset context none of whose packets is out any more return their tags and leave the panel. -/
def Panel.farSettled (p : Panel) (out : List OutPkt) (slot : Nat) : Panel :=
  let isPut (k : StKind) : Bool := match k with | .fput _ => true | _ => false
  let isGet (k : LdKind) : Bool := match k with | .fget _ => true | _ => false
  let covers (q : OutPkt) (u i : Nat) : Bool := q.uid == u && decide (q.key / 65536 ≤ i ∧ i < q.key / 65536 + q.key % 65536)
  let gone (s : StoreOp) : Bool := s.ins.slot == slot && isPut s.kind && s.read == s.n && !(out.any (·.uid == s.ins.uid))
  let trim (x : LoadOp) : LoadOp :=
    if x.ins.slot = slot ∧ isGet x.kind then
      { x with todo := x.todo.filter fun l => x.got.any (·.1 == l.idx) || out.any fun q => covers q x.ins.uid l.idx }
    else x
  let ls := p.load.map trim
  let p := p.giveTags (((p.store.filter gone).map (·.tags)).sum + ((ls.filter (·.todo.isEmpty)).map (·.tags)).sum)
  { p with store := p.store.filter fun s => !(gone s), load := ls.filter fun x => !x.todo.isEmpty }

/-- Packets of a context that have not left the port engine are discarded and counted; its reductions end (Table 12-5). -/
def dropFar (b : Body) (slot : Nat) : Body :=
  let n := (b.fab.out.filter fun q => q.slot == slot && q.sends == 0).length
  let out := b.fab.out.filter fun q => !(q.slot == slot && q.sends == 0)
  { b with panel := fmapVals b.panel fun _ p => p.farSettled out slot
           fab := { b.fab with out := out, puts := b.fab.puts.filter (·.slot != slot),
                               discard := satAdd 0xFFFFFFFF b.fab.discard n,
                               red := b.fab.red.filter (·.slot != slot), contrib := b.fab.contrib.filter (·.slot != slot) } }

/-- The ledger's part of a reset: the snapshot stops, the readout ends, every step not sealed can no longer be clean. -/
def ledgerReset (b : Body) (slot : Nat) : Body :=
  let l := (ctxAt b slot).led
  let b := match l.snap with
    | some s => s.stackHeld.foldl (fun b k => releaseGroup b (grpKey 3 k) 4 false) b
    | none => b
  let b := l.readout.foldl (fun b r => finishSeq b .admin r.seq 0x18 0) b
  modLed b slot fun l =>
    { l with
      gens := match l.snap with
        | some s => fmod l.gens (genOfStep s.step) fun g => { g with st := .invalid }
        | none => l.gens
      snap := none
      readout := []
      waits := []
      replay := none
      replayQ := []
      step := fmapVals l.step fun _ r => { r with resetSince := true } }

/-- Shadowing ends at one module (R342): the record of its end, and CONTRAIL_END. -/
def contrailOver (e : Env) (b : Body) (slot code : Nat) : Body :=
  let b := modCtx b slot fun c => { c with con := { c.con with active := false, ended := code, hits := 0, step := 0 } }
  moduleEvent e b 0x0C code 0 (handleOf e b slot) (ctxAt b slot).con.peer 0

/-- One context reset (R261, R313); its pinned pages leave their frames (R191). -/
def resetContext (e : Env) (b : Body) (r : FaultReq) : Body :=
  let slot := r.slot
  let c := ctxAt b slot
  let fr := faultRec e b r
  let h := handleOf e b slot
  let b := modCtx b slot fun c =>
    if c.fault.length < 4 then { c with fault := c.fault ++ [fr] } else { c with faultOvf := satAdd 0xFFFF c.faultOvf 1 }
  let b := moduleEvent e b 0x01 r.cause 0 h fr.origin fr.step
  let b := emitSquall e b c h r.cause
  let b := if c.con.role = 1 ∧ c.con.active then contrailOver e b slot 4 else b
  let ks := ctxPanels b slot
  let b := ks.foldl (fun b k => modPanel b k fun p => p.kill slot) b
  let b := advGen b slot
  let b := ledgerReset b slot
  let b := unpin (dropTags (freeRet b slot fun _ _ => true) slot) slot fun _ => true
  let b := (ctxRings slot).foldl (resetRing e) (dropFar b slot)
  let b := { b with ctx := { b.ctx with jobs := b.ctx.jobs.filter (·.slot != slot) } }
  let b := modCtx b slot fun c =>
    { c with
      launch := []
      far := { c.far with pend := none, childReports := [] }
      plumb := { c.plumb with startTick := none }
      id := { c.id with cause := r.cause, resetting := true, resetTick := e.clk.tick, scrubs := ks } }
  if ks.isEmpty then haltCtx e b slot else b

/-- The lowest cause of a slot; the earliest raised wins among equals (R310). -/
def pickCause (q : List FaultReq) (slot : Nat) : Option FaultReq :=
  (q.filter (·.slot == slot)).foldl (fun acc r => match acc with
    | none => some r
    | some a => if r.cause < a.cause then some r else some a) none

/-- The causes of this cycle take effect (R310): one reset per LIVE context that is not already resetting. A host reset also
acts on a HALTED context. -/
def applyFaults (e : Env) (b : Body) : Body :=
  let q := b.ctx.faultq
  let b := { b with ctx := { b.ctx with faultq := [] } }
  (q.map (·.slot)).eraseDups.foldl (fun b s =>
    match pickCause q s with
    | none => b
    | some r =>
      let id := (ctxAt b s).id
      if (id.st == .live && !id.resetting) || (id.st == .halted && r.cause == 0x12) then resetContext e b r else b) b

/-- A fault of a context that no thread raised. -/
def ctxFault (slot cause unit detail : Nat) : FaultReq :=
  { slot := slot, cause := cause, th := none, die := none, slotc := 7, baddr := none, unit := unit, oper := 0,
    origin := none, detail := detail }

/-- The scrub of one panel ends and its resources are released; with the last, the context is HALTED (R50). -/
def scrubDone (e : Env) (b : Body) (slot k : Nat) : Body :=
  let id := (ctxAt b slot).id
  if !id.resetting || !id.scrubs.contains k then b
  else
    let b := modPanel b k fun p => { p.release slot with ownedAt := e.tick }
    let rest := id.scrubs.filter (· != k)
    let b := modCtx b slot fun c => { c with id := { c.id with scrubs := rest } }
    if rest.isEmpty then haltCtx e b slot else b

/-- Contexts that are not FREE. -/
def liveSlots (b : Body) : List Nat := (b.ctx.slot.filter fun c => c.2.id.st != .free).map (·.1)

/-- Raise a cause against every LIVE context. -/
def faultAll (b : Body) (cause unit : Nat) : Body :=
  (liveSlots b).foldl (fun b s => raise b (ctxFault s cause unit 0)) b

/-- Reset and destroy every context at once (R278, R344): each, LIVE or HALTED, is reset with the cause given, its scrubs end, it
leaves its slot. -/
def destroyAll (e : Env) (b : Body) (cause : Nat) : Body :=
  (liveSlots b).foldl (fun b s =>
    let b := if !(ctxAt b s).id.resetting then resetContext e b (ctxFault s cause 12 0) else b
    let b := ((ctxAt b s).id.scrubs).foldl (fun b k => modPanel b k fun p => { p.release s with ownedAt := e.tick }) b
    let b := modCtx b s fun c => { c with id := { c.id with scrubs := [], resetting := false } }
    freeSlot (reportAllDirty e b s) s) b

/-- Run a command that is no slot: the causes it raises take effect at once, those of the current cycle stay queued. -/
def boundary (f : Env → Body → Body) (e : Env) (b : Body) : Body :=
  let q := b.ctx.faultq
  let b := applyFaults e (f e { b with ctx := { b.ctx with faultq := [] } })
  { b with ctx := { b.ctx with faultq := q } }

end Sys2Proof.Machine
end

