-- ==== Sys2Proof/Machine/Arrive.lean ====
section
/-! DEFINITION. Frames of a job as they arrive (R225, R230, R234, R237, R253): the port, the receipt, duplicates, the context they are
for, and the version they carry. -/

namespace Sys2Proof.Machine

/-- Count a discarded packet (R230, R234, R253). -/
def fabDiscard (b : Body) : Body := { b with fab := { b.fab with discard := satAdd 0xFFFFFFFF b.fab.discard 1 } }

/-- What a port does with a packet of a job: take it, discard and count it, or nothing. -/
inductive Take where
  | yes | drop | no
  deriving DecidableEq, Repr

/-- A packet is taken on a port that is UP at full width, or from this module itself; in Drizzle it is discarded; a port that is not UP
carries none, nor does a module whose clocks are stopped (R24, R225, R231, R253). -/
def portTakes (b : Body) (port : Option (Fin 6)) (src : Nat) : Take :=
  if !clocksRun b then .no else
  match port with
  | none => if src = b.fab.addr then .yes else .no
  | some n =>
    let p := fget b.fab.port n.val
    if p.st = 0 then .no else if p.drz then .drop else if p.st = 1 then .yes else .no

/-- Does an acknowledgement of a packet reach this module: some port at full width is UP, or the packet was for this module itself? -/
def ackTaken (b : Body) (f : Frame) : Bool :=
  frameDst f == some b.fab.addr || (List.range 6).any fun n => let p := fget b.fab.port n; p.st == 1 && !p.drz

/-- A packet that is taken: its receipt goes back; the flag says whether it is new here, and not a duplicate (R232, R237). -/
def receiptBack (b : Body) (h : PktHdr) : Body × Bool :=
  let dup := b.fab.seen.contains (h.src, h.seq)
  let b := sendFrame b (.receipt h.src h.seq)
  if dup then (b, false) else ({ b with fab := { b.fab with seen := b.fab.seen ++ [(h.src, h.seq)] } }, true)

/-- Does a packet carry the level that its destination context has pinned (R229, R230)? -/
def levelFits (c : Ctx) (h : PktHdr) : Bool := jobLevel c == (h.trn, h.col, h.ldg)

/-- A frame of a job arrives for a context of this module: without one that takes it (`need`) it is discarded and counted once its
receipt has gone (R234); with another version than the pinned one it is discarded and the context faults (R230). -/
def jobArrive (b : Body) (slot : Nat) (v : Via) (need : CtxId → Bool) (act : Body → Body) : Body :=
  match portTakes b v.port v.hdr.src with
  | .no => b
  | .drop => fabDiscard b
  | .yes =>
    let (b, new) := receiptBack b v.hdr
    let c := ctxAt b slot
    if !new then b
    else if c.id.job = 0 ∨ c.id.job ≠ v.hdr.job ∨ !need c.id then fabDiscard b
    else if !levelFits c v.hdr then raise (fabDiscard b) (ctxFault slot 0x0B 8 v.hdr.trn)
    else act b

/-- A frame for the module's Lining arrives (R293): it is for no context. -/
def liningArrive (b : Body) (v : Via) (act : Body → Body) : Body :=
  match portTakes b v.port v.hdr.src with
  | .no => b
  | .drop => fabDiscard b
  | .yes =>
    let (b, new) := receiptBack b v.hdr
    if new then act b else b

/-- The contexts that take a job's transfers, agreements and reductions: LIVE, and not resetting. -/
def isLive (c : CtxId) : Bool := c.st == .live && !c.resetting

/-- The contexts that take the ledger's frames: LIVE or HALTED. -/
def isHeld (c : CtxId) : Bool := c.st != .free

end Sys2Proof.Machine
end

