-- ==== Sys2Proof/Machine/Regs.lean ====
section
/-! DEFINITION. What the registers read (spec 15 and the register tables of the other files): the pages of BAR0, the common
header, the records in their words, and the value of every register. -/

namespace Sys2Proof.Machine

/-! ### Pages (R393, Table 15-1) -/

/-- A page of BAR0. -/
inductive Pg where
  | dir | hub | kpr | hst | brd | fab | snd | mrg | tb
  | grd (n : Nat)
  | msix (n : Nat)
  | pba
  | d2d (n : Nat)
  | hbm (s : Nat)
  | die (d : Nat)
  | str (d : Nat)
  | pnl (k : Nat)
  | debug (n : Nat)
  | ctx (s : Nat)
  deriving DecidableEq, Repr

/-- The page number of a page: its BAR0 offset divided by 4 KiB. -/
def Pg.num : Pg → Nat
  | .dir => 0
  | .hub => 0x10
  | .kpr => 0x11
  | .hst => 0x12
  | .brd => 0x13
  | .fab => 0x14
  | .snd => 0x15
  | .mrg => 0x16
  | .tb => 0x17
  | .grd n => 0x18 + n
  | .msix n => 0x20 + n
  | .pba => 0x28
  | .d2d n => 0x40 + n
  | .hbm s => 0x50 + s
  | .die d => 0x100 * (d + 1)
  | .str d => 0x100 * (d + 1) + 1
  | .pnl k => 0x100 * (k / 9 + 1) + 0x10 + k % 9
  | .debug n => 0x800 + n
  | .ctx s => 0x8000 + s

/-- The pages of a die. -/
def diePage (d q : Nat) : Option Pg :=
  if q = 0 then some (.die d) else if q = 1 then some (.str d)
  else if 0x10 ≤ q ∧ q < 0x19 then some (.pnl (9 * d + (q - 0x10))) else none

/-- The page at a page number; every other offset is reserved. -/
def pageAt (p : Nat) : Option Pg :=
  if p = 0 then some .dir
  else if 0x10 ≤ p ∧ p < 0x18 then [Pg.hub, .kpr, .hst, .brd, .fab, .snd, .mrg, .tb][p - 0x10]?
  else if 0x18 ≤ p ∧ p < 0x1E then some (.grd (p - 0x18))
  else if 0x20 ≤ p ∧ p < 0x28 then some (.msix (p - 0x20))
  else if p = 0x28 then some .pba
  else if 0x40 ≤ p ∧ p < 0x50 then some (.d2d (p - 0x40))
  else if 0x50 ≤ p ∧ p < 0x58 then some (.hbm (p - 0x50))
  else if 0x100 ≤ p ∧ p < 0x500 then diePage (p / 0x100 - 1) (p % 0x100)
  else if 0x800 ≤ p ∧ p < 0x900 then some (.debug (p - 0x800))
  else if 0x8000 ≤ p ∧ p < 0x9000 then some (.ctx (p - 0x8000))
  else none

/-- `TYPE`, `INST` and `DIE` of a page. -/
def Pg.ident : Pg → Nat × Nat × Nat
  | .dir => (0x00, 0, 4)
  | .hub => (0x01, 0, 4)
  | .kpr => (0x02, 0, 4)
  | .hst => (0x03, 0, 4)
  | .brd => (0x04, 0, 4)
  | .fab => (0x05, 0, 4)
  | .snd => (0x06, 0, 4)
  | .mrg => (0x07, 0, 4)
  | .tb => (0x08, 0, 4)
  | .grd n => (0x09, n, 4)
  | .msix n => (0x10, n, 0xF)
  | .pba => (0x11, 0, 0xF)
  | .d2d n => (0x0A, n, if n < 12 then n / 3 else 4)
  | .hbm s => (0x0B, s, s / 2)
  | .die d => (0x0C, d, d)
  | .str d => (0x0D, d, d)
  | .pnl k => (0x0E, k, k / 9)
  | .debug n => (0x12, n, 4)
  | .ctx s => (0x0F, s, 0xF)

/-- The scaffold group of a page (Table 15-10); none for context, directory, DEBUG and MSI-X pages (R404). -/
def Pg.group : Pg → Option Nat
  | .hub | .kpr | .hst | .brd | .fab | .snd | .mrg => some (grpKey 0 0)
  | .tb => some (grpKey 4 0)
  | .grd n => some (grpKey 7 n)
  | .d2d n => some (grpKey 6 n)
  | .hbm s => some (grpKey 3 s)
  | .die d => some (grpKey 1 d)
  | .str d => some (grpKey 5 d)
  | .pnl k => some (grpKey 2 k)
  | .dir | .msix _ | .pba | .debug _ | .ctx _ => none

/-- The history units of a page: unit type, first unit, count (Table 15-10). -/
def Pg.units : Pg → List (Nat × Nat × Nat)
  | .kpr => [(11, 0, 1)]
  | .fab => [(9, 0, 1)]
  | .tb => [(4, 0, 24)]
  | .grd n => [(6, 16 * n, 16), (7, n, 1)]
  | .d2d n => [(5, 1024 * n, 1024)]
  | .hbm s => [(2, 32 * s, 32)]
  | .str d => [(10, d, 1)]
  | .pnl k => [(0, k, 1), (1, 128 * k, 128), (8, k, 1)]
  | _ => []

/-- Does a page serve its registers (R346, R407)? -/
def served (b : Body) (p : Pg) : Bool :=
  let w := b.kpr.pwr
  let die := match p with | .die d | .str d => some d | .pnl k => some (k / 9) | .d2d n => if n < 12 then some (n / 3) else none | _ => none
  let onDie := die.isSome || (match p with | .hbm _ => true | _ => false)
  let up := !w.off && decide (w.hold = 0) && w.st != .night
  let started := b.kpr.start.phase = 0 || (b.kpr.start.phase != 1 && (p == .dir || p.ident.2.2 == 4))
  up && started && !(w.st == .dusk && onDie) && !(die.any fun d => (fget b.die d).inReset)

/-! ### Packing -/

/-- A register from its fields: value, width, lowest bit. -/
def pack (fs : List (Nat × Nat × Nat)) : Nat := (fs.map fun f => f.1 % 2 ^ f.2.1 * 2 ^ f.2.2).sum

/-- Word `i` of a list of words. -/
def wordAt (ws : List Nat) (i : Nat) : Nat := ws.getD i 0

/-- Low and high words of a 64-bit value. -/
def lo32 (v : Nat) : Nat := v % 2 ^ 32
/-- The high word. -/
def hi32 (v : Nat) : Nat := v / 2 ^ 32 % 2 ^ 32
/-- The word of a pair that an offset names: 0 low, 4 high. -/
def pair (v off : Nat) : Nat := if off % 8 < 4 then lo32 v else hi32 v

/-! ### Records in their words -/

/-- A hazard record (Table 2-10). -/
def HazRec.words (r : HazRec) : List Nat :=
  [pack [(r.kind, 4, 28), (r.slotc, 3, 25), (r.th, 4, 21), (r.pp, 4, 17), (r.lp, 3, 14), (r.die, 2, 12)],
   lo32 r.baddr, pack [(r.baddr / 2 ^ 32, 16, 16)],
   pack [(r.line, 17, 15), (r.exp, 3, 12), (r.found, 3, 9), (b2n r.pend, 1, 8), (b2n r.pois, 1, 7), (b2n r.expv, 1, 6)],
   lo32 r.step, hi32 r.step, lo32 r.tick.toNat, hi32 r.tick.toNat]

/-- An illegal-slot record (Table 3-15). -/
def IllRec.words (r : IllRec) : List Nat :=
  [pack [(r.reason, 6, 26), (r.slotc, 3, 23), (r.th, 4, 19), (r.pp, 4, 15), (r.lp, 3, 12), (r.die, 2, 10), (r.opc, 6, 4)],
   lo32 r.baddr, pack [(r.baddr / 2 ^ 32, 16, 16)], lo32 r.step]

/-- A strip disagreement record (Table 4-8). -/
def StripRec.words (r : StripRec) : List Nat :=
  [pack [(r.col, 8, 24), (b2n r.wt, 1, 23), (b2n r.pl, 1, 22), (r.th, 4, 18), (r.pp, 4, 14), (r.lp, 3, 11), (r.die, 2, 9)],
   lo32 r.baddr, pack [(r.baddr / 2 ^ 32, 16, 16), (r.row, 10, 0)], pack [(r.psum, 17, 15)],
   lo32 r.step, hi32 r.step, lo32 r.tick.toNat, hi32 r.tick.toNat]

/-- A memory error record (Table 8-13). -/
def MemRec.words (r : MemRec) : List Nat :=
  [pack [(r.kind, 4, 28), (r.src, 3, 25), (r.ch, 5, 20), (r.pc, 1, 19), (r.bank, 5, 14), (r.sym, 7, 7)],
   pack [(r.row, 24, 8)], r.handle, r.pwrOn.toNat, lo32 r.step, hi32 r.step, lo32 r.tick.toNat, hi32 r.tick.toNat]

/-- A fault record (Table 12-3). -/
def FaultRec.words (r : FaultRec) : List Nat :=
  let (t, pp, lp) := r.th.getD (0, 0, 0)
  let ba := r.baddr.getD 0
  [pack [(r.cause, 8, 24), (b2n r.th.isSome, 1, 23), (b2n r.baddr.isSome, 1, 22), (t, 4, 18), (pp, 4, 14), (lp, 3, 11),
         (r.die.getD 0, 2, 9), (if r.baddr.isSome then r.slotc else 7, 3, 6), (b2n r.die.isSome, 1, 5)],
   r.handle, lo32 ba, pack [(ba / 2 ^ 32, 16, 16), (r.unit, 8, 8), (r.oper, 8, 0)], lo32 r.step, hi32 r.step, r.pwrOn.toNat,
   lo32 r.tick.toNat, hi32 r.tick.toNat, pack [(r.temp.toNat, 16, 16), (r.vrail.toNat, 16, 0)], r.origin % 2 ^ 20,
   r.detail % 2 ^ 32]

/-- A module event record (R331). -/
def EvRec.words (r : EvRec) : List Nat :=
  [pack [(r.kind, 8, 24), (r.cause, 8, 16), (r.detail, 16, 0)], r.handle, r.unit, r.pwrOn.toNat, lo32 r.step, hi32 r.step,
   lo32 r.tick.toNat, hi32 r.tick.toNat]

/-- A history entry (Table 12-20). -/
def HistRec.words (r : HistRec) : List Nat :=
  [pack [(r.utype, 4, 28), (r.unit, 16, 12), (r.kind, 8, 4), (r.detail, 4, 0)],
   pack [(r.temp.toNat, 16, 16), (r.volt.toNat, 16, 0)], pack [(r.opclass, 8, 24), (r.patsig, 16, 8)], r.where_.toNat,
   r.pwrOn.toNat, lo32 r.tick.toNat, hi32 r.tick.toNat, r.hours % 2 ^ 32]

/-! ### Header registers -/

/-- `PG_SCAFFOLD` of a page (R404): the smallest held group that contains the page's group, and its lowest activity. -/
def scaffoldReg (b : Body) (p : Pg) : Nat :=
  match p.group with
  | none => 0
  | some g =>
    let hs := b.host.holders.filter fun h => grpContains h.group g
    match hs.find? fun h => hs.all fun x => grpContains x.group h.group with
    | none => 0
    | some h0 =>
      let same := hs.filter fun x => x.group == h0.group
      let h := same.foldl (fun a x => if x.act < a.act then x else a) h0
      pack [(1, 1, 31), (b2n h.host, 1, 30), (b2n (decide (1 < same.length)), 1, 29), (h.act, 4, 24),
            (h.group / 65536, 4, 20), (h.group % 65536, 6, 0)]

/-- `PG_HISTREF` of a page (R405). -/
def histRef (b : Body) (p : Pg) : Nat :=
  let us := p.units
  if us.isEmpty then 0
  else
    let has (ut u : Nat) : Bool := us.any fun x => x.1 == ut && decide (x.2.1 ≤ u ∧ u < x.2.1 + x.2.2)
    let sums := b.kpr.sums.filter fun s => has (s.1 / 65536) (s.1 % 65536)
    let cls := sums.foldl (fun a s => max a s.2.cls) 0
    let ut := if cls = 0 then (us.map (·.1)).foldl min 15 else (sums.filter fun s => s.2.cls == cls).foldl (fun a s => min a (s.1 / 65536)) 15
    let mine := b.kpr.hist.filter fun h => has h.2.utype h.2.unit
    let age (i : Nat) : Nat := (b.kpr.histHead + 32768 - i) % 32768
    let newest := mine.foldl (fun (a : Option Nat) h => match a with
      | none => some h.1
      | some i => if age h.1 < age i then some h.1 else some i) none
    pack [(1, 1, 31), (cls, 3, 28), (ut, 4, 24), (newest.getD 0xFFFF, 16, 0)]

/-- `PG_ERRMASK` of a page: `LINK` and `CE` are masked at reset. -/
def errMaskOf (b : Body) (p : Pg) : Nat := (fget b.dir.errMask p.num).getD 0x5

/-- `PG_STATUS.ERR`. -/
def pgErr (b : Body) (p : Pg) : Bool := (List.range 32).any fun i => bit (fget b.dir.errSum p.num) i && !bit (errMaskOf b p) i

/-- A register of the common header (Table 15-3). -/
def headerRead (b : Body) (p : Pg) (o : Nat) : Nat :=
  let (t, i, d) := p.ident
  let pnl := match p with | .pnl _ => true | _ => false
  match o with
  | 0x00 => pack [(t, 8, 24), (i, 12, 12), (d, 4, 8), (if d < 4 then (fget b.die d).orient else 0, 2, 6)]
  | 0x04 => (if p == .hub then b.hub.stepping else 1) * 2 ^ 16 + 1
  | 0x08 => if pnl then Config.pgFeatures else 0
  | 0x0C | 0x10 | 0x14 | 0x18 => if pnl then Config.pgSizes.getD ((o - 0x0C) / 4) 0 else 0
  | 0x20 =>
    let ready := match p with | .ctx s => (ctxAt b s).id.st != .free | _ => true
    pack [(b2n ready, 1, 31), (b2n (pgErr b p), 1, 30), (scaffoldReg b p / 2 ^ 31, 1, 29)]
  | 0x24 => fget b.dir.errSum p.num
  | 0x28 => errMaskOf b p
  | 0x2C => scaffoldReg b p
  | 0x30 => histRef b p
  | _ => 0

/-! ### The directory (R403, R406) -/

/-- Directory entries: first page and count. -/
def dirEntries : List (Pg × Nat) :=
  [(.dir, 1), (.hub, 1), (.kpr, 1), (.hst, 1), (.brd, 1), (.fab, 1), (.snd, 1), (.mrg, 1), (.tb, 1), (.grd 0, 6), (.msix 0, 8),
   (.pba, 1), (.d2d 0, 3), (.d2d 3, 3), (.d2d 6, 3), (.d2d 9, 3), (.d2d 12, 4), (.hbm 0, 2), (.hbm 2, 2), (.hbm 4, 2), (.hbm 6, 2)]
  ++ (List.range 4).flatMap (fun d => [(.die d, 1), (.str d, 1), (.pnl (9 * d), 9)]) ++ [(.debug 0, 256), (.ctx 0, 4096)]

/-- Does a page of a directory entry have `ERR` set? Pages with no summary bit set are passed over. -/
def entryErr (b : Body) (x : Pg × Nat) : Bool :=
  b.dir.errSum.any fun s => decide (x.1.num ≤ s.1 ∧ s.1 < x.1.num + x.2) && ((pageAt s.1).any fun p => pgErr b p)

/-- `DIR_ERRENT` as a number. -/
def errEnt (b : Body) : Nat := ((List.range 35).map fun i => b2n ((dirEntries[i]?).any fun x => entryErr b x) * 2 ^ i).sum

/-- A register of the directory page. -/
def dirRead (b : Body) (o : Nat) : Nat :=
  if o = 0x40 then 35
  else if o = 0x44 then b.dir.badAcc
  else if o = 0x48 ∨ o = 0x4C then pair (errEnt b) o
  else if 0x100 ≤ o ∧ o < 0x300 then
    match dirEntries[(o - 0x100) / 8]? with
    | none => 0
    | some (p, n) =>
      let (t, i, d) := p.ident
      if o % 8 = 0 then p.num * 2 ^ 16 + n else t * 2 ^ 24 + i * 2 ^ 12 + d * 2 ^ 8
  else if 0x800 ≤ o ∧ o < 0xA00 then
    let w := (o - 0x800) / 4
    ((List.range 32).map fun i => b2n (pgErr b (.ctx (32 * w + i))) * 2 ^ i).sum
  else 0

/-! ### H-die pages -/

/-- A register of the HUB page. -/
def hubRead (b : Body) (o : Nat) : Nat :=
  let h := b.hub
  if o < 0x50 then (fget h.seen ((o - 0x40) / 4)).toNat
  else if o = 0x50 then pack [(h.stepping, 8, 24), (h.neg, 4, 12), (if h.stepping = 2 then 4 else 3, 4, 4), (3, 4, 0)]
  else if o = 0x54 then (if h.neg = 4 ∧ h.stepping = 2 then 0xF else 0)
  else 0

/-- Codes of the power states. -/
def Power.code : Power → Nat
  | .clear => 0
  | .haze => 1
  | .dusk => 2
  | .night => 3

/-- A word of the selected history entry or unit summary (R332). -/
def histData (b : Body) (w : Nat) : Nat :=
  let s := b.kpr.histSel.toNat
  if bit s 31 then
    let u := fget b.kpr.sums (unitKey (fld s 19 16) (fld s 15 0))
    wordAt [u.cls, u.faults, u.band.getD 0xFF, u.family.getD 0, u.newest] w
  else wordAt (fget b.kpr.hist (fld s 15 0)).words w

/-- A register of the keeper page. -/
def kprRead (b : Body) (wvLife wvUnit : Nat) (o : Nat) : Nat :=
  let k := b.kpr
  if o = 0x40 then pack [(k.ctxto, 16, 16), (b2n !k.noAutoMod, 1, 1), (b2n !k.noAutoDie, 1, 0)]
  else if o = 0x44 then pack [(k.hbPeriod, 16, 16), (k.hbMiss, 8, 0)]
  else if o = 0x48 then pack [(k.evOvf, 16, 16), (k.ev.length, 7, 0)]
  else if o = 0x4C then k.histSel.toNat
  else if 0x50 ≤ o ∧ o < 0x70 then histData b ((o - 0x50) / 4)
  else if o = 0x70 then k.histHead % 65536
  else if o = 0x74 then b.fab.sqCnt
  else if o = 0x80 then
    pack [(b2n k.pwr.busy, 1, 30), (k.pwr.target, 2, 28), (b2n k.pwr.force, 1, 27), (b2n !k.pwr.noAuto, 1, 26), ((k.pwr.was.getD k.pwr.st).code, 2, 24),
          (k.pwr.result, 4, 20), (k.pwr.idle, 16, 0)]
  else if o = 0x84 then
    pack [(b2n (k.pwr.hold != 0), 1, 31), (k.pwr.hold, 7, 24), (k.pwr.holdDetail, 4, 20), (k.start.lastRes, 3, 17),
          (b2n k.start.full, 1, 16), (b2n k.start.orderly, 1, 15), (b2n k.start.flagForce, 1, 14), (k.start.why, 2, 12),
          (k.start.phase, 4, 8), (b2n k.start.offOk, 1, 7)]
  else if o = 0x88 then k.start.bistWin % 65536
  else if o = 0x8C then
    pack [(k.fw.active, 1, 31), (b2n (fget k.fw.slot 0).valid, 1, 30), (b2n (fget k.fw.slot 1).valid, 1, 29), (k.fw.act, 2, 27),
          (k.fw.bootFail, 3, 24), ((fget k.fw.slot 0).svn, 8, 16), ((fget k.fw.slot 1).svn, 8, 8)]
  else if o = 0x90 then
    pack [(b2n k.fuse.sealed, 1, 31), (b2n k.fuse.opkey.isSome, 1, 30), (b2n k.fuse.armed, 1, 29), (k.fuse.fwmin, 8, 16)]
  else if o = 0x94 then k.wv.hours % 2 ^ 32
  else if o = 0x98 then wvLife
  else if o = 0x9C then wvUnit
  else if o = 0xC0 then pack [(b2n k.mbox.busy, 1, 30), (k.mbox.op, 8, 16), (k.mbox.tgt, 8, 8), (k.mbox.status, 4, 0)]
  else if o = 0xC4 then k.mbox.arg.toNat
  else if 0x400 ≤ o ∧ o < 0xC00 then ((k.ev[(o - 0x400) / 32]?).map fun r => wordAt r.words (o % 32 / 4)).getD 0
  else if 0xC00 ≤ o then bytesVal (cellGetMany hostBg k.mbox.win (o - 0xC00) 4)
  else 0

/-- A register of the HST page. -/
def hstRead (b : Body) (o : Nat) : Nat :=
  let a := b.host.ar
  if o = 0x40 then pack [(b2n a.en, 1, 31), (a.logn, 4, 16), (a.ring.head, 16, 0)]
  else if o = 0x44 then lo32 a.base.toNat
  else if o = 0x48 then hi32 a.base.toNat
  else if o = 0x4C then lo32 a.cpl.toNat
  else if o = 0x50 then hi32 a.cpl.toNat
  else if o = 0x54 then b.host.dbDrop
  else 0

/-- Throttle steps of a die, by cause: 1 DIE, 2 HBM, 3 HUB, 4 OUTLET, 5 POWER (R389, Table 14-10). -/
def thrStep (b : Body) (d : Nat) : Nat :=
  let t := fget b.brd.thr d
  if b.brd.fast then 4 else max (t.step.foldl (fun a x => max a x.2) 0) b.brd.minStep

/-- Does a cause hold a nonzero step for some die? -/
def thrCause (b : Body) (c : Nat) : Bool := (List.range 4).any fun d => fget (fget b.brd.thr d).step c != 0

/-- A temperature or other signed reading as 16 bits. -/
def s16 (i : Int) : Nat := wrapInt 16 i

/-- A register of the BRD page. `volt` and `power` hold their registers whole. -/
def brdRead (b : Body) (o : Nat) : Nat :=
  let r := b.brd
  if o = 0x40 then pack [(b2n !r.mateOpen, 1, 7), (r.slotId, 4, 0)]
  else if o = 0x44 then r.volt
  else if o = 0x48 then r.power
  else if o = 0x4C then pack [(r.lastOffRail.getD 0xF, 4, 4), (r.lastOffCause, 4, 0)]
  else if 0x50 ≤ o ∧ o < 0x7C then pack [(fget r.rail ((o - 0x50) / 4), 16, 16), (fget r.rail (16 + (o - 0x50) / 4), 16, 0)]
  else if o = 0x80 then pack [(r.minStep, 3, 13), (r.pLimit, 12, 0)]
  else if o = 0x84 then
    pack [(b2n r.fast, 1, 31), (b2n (thrCause b 5), 1, 30), (b2n (thrCause b 4), 1, 29), (b2n (thrCause b 3), 1, 28),
          (b2n (thrCause b 2), 1, 27), (b2n (thrCause b 1), 1, 26), (b2n r.crit, 1, 25), (b2n r.lowFlow, 1, 24), (b2n r.cold, 1, 23),
          (b2n r.inletHi, 1, 22), (thrStep b 3, 3, 9), (thrStep b 2, 3, 6), (thrStep b 1, 3, 3), (thrStep b 0, 3, 0)]
  else if o = 0x88 then pack [(s16 r.inlet, 16, 16), (s16 r.outlet, 16, 0)]
  else if o = 0x8C then r.thrTime / 10
  else 0

/-- Free entries of the route store (R239): 262,144 less the entries of every loaded set. -/
def routeFree (b : Body) : Nat := 262144 - (b.ctx.slot.map fun c => (c.2.far.loaded.map (·.2)).sum).sum

/-- A register of the FAB page. -/
def fabRead (b : Body) (o : Nat) : Nat :=
  let f := b.fab
  let rg (k : Nat) : Nat := fget f.range k
  if o = 0x40 then pack [(b2n f.plan.isSome, 1, 31), (b2n f.valid, 1, 30), (f.outcome, 3, 27), (f.addr, 20, 0)]
  else if o = 0x44 then pack [(rg 1, 4, 28), (rg 0, 4, 24), (rg 3, 4, 20), (rg 2, 4, 16), (rg 5, 4, 12), (rg 4, 4, 8)]
  else if o = 0x48 then pack [(rg 7, 4, 12), (rg 6, 4, 8), (rg 9, 4, 4), (rg 8, 4, 0)]
  else if o = 0x4C then f.fdTray.toNat
  else if o = 0x50 then f.fdPwr.toNat
  else if o = 0x54 then f.discard
  else if o = 0x58 then routeFree b
  else 0

/-- A register of a memory error log (Table 8-12). -/
def memLogRead (l : MemLog) (o : Nat) : Nat :=
  if o = 0xF0 then pack [(l.ovf, 16, 16), (l.recs.length, 5, 0)]
  else if 0x400 ≤ o ∧ o < 0x600 then ((l.recs[(o - 0x400) / 32]?).map fun r => wordAt r.words (o % 32 / 4)).getD 0
  else 0

/-- A register of the Tier B page. -/
def tbRead (b : Body) (o : Nat) : Nat :=
  let t := b.mem.tb
  if o = 0x40 then t.lining
  else if o = 0x44 then ((List.range 24).map fun p => b2n (!(fget t.out p)) * 2 ^ p).sum
  else if o = 0x48 then t.ce
  else if o = 0x4C then t.ue
  else if o = 0x50 then t.linkCe
  else memLogRead t.log o

/-- A register of a Griand port page. -/
def grdRead (b : Body) (n o : Nat) : Nat :=
  let p := fget b.fab.port n
  if o = 0x40 then
    pack [(p.hzn, 3, 29), (p.st, 2, 27), (p.lanes, 4, 23), (b2n p.drz, 1, 22), (p.axis, 2, 20), (p.cause, 4, 16), (p.failLane.getD 0xF, 4, 12)]
  else if o = 0x44 then
    pack [(p.phy, 4, 28), (p.link, 4, 24), (p.trn.1, 4, 20), (p.trn.2, 4, 16), (p.col.1, 4, 12), (p.col.2, 4, 8), (p.ldg.1, 4, 4), (p.ldg.2, 4, 0)]
  else if o = 0x48 then pack [(p.tree, 16, 16), (p.leafPort, 8, 8), (b2n p.moved, 1, 0)]
  else if o = 0x4C then lo32 p.leaf.toNat
  else if o = 0x50 then hi32 p.leaf.toNat
  else if o = 0x54 then p.fecCw
  else if o = 0x58 then p.replay
  else if o = 0x5C then p.downs
  else 0

/-- A register of a die-to-die port page. -/
def d2dRead (b : Body) (n o : Nat) : Nat :=
  let x := fget b.mem.d2d n
  let dir := if n % 3 = 2 ∨ 12 ≤ n then 4 else fget (fget b.die (n / 3)).portDir (n % 3)
  if o = 0x40 then pack [(b2n x.up, 1, 31), (dir, 3, 28), (x.nrep, 5, 23), (x.failMod.getD 0x1F, 5, 18), (x.cause, 2, 16)]
  else if o = 0x44 then x.replay
  else 0

/-- A register of an HBM page. -/
def hbmRead (b : Body) (s o : Nat) : Nat :=
  let x := fget b.mem.stack s
  if o = 0x40 then pack [(x.chThresh, 8, 16), (x.ceRow, 8, 8), (x.spare, 3, 0)]
  else if o = 0x44 ∨ o = 0x48 then ((List.range 16).map fun i => fget x.ch ((o - 0x44) / 4 * 16 + i) % 4 * 4 ^ i).sum
  else if o = 0x4C then x.ce
  else if o = 0x50 then x.ue
  else if o = 0x54 then pack [(x.retired.length, 13, 16), (x.soft.length, 8, 8)]
  else if o = 0x58 then ((List.range 32).map fun i => b2n (fget x.propose i) * 2 ^ i).sum
  else memLogRead x.log o

/-- A register of a stratum page. -/
def strRead (b : Body) (d o : Nat) : Nat :=
  let x := fget b.mem.str d
  if o = 0x40 then pack [(x.fbres, 8, 16), (b2n !x.cacheOff, 1, 0)]
  else if o = 0x44 then
    pack [(x.pinned.length, 8, 24), (ceilDiv x.fb.length 1024, 8, 16), (128 - x.fbresIn - x.pinned.length, 8, 8)]
  else if o = 0x48 then x.ce
  else if o = 0x4C then x.ue
  else if o = 0x50 then x.spadCe
  else if o = 0x54 then x.spadUe
  else if o = 0x58 then x.fbDrop
  else memLogRead x.log o

/-- A register of a C-die page. -/
def dieRead (b : Body) (d o : Nat) : Nat :=
  let x := fget b.die d
  if o = 0x40 then
    pack [(b2n x.stkSwap, 1, 19), (4, 3, 16), (fget x.portDir 1, 3, 13), (fget x.portDir 0, 3, 10), (x.orient, 2, 2), (x.pos, 2, 0)]
  else if o = 0x44 then pack [(x.npl, 4, 12), (4, 4, 4), (3, 4, 0)]
  else if o = 0x48 then ((List.range 8).map fun i => ((fget x.map i).getD 0xF) * 16 ^ i).sum
  else if o = 0x4C then pack [(x.spare.getD 0xF, 4, 20), (x.next, 4, 16), (x.interval, 16, 0)]
  else if o = 0x50 then x.rotCnt
  else if o = 0x54 then x.need
  else if o = 0x58 then x.ceil
  else 0

/-- Codes of the panel states. -/
def PState.code : PState → Nat
  | .active => 0
  | .spare => 1
  | .quarantine => 2
  | .retired => 3
  | .standby => 4

/-- Codes of the thread states. -/
def TState.code : TState → Nat
  | .free => 0
  | .run => 1
  | .wait => 2
  | .stopped => 3
  | .killing => 4

/-- A register of a panel page. -/
def pnlRead (b : Body) (k o : Nat) : Nat :=
  let p := panelAt b k
  let q := p.seq
  if 0x40 ≤ o ∧ o < 0x50 then
    ((List.range 4).map fun i => match fget q.roller (o - 0x40 + i) with
      | some t => (0x80 + t) * 256 ^ i
      | none => 0).sum
  else if 0x60 ≤ o ∧ o < 0xA0 then
    let t := (o - 0x60) / 4
    let x := p.thread t
    pack [(x.st.code, 3, 29), (if x.st = .free then 0 else x.slot, 12, 16), ((q.roller.filter fun r => r.2 == some t).length, 5, 0)]
  else if o = 0xA0 then pack [(p.seqmm, 16, 16), (p.lpanel, 3, 4), (p.st.code, 3, 0)]
  else if o = 0xA4 then pack [(b2n p.retire, 1, 31), (63 - p.classOff % 64, 6, 0)]
  else if 0x100 ≤ o ∧ o < 0x180 then pair (p.thread ((o - 0x100) / 8)).mark o
  else if 0x180 ≤ o ∧ o < 0x200 then
    let n := (p.thread ((o - 0x180) / 8)).num
    if o % 8 = 0 then n.ovf * 65536 + n.nan else n.unf * 65536 + n.sat
  else if 0x200 ≤ o ∧ o < 0x220 then
    let h := fget p.hod ((o - 0x200) / 4)
    pack [(h.st, 2, 30), (b2n h.coll, 1, 29), (if h.st = 0 then 0 else h.rows, 8, 16), (if h.st = 0 then 0 else h.slot, 12, 0)]
  else 0

/-! ### Context pages -/

/-- Codes of the context states. -/
def CState.code : CState → Nat
  | .free => 0
  | .live => 1
  | .halted => 2

/-- Codes of the generation states. -/
def GState.code : GState → Nat
  | .empty => 0
  | .writing => 1
  | .complete => 2
  | .sealed => 3
  | .invalid => 4

/-- Codes of the retention states. -/
def RState.code : RState → Nat
  | .free => 0
  | .pending => 1
  | .retained => 2
  | .dropped => 3

/-- The readout stream length of a generation (R308). -/
def rdLen (g : GenRec) : Nat := g.manifest.length + (g.chunks.map (·.len)).sum

/-- Closed steps not sealed (R283). -/
def sealLag (l : Ledger) : Nat := (l.step.filter fun s => s.2.closed && !l.seals.contains s.1).length

/-- A register of the ledger part of a context page (Table 11-8 and after). -/
def ledRead (c : Ctx) (o : Nat) : Nat :=
  let l := c.led
  let cur := match l.openStep with | some n => fget l.step n | none => default
  let a := fget l.gens 0
  let g := fget l.gens 1
  match o with
  | 0x300 =>
    pack [(if l.replay.isSome then 2 else b2n l.openStep.isSome, 2, 30), (sealLag l, 2, 28), (b2n (l.snap.isSome || !l.waitingSnaps.isEmpty), 1, 27),
          (b2n !l.readout.isEmpty, 1, 26), (b2n cur.noReplay, 1, 25), (b2n (cur.dirtyOther || cur.dirtyChecker), 1, 24),
          (l.lineage, 8, 16), (l.cmp, 2, 14), (l.reason, 8, 0)]
  | 0x308 | 0x30C => pair (logStep l 0) o
  | 0x310 | 0x314 => pair l.sealedStep o
  | 0x318 | 0x31C => pair a.step o
  | 0x320 | 0x324 => pair g.step o
  | 0x328 => pack [(a.st.code, 3, 29), (min a.miss 8191, 13, 16), (g.st.code, 3, 13), (min g.miss 8191, 13, 0)]
  | 0x32C => l.pushCnt
  | 0x330 | 0x334 => pair (rdLen a) o
  | 0x338 | 0x33C => pair (rdLen g) o
  | 0x370 => pack [(a.miss, 16, 16), (g.miss, 16, 0)]
  | _ => 0

/-- A register of a context page. -/
def ctxRead (e : Env) (b : Body) (s o : Nat) : Nat :=
  let c := ctxAt b s
  let n := c.num
  let l := c.log
  if 0x80 ≤ o ∧ o < 0x90 then
    let r := fget c.ring ((o - 0x80) / 4)
    if r.present then pack [(r.head, 16, 16), (r.tail, 16, 0)] else 0
  else if 0x240 ≤ o ∧ o < 0x264 then fget l.hazCnt ((o - 0x240) / 4)
  else if 0x300 ≤ o ∧ o < 0x340 ∨ o = 0x370 then ledRead c o
  else if 0x600 ≤ o ∧ o < 0x800 then ((l.haz[(o - 0x600) / 32]?).map fun r => wordAt r.words (o % 32 / 4)).getD 0
  else if 0x800 ≤ o ∧ o < 0xC00 then ((l.ill[(o - 0x800) / 16]?).map fun r => wordAt r.words (o % 16 / 4)).getD 0
  else if 0xC00 ≤ o ∧ o < 0xD00 then ((l.strip[(o - 0xC00) / 32]?).map fun r => wordAt r.words (o % 32 / 4)).getD 0
  else if 0xD00 ≤ o ∧ o < 0xF00 then
    let r := fget c.ret.slot ((o - 0xD00) / 8)
    if o % 8 = 0 then pack [(r.st.code, 3, 29), (r.tag, 6, 16), (r.gran, 16, 0)] else r.off % 65536
  else if 0xF00 ≤ o then ((c.fault[(o - 0xF00) / 64]?).map fun r => wordAt r.words (o % 64 / 4)).getD 0
  else match o with
  | 0x040 => if c.id.st = .free then s else handleOf e b s
  | 0x044 =>
    pack [(c.id.st.code, 2, 30), (c.id.cause, 8, 16), (b2n c.id.minp, 1, 13), (b2n c.id.secp, 1, 12), (c.id.trn, 4, 8), (c.id.col, 4, 4),
          (c.id.ldg, 4, 0)]
  | 0x048 => c.id.job
  | 0x200 => c.set.stampMode
  | 0x204 => pack [(l.hazOvf, 16, 16), (l.haz.length, 5, 0)]
  | 0x208 => c.set.illThresh
  | 0x20C => pack [(l.illOvf, 16, 16), (l.ill.length, 7, 0)]
  | 0x210 => l.illCnt
  | 0x214 => pack [(l.stripOvf, 16, 16), (l.strip.length, 4, 0)]
  | 0x218 => l.stripCnt
  | 0x21C => l.stripSkip
  | 0x280 => pack [(n.flagMask, 4, 8), (b2n n.mxScale, 1, 0)]
  | 0x284 => pack [(n.stepEv, 4, 28), (b2n n.stepFlag, 1, 0)]
  | 0x288 => lo32 n.seed.toNat
  | 0x28C => hi32 n.seed.toNat
  | 0x290 => n.cnt.ovf
  | 0x294 => n.cnt.nan
  | 0x298 => n.cnt.unf
  | 0x29C => n.cnt.sat
  | 0x2A0 => lo32 c.set.chainBase
  | 0x2A4 => hi32 c.set.chainBase
  | 0x2A8 => c.set.chainCnt
  | 0x2B0 => pack [(b2n c.set.mitreMx, 1, 4), (c.set.mitreFmt, 4, 0)]
  | 0x2B4 => pack [(l.mitreResc, 16, 16), (l.mitreZero, 16, 0)]
  | 0x2B8 => pack [(c.ret.size - (c.ret.slot.map (·.2.gran)).sum, 16, 16), (c.ret.size, 16, 0)]
  | 0x2BC => c.ret.base
  | 0x2C0 => lo32 c.ret.tags.toNat
  | 0x2C4 => hi32 c.ret.tags.toNat
  | 0x2D0 =>
    let (ps, pk, _) := c.far.pend.getD (0, 0, 0)
    pack [(b2n c.far.pend.isSome, 1, 31), (ps, 2, 29), (pk, 8, 21),
          (((List.range 4).map fun i => b2n (fget c.far.loaded i != 0) * 2 ^ i).sum, 4, 2), (c.far.active, 2, 0)]
  | 0x2D4 => c.far.phaseQ
  | 0x2D8 => c.far.farErr
  | 0x2DC => c.far.cumDis
  | 0x340 => c.set.waitLim
  | 0x344 => c.set.stepLim
  | 0x348 =>
    let a := c.led.adj
    pack [(a.run, 2, 30), (a.outcome, 3, 27), (a.pp.getD 0xF, 4, 23), (a.die, 2, 21), (a.lp, 3, 18)]
  | 0x350 => lo32 c.led.adj.step
  | 0x354 => hi32 c.led.adj.step
  | 0x358 =>
    pack [(c.con.role, 2, 30), (b2n c.con.active, 1, 29), (b2n c.con.admitted, 1, 28), (c.con.ended, 4, 24), (c.con.peer, 20, 0)]
  | 0x35C => pack [(c.con.hits, 16, 16), (c.con.admitAt, 16, 0)]
  | 0x360 => lo32 c.con.step
  | 0x364 => hi32 c.con.step
  | 0x368 => pack [(c.faultOvf, 16, 16), (c.fault.length, 3, 0)]
  | _ => 0

/-! ### A register by page -/

/-- `KPR_WVLIFE` (R361, Table 13-11). -/
def wvLifeReg (b : Body) : Nat :=
  let w := b.kpr.wv
  pack [(w.life, 20, 12), (w.conf, 8, 4), (b2n (decide (w.hours < 500)), 1, 3), (w.qty, 3, 0)]

/-- A word of the MSI-X table and how it is held: the vector control word of an entry resets masked, its bit 0 set. -/
def vecWord (i v : Nat) : Nat := if i % 4 = 3 then v ^^^ 1 else v

/-- The value of the 32-bit register at an offset of a page that serves. A DEBUG page before the seal returns free values
(R407). -/
def pageRead (e : Env) (b : Body) (p : Pg) (o : Nat) : Nat :=
  match p with
  | .msix n => vecWord (n * 1024 + o / 4) (fget b.host.vtable (n * 1024 + o / 4)).toNat
  | .pba => pendWord b (o / 4)
  | .debug _ => if b.kpr.fuse.sealed then 0 else (Config.freeWord b.free).toNat
  | _ =>
    if o < 0x40 then headerRead b p o
    else match p with
      | .dir => dirRead b o
      | .hub => hubRead b o
      | .kpr => kprRead b (wvLifeReg b) b.kpr.wv.unit o
      | .hst => hstRead b o
      | .brd => brdRead b o
      | .fab => fabRead b o
      | .snd =>
        let s := b.mem.snd
        if o = 0x40 then pack [(s.period, 16, 16), (b2n s.tierB, 1, 2), (b2n s.strat, 1, 1), (b2n s.tierA, 1, 0)]
        else if o = 0x44 then pack [(s.complete, 16, 16), (s.incomplete, 16, 0)] else 0
      | .mrg =>
        let m := b.mem.mrg
        if o = 0x40 then pack [(b2n m.busy, 1, 30), (m.type, 3, 27), (m.unit, 8, 19), (m.sel, 9, 10), (m.status, 2, 0)]
        else if o = 0x44 then (fget m.lanes m.sel).toNat else 0
      | .tb => tbRead b o
      | .grd n => grdRead b n o
      | .d2d n => d2dRead b n o
      | .hbm s => hbmRead b s o
      | .die d => dieRead b d o
      | .str d => strRead b d o
      | .pnl k => pnlRead b k o
      | .ctx s => ctxRead e b s o
      | .msix _ | .pba | .debug _ => 0

/-- The 32-bit register at a BAR0 offset (R5, R407). -/
def regRead (e : Env) (b : Body) (off : Nat) : Nat :=
  match pageAt (off / 4096) with
  | none => 0
  | some p => if served b p then pageRead e b p (off % 4096) else 0

end Sys2Proof.Machine
end

