-- ==== Sys2Proof/Machine/Rotation.lean ====
section
/-! DEFINITION. Panels in and out of service: rotation release and advance (R53 to R55), replacement and the spare (R56,
R59), quarantine (R58), retirement (R335). -/

namespace Sys2Proof.Machine

/-- Change a die. -/
def modDie (b : Body) (d : Nat) (f : Die → Die) : Body := { b with die := fmod b.die d f }

/-- Set a panel's service state; every change raises PANEL_STATE (Table 12-16). -/
def setPState (e : Env) (b : Body) (k : Nat) (st : PState) : Body :=
  if (panelAt b k).st = st then b
  else moduleEvent e (modPanel b k fun p => { p with st := st }) 0x0E st.code k 0 0 0

/-- Does a physical panel's `CLASSOK` cover the die's `NEED` (R335)? -/
def classCovers (b : Body) (d pp : Nat) : Bool :=
  let need := (fget b.die d).need
  need &&& (63 - (panelAt b (pkey d pp)).classOff % 64) == need

/-- Does the die's spare meet the spare conditions of R54, and cover the classes needed (R335)? A spare that has completed no
swatch run yet counts as one whose last run was clean (DESIGN CHOICE, log entry 72). -/
def spareOk (b : Body) (d : Nat) : Option Nat :=
  match (fget b.die d).spare with
  | none => none
  | some pp =>
    let p := panelAt b (pkey d pp)
    if p.st = .spare ∧ !p.dirtySwatch ∧ !p.retire ∧ classCovers b d pp then some pp else none

/-- A die that has lost its spare takes its lowest STANDBY panel whose last swatch run did not fail (R59). -/
def electSpare (e : Env) (b : Body) (d : Nat) : Body :=
  if (fget b.die d).spare.isSome then b
  else match (List.range 9).find? fun pp =>
      let p := panelAt b (pkey d pp)
      p.st == .standby && !p.dirtySwatch && !p.retire with
    | some pp => modDie (setPState e b (pkey d pp) .spare) d fun x => { x with spare := some pp }
    | none => b

/-- Update `NEXT` after the panel `left` has left (R55): it stays only when another panel left for retirement and it still
names an ACTIVE panel. -/
def updateNext (b : Body) (d left : Nat) (retired : Bool) : Body :=
  let nx := (fget b.die d).next
  let act (pp : Nat) : Bool := (panelAt b (pkey d pp)).st == .active
  if retired ∧ nx ≠ left ∧ act nx then b
  else match ((List.range 9).map fun i => (nx + 1 + i) % 9).find? act with
    | some pp => modDie b d fun x => { x with next := pp }
    | none => b

/-- Put the spare in the place of logical panel `lp`. -/
def useSpare (e : Env) (b : Body) (d lp sp : Nat) : Body :=
  let b := setPState e (modPanel b (pkey d sp) fun p => { p with lpanel := lp }) (pkey d sp) .active
  modDie b d fun x => { x with map := fset x.map lp (some sp), spare := none }

/-- A panel leaves service for `st` (QUARANTINE or RETIRED) at once (R56): the spare replaces it, or its logical panel
becomes unavailable; a spare or STANDBY panel only gives up its role. NEXT moves by the rule of R55 when no spare replaces it too
(DESIGN CHOICE, log entry 72). -/
def leaveService (e : Env) (b : Body) (k : Nat) (st : PState) : Body :=
  let d := k / 9
  let pp := k % 9
  let p := panelAt b k
  let b := modPanel (setPState e b k st) k fun q => { q with rotUntil := 0, served := p.st == .active }
  match p.st with
  | .active =>
    let b := match spareOk b d with
      | some sp => useSpare e b d p.lpanel sp
      | none => modDie b d fun x => { x with map := fset x.map p.lpanel none }
    updateNext (electSpare e b d) d pp (st == .retired)
  | .spare => electSpare e (modDie b d fun x => { x with spare := none }) d
  | _ => b

/-- Retire a panel at once, with its history entry (R335, Table 12-20). -/
def retireNow (e : Env) (b : Body) (k : Nat) : Body :=
  if (panelAt b k).st = .retired then b
  else histAdd e (leaveService e b k .retired) 0 k 0x0A 0 (some (k / 9)) 0xFF 0 0

/-! ### Rotation release -/

/-- Is the panel at a rotation release in cycle `c` (R53)? An engine is idle when no instruction occupies it (R34) and none of its
has a read left. -/
def rotReady (c : Nat) (p : Panel) : Bool :=
  let ths := p.seq.thr.filter fun t => t.2.st == .run || t.2.st == .wait
  !ths.isEmpty && ths.all (fun t => t.2.st == .wait && (t.2.wait.map (·.on)) == some .rotate) &&
    p.load.isEmpty && p.store.isEmpty && p.ldt.isEmpty && decide (p.seq.tagsUsed = 0) &&
    p.loadw.isEmpty && p.pass.isEmpty && p.chain.isEmpty && p.fill.isEmpty && decide (p.skimBusy ≤ c) && p.hod.isEmpty

/-- A write-back of one cache line that must wait for its channel (R193): a store of the panel with one piece left. -/
def heldBack (k th slot handle : Nat) (b : Body) (s : List Seg) (l : DLine) : Body :=
  let (u, b) := freshUid b
  let i : Ins := { (default : Ins) with uid := u, slot := slot, handle := handle, die := k / 9, lp := (panelAt b k).lpanel, th := th }
  modPanel b k fun p => { p with store := p.store ++ [chunkStore i 16 0 [⟨s, lineBytes l.data, l.poison || l.err.ue != 0#16, []⟩]] }

/-- The data-cache lines of one thread are written back and dropped (R55, R87); a line that may not be written faults its
context, and one whose write must wait is held until it can be made. -/
def flushThread (e : Env) (k th : Nat) (b : Body) : Body :=
  let t := (panelAt b k).thread th
  let dirty := t.dline.filter fun x => x.2.valid && x.2.dirty
  let b := (findDirty e b k t.slot dirty)
  let b := dirty.foldl (fun b x => match xlate b t.slot (x.2.addr * 64) 64 true with
    | .ok s => (putSegs e (some t.slot) (x.2.poison || x.2.err.ue != 0#16) b s (lineBytes x.2.data)).getD (heldBack k th t.slot t.handle b s x.2)
    | .fault c => raise b (ctxFault t.slot c 1 0)) b
  modPanel b k fun p => p.modThread th fun t => { t with dline := [] }

/-- Refill one residency entry from memory (R86). -/
def refillEntry (b : Body) (slot : Nat) (x : IEntry) : IEntry :=
  if !x.valid then x
  else match xlate b slot x.base x.len false with
    | .ok s => { x with bytes := (readSegs b s).1, poison := ifillPoison b x.base x.len s, err := [] }
    | .fault _ => { x with valid := false }

/-- Flush and refill what a release asks for, on panel `k`. The scrub of every bank takes with it the line writes that engines
still had to make. -/
def flushPanel (e : Env) (b : Body) (k : Nat) : Body :=
  let ths := (panelAt b k).seq.thr.map (·.1)
  let b := ths.foldl (fun b t => flushThread e k t b) b
  let b := (panelAt b k).seq.thr.foldl (fun b t => t.2.ient.foldl (fun b x =>
    if x.2.valid then findRange e t.2.slot b x.2.base x.2.len else b) b) b
  let b' := b
  modPanel b k fun p => { p with
    line := [], latch := [], wq := [], pendq := []
    seq := { p.seq with thr := fmapVals p.seq.thr fun _ t => { t with ient := fmapVals t.ient fun _ x => refillEntry b' t.slot x } } }

/-- A third run's exchange is due for a logical panel (R327). -/
def exchangeDue (b : Body) (d lp : Nat) : Bool := b.ctx.slot.any fun c => c.2.led.adj.exchange.contains (d, lp)

/-- The exchange of a logical panel is done. -/
def exchangeDone (b : Body) (d lp : Nat) : Body :=
  { b with ctx := { b.ctx with slot := fmapVals b.ctx.slot fun _ c =>
      { c with led := { c.led with adj := { c.led.adj with exchange := c.led.adj.exchange.filter (· != (d, lp)) } } } } }

/-- The mapping advances from panel `k` to the spare `sp` (R55): the sequencer tables move, with the register accesses and counts
under way and write-backs still held, and the old panel becomes SPARE, or RETIRED when it is marked. -/
def advance (e : Env) (b : Body) (k sp : Nat) : Body :=
  let d := k / 9
  let p := panelAt b k
  let ks := pkey d sp
  let b := modPanel b ks fun q =>
    { q with seq := p.seq, line := [], latch := [], rotUntil := p.rotUntil, scalar := p.scalar, later := p.later, store := p.store,
             seen := p.seen }
  let b := modPanel b k fun q =>
    { q with seq := default, line := [], latch := [], rotUntil := 0, scalar := [], later := [], store := [], seen := [] }
  let b := useSpare e b d p.lpanel sp
  let b := if p.retire then histAdd e (setPState e b k .retired) 0 k 0x0A 0 (some d) 0xFF 0 0
    else modDie (setPState e b k .spare) d fun x => { x with spare := some (k % 9) }
  let b := modDie b d fun x => { x with rotCnt := (x.rotCnt + 1) % 2 ^ 32, lastRot := some e.clk.tick }
  exchangeDone (updateNext (electSpare e b d) d (k % 9) p.retire) d p.lpanel

/-- Does the mapping advance at this release (R54)? The spare it goes to. A panel that is NEXT waits for the interval even when it
is marked for retirement; an interval of 0 lets only retirements advance. -/
def advances (e : Env) (b : Body) (k : Nat) : Option Nat :=
  let d := fget b.die (k / 9)
  let p := panelAt b k
  let next := d.next == k % 9
  let passed := match d.lastRot with | none => true | some t => decide (t.toNat + d.interval * 1000 ≤ e.tick)
  let due := if next then passed && (d.interval != 0 || p.retire) else p.retire
  if due || !classCovers b (k / 9) (k % 9) || exchangeDue b (k / 9) p.lpanel then spareOk b (k / 9) else none

/-- The rotation points of a panel release (R53 to R55): the threads resume when the 4,096 cycles have passed. -/
def rotRelease (e : Env) (b : Body) (k : Nat) : Body :=
  if !rotReady e.cyc (panelAt b k) || (panelAt b k).rotUntil != 0 then b
  else
    let b := flushPanel e (modPanel b k fun p => { p with rotUntil := e.cyc + 4096 }) k
    match advances e b k with
    | some sp => advance e b k sp
    | none => b

/-- The 4,096 cycles end: every rotation wait is over. -/
def rotEnd (e : Env) (b : Body) (k : Nat) : Body :=
  let p := panelAt b k
  if p.rotUntil = 0 ∨ e.cyc < p.rotUntil then b
  else modPanel b k fun p =>
    { p with rotUntil := 0
             seq := { p.seq with thr := fmapVals p.seq.thr fun _ t =>
               { t with wait := t.wait.map fun w => if w.on = .rotate then { w with met := true } else w } } }

/-! ### Quarantine -/

/-- Contexts that hold a thread on a panel. -/
def panelSlots (p : Panel) : List Nat := ((p.seq.thr.filter fun t => t.2.st != .free).map fun t => t.2.slot).eraseDups

/-- The trailing sequencer disagrees (R58). -/
def seqMismatch (e : Env) (b : Body) (k : Nat) : Body :=
  let p := panelAt b k
  let b := modPanel b k fun p => { p with seqmm := satAdd 0xFFFF p.seqmm 1 }
  let b := histAdd e b 0 k 0x04 0 (some (k / 9)) 0xFF 0 0
  let b := (panelSlots p).foldl (fun b s =>
    raise (reportDirty b s) { ctxFault s 0x03 7 0 with die := some (k / 9) }) b
  leaveService e (applyFaults e b) k .quarantine

/-- The end of a quarantine test (R59): a panel that served a logical panel when it was quarantined serves it again if it is still
unavailable. -/
def quarantineEnd (e : Env) (b : Body) (k : Nat) (pass : Bool) : Body :=
  let d := k / 9
  let p := panelAt b k
  if p.st ≠ .quarantine then b
  else if !pass then retireNow e b k
  else if p.served && (fget (fget b.die d).map p.lpanel).isNone then
    modDie (setPState e b k .active) d fun x => { x with map := fset x.map p.lpanel (some (k % 9)) }
  else if (fget b.die d).spare.isNone then modDie (setPState e b k .spare) d fun x => { x with spare := some (k % 9) }
  else setPState e b k .standby

end Sys2Proof.Machine
end

