-- ==== Sys2Proof/Machine/CtxRegs.lean ====
section
/-! DEFINITION. Writes of a context page (R49, R90, R113, R139, R311, R318, R319), the roles of Contrail (R339, R342), the
capture words of R397, and the error summaries of R402. -/

namespace Sys2Proof.Machine

/-! ### Contrail -/

/-- Shadowing ends (R342): both ends raise CONTRAIL_END, the shadow's context resets. -/
def endContrail (e : Env) (b : Body) (slot code : Nat) : Body :=
  let c := ctxAt b slot
  if !c.con.active then b
  else
    let b := contrailOver e b slot code
    if c.con.role = 2 then raise b (ctxFault slot 0x16 12 code) else b

/-- CTX_CONTRAIL is written: a role, and the peer's address (R339, Table 12-26). -/
def contrailWrite (e : Env) (b : Body) (slot v : Nat) : Body :=
  let role := fld v 31 30
  let b := if role = 0 then endContrail e b slot 5 else b
  modCtx b slot fun c => { c with con :=
    { c.con with
      role := if role = 3 then c.con.role else role
      admitted := if role = 3 then c.con.admitted else false
      hits := if role = 3 then c.con.hits else 0
      peer := fld v 19 0 } }

/-! ### Context page writes -/

/-- The writable settings of the numeric page (R139). -/
def writeNumCtl (c : Ctx) (v : Nat) : Ctx :=
  let n := { c.num with flagMask := fld v 11 8, mxScale := bit v 0 }
  let n := if c.led.openStep.isSome then n else { n with flagIn := n.flagMask, mxIn := n.mxScale }
  { c with num := if bit v 31 then { n with cnt := NumCounts.zero } else n }

/-- CTX_HAZLOGSTAT.CLR. -/
def clearHaz (c : Ctx) : Ctx := { c with log := { c.log with haz := [], hazOvf := 0 } }
/-- CTX_ILLSTAT.CLR. -/
def clearIll (c : Ctx) : Ctx := { c with log := { c.log with ill := [], illOvf := 0 } }
/-- CTX_STRIPSTAT.CLR. -/
def clearStrip (c : Ctx) : Ctx := { c with log := { c.log with strip := [], stripOvf := 0 } }
/-- CTX_NUMCTL.CLRCNT. -/
def clearCnt (c : Ctx) : Ctx := { c with num := { c.num with cnt := NumCounts.zero } }
/-- CTX_FAULTSTAT.CLR. -/
def clearFault (c : Ctx) : Ctx := { c with fault := [], faultOvf := 0 }

/-- A write of a block register of a context page. -/
def ctxBlockWrite (c : Ctx) (o v : Nat) : Ctx :=
  match o with
  | 0x200 => if fld v 1 0 = 3 then c else { c with set := { c.set with stampMode := fld v 1 0 } }
  | 0x204 => if bit v 15 then clearHaz c else c
  | 0x208 => { c with set := { c.set with illThresh := v % 65536 } }
  | 0x20C => if bit v 15 then clearIll c else c
  | 0x214 => if bit v 15 then clearStrip c else c
  | 0x280 => writeNumCtl c v
  | 0x2B0 => { c with set := { c.set with mitreMx := bit v 4, mitreFmt := fld v 3 0 } }
  | 0x2D4 => if fld v 8 0 = 0 ∨ 256 < fld v 8 0 then c else { c with far := { c.far with phaseQ := fld v 8 0 } }
  | 0x340 => if c.id.job ≠ 0 ∧ v < 1000 then c else { c with set := { c.set with waitLim := v } }
  | 0x344 => if c.id.job ≠ 0 ∧ v = 0 then c else { c with set := { c.set with stepLim := v } }
  | 0x35C => if v % 65536 = 0 then c else { c with con := { c.con with admitAt := v % 65536 } }
  | 0x368 => if bit v 15 then clearFault c else c
  | _ => c

/-! ### The common header -/

/-- Bits of `PG_ERRSUM` that exist. -/
def errBits : Nat := 0x800003FF

/-- A write of a header register (Tables 15-5 and 15-7). -/
def headerWrite (b : Body) (p : Pg) (o v : Nat) : Body :=
  let d := b.dir
  match o with
  | 0x1C => if bit v 31 then { b with dir := { d with errSum := fmod d.errSum p.num (· ||| 2 ^ 31) } } else b
  | 0x24 => { b with dir := { d with errSum := fmod d.errSum p.num fun x => x &&& ((2 ^ 32 - 1 - v % 2 ^ 32) ||| fget d.errNew p.num) } }
  | 0x28 => { b with dir := { d with errMask := fset d.errMask p.num (if v &&& errBits = 5 then none else some (v &&& errBits)) } }
  | _ => b

/-- A 32-bit write to a context page. -/
def ctxWrite (e : Env) (b : Body) (slot o v : Nat) : Body :=
  if o < 0x40 then headerWrite b (.ctx slot) o v
  else if o = 0x358 then contrailWrite e b slot v
  else modCtx b slot fun c => ctxBlockWrite c o v

/-! ### Requesters (R397) -/

/-- The capture state of a requester: 0 PCIe, 1 I3C, 2 + 16 × panel + thread. -/
def accOf (b : Body) (r : Nat) : Access := fget b.dir.acc r

/-- Change the capture state of a requester. -/
def modAcc (b : Body) (r : Nat) (f : Access → Access) : Body := { b with dir := { b.dir with acc := fmod b.dir.acc r f } }

/-- The 64-bit pairs of a page, as the ranges of their offsets: first offset and number of pairs (R397, R408). -/
def pairRanges : Pg → List (Nat × Nat)
  | .dir => [(0x48, 1)]
  | .hst => [(0x44, 1), (0x4C, 1)]
  | .grd _ => [(0x4C, 1)]
  | .pnl _ => [(0x100, 16)]
  | .ctx _ => [(0x288, 1), (0x2A0, 1), (0x2C0, 1), (0x308, 4), (0x330, 2), (0x350, 1), (0x360, 1), (0xD00, 64)]
  | _ => []

/-- Is an offset the low word of a pair? -/
def isLo (p : Pg) (o : Nat) : Bool := (pairRanges p).any fun r => decide (r.1 ≤ o ∧ o < r.1 + 8 * r.2) && (o - r.1) % 8 == 0

/-- Is an offset the high word of a pair? -/
def isHi (p : Pg) (o : Nat) : Bool := decide (4 ≤ o) && isLo p (o - 4)

/-- A 4-byte read by a requester (R397): an `_LO` read captures the high word, an `_HI` read that follows it returns the
capture; any access discards a held write (R398). -/
def reqRead (e : Env) (b : Body) (r off : Nat) : Nat × Body :=
  let a := accOf b r
  let pg := pageAt (off / 4096)
  let lo := pg.any fun p => isLo p (off % 4096)
  let hi := pg.any fun p => isHi p (off % 4096)
  let v := if hi && a.capOff == some (off - 4) then a.capVal.toNat else regRead e b off
  let a' : Access :=
    { a with capOff := if lo then some off else none, capVal := if lo then BitVec.ofNat 32 (regRead e b (off + 4)) else a.capVal,
             heldOff := none, lastRead := le 4 v }
  let b := match pg with
    | some (.debug _) => { b with free := b.free + 1 }
    | _ => b
  (v, modAcc b r fun _ => a')

/-- An access that is no read breaks the capture and discards a held write. -/
def noteWrite (b : Body) (r : Nat) : Body := modAcc b r fun a => { a with capOff := none, heldOff := none }

/-! ### Error summaries (R402, Table 15-7) -/

/-- Bits set by a comparison of one page before and after. -/
def errOr (l : List (Bool × Nat)) : Nat := l.foldl (fun a x => if x.1 then a ||| 2 ^ x.2 else a) 0

/-- Did a list grow? -/
def grew {α : Type} (x y : List α) : Bool := decide (x.length < y.length)

/-- Events of a context page. A context just created starts with its summary clear. -/
def ctxErr (x y : Ctx) : Nat :=
  if x.id.st = .free then 0
  else errOr
    [(y.id.st == .halted && x.id.st == .live, 9), (grew x.fault y.fault || decide (x.faultOvf < y.faultOvf), 6),
     (decide (x.log.stripCnt < y.log.stripCnt) || decide (x.far.cumDis < y.far.cumDis) ||
       (y.led.adj.outcome != 0 && x.led.adj.outcome != y.led.adj.outcome), 5),
     (grew x.log.haz y.log.haz || grew x.log.ill y.log.ill, 4),
     (decide (x.log.hazOvf < y.log.hazOvf ∨ x.log.illOvf < y.log.illOvf ∨ x.log.stripOvf < y.log.stripOvf ∨ x.faultOvf < y.faultOvf), 3)]

/-- Events of a panel page. -/
def pnlErr (x y : Panel) : Nat :=
  errOr [(x.st != y.st && (y.st == .quarantine || y.st == .retired), 9)]

/-- Events of an HBM page. -/
def hbmErr (x y : Stack) : Nat :=
  errOr
    [((List.range 32).any fun i => (decide (2 ≤ fget y.ch i) && fget x.ch i != fget y.ch i) || (fget y.propose i && !fget x.propose i), 9),
     (decide (x.log.ovf < y.log.ovf), 3), (decide (x.ue < y.ue), 1), (decide (x.ce < y.ce), 0)]

/-- Events of the Tier B page. -/
def tbErr (x y : TierB) : Nat :=
  errOr
    [((List.range 24).any fun i => (fget y.out i && !fget x.out i) || (fget y.failed i && !fget x.failed i), 9),
     (decide (x.log.ovf < y.log.ovf), 3), (decide (x.linkCe < y.linkCe), 2), (decide (x.ue < y.ue), 1), (decide (x.ce < y.ce), 0)]

/-- Events of a stratum page. -/
def strErr (x y : Stratum) : Nat :=
  errOr
    [(decide (x.log.ovf < y.log.ovf), 3), (decide (x.ue < y.ue ∨ x.spadUe < y.spadUe), 1), (decide (x.ce < y.ce ∨ x.spadCe < y.spadCe), 0)]

/-- Events of a Griand port page. -/
def grdErr (x y : Port) : Nat := errOr [(x.st == 1 && y.st != 1, 9), (decide (x.replay < y.replay ∨ x.downs < y.downs), 2)]

/-- Events of a die-to-die port page. -/
def d2dErr (x y : D2d) : Nat := errOr [(x.up && !y.up, 9), (decide (x.replay < y.replay), 2)]

/-- Events of the board page. -/
def brdErr (x y : Body) : Nat :=
  errOr [(decide ((brdRead x 0x84 / 2 ^ 22) ||| (brdRead y 0x84 / 2 ^ 22) ≠ brdRead x 0x84 / 2 ^ 22), 8)]

/-- Events of a C-die page. -/
def dieErr (x y : Thr) : Nat := errOr [((List.range 6).any fun i => fget x.step i == 0 && fget y.step i != 0, 8)]

/-- Events of the keeper page. -/
def kprErr (x y : Kpr) : Nat :=
  errOr [(grew x.ev y.ev || decide (x.evOvf < y.evOvf), 6), (decide (x.evOvf < y.evOvf), 3)]

/-- The summary bits the change from `x` to `y` sets, by page number. -/
def errChanges (x y : Body) : List (Nat × Nat) :=
  (y.ctx.slot.map fun c => (Pg.num (.ctx c.1), ctxErr (ctxAt x c.1) c.2)) ++
  (y.panel.map fun p => (Pg.num (.pnl p.1), pnlErr (panelAt x p.1) p.2)) ++
  (y.mem.stack.map fun s => (Pg.num (.hbm s.1), hbmErr (fget x.mem.stack s.1) s.2)) ++
  (y.mem.str.map fun s => (Pg.num (.str s.1), strErr (fget x.mem.str s.1) s.2)) ++
  (y.mem.d2d.map fun s => (Pg.num (.d2d s.1), d2dErr (fget x.mem.d2d s.1) s.2)) ++
  (y.fab.port.map fun s => (Pg.num (.grd s.1), grdErr (fget x.fab.port s.1) s.2)) ++
  ((List.range 4).map fun d => (Pg.num (.die d), dieErr (fget x.brd.thr d) (fget y.brd.thr d))) ++
  [(Pg.num .tb, tbErr x.mem.tb y.mem.tb), (Pg.num .brd, brdErr x y), (Pg.num .kpr, kprErr x.kpr y.kpr)]

/-- Does a page keep what happens on it: not while its die is in reset or unpowered, when its summary is at its default? -/
def errKept (y : Body) (n : Nat) : Bool :=
  match pageAt n with
  | some p => decide (4 ≤ p.ident.2.2) || served y p
  | none => false

/-- Set summary bits of the pages that keep them. -/
def errAdd (d : DirSt) (kept : Nat → Bool) (l : List (Nat × Nat)) : DirSt :=
  l.foldl (fun d x => if x.2 = 0 ∨ !kept x.1 then d else errSet d x.1 x.2) d

/-- Set the summary bits a command's effect sets; a bit the command cleared and set again stays set (R395). -/
def errSync (x y : Body) : Body := { y with dir := errAdd y.dir (errKept y) (errChanges x y) }

end Sys2Proof.Machine
end

