-- ==== Sys2Proof/Machine/Launch.lean ====
section
/-! DEFINITION. Program load (R272, Table 10-12) and launch (R273, R142, R86, Table 10-13): the checks, the assignment, the
fills, the START and DONE records. -/

namespace Sys2Proof.Machine

/-- The bytes at a context address, when every page is mapped. -/
def ctxBytes (b : Body) (slot va n : Nat) : Option (List (BitVec 8)) :=
  match xlate b slot va n false with
  | .ok s => some (readSegs b s).1
  | .fault _ => none

/-! ### PROG_LOAD -/

/-- Does a requirement block ask for no more than the panels have (Table 10-12)? -/
def imageOk (d : List (BitVec 8)) : Bool :=
  let f (o n : Nat) : Nat := bytesAt d o n
  let sz (i hi lo : Nat) : Nat := fld (Config.pgSizes.getD i 0) hi lo
  f 0 4 == 0x32504C49 && f 4 2 == 1 && (f 6 2 &&& Config.pgFeatures) == f 6 2 && f 8 2 == sz 0 31 20 && f 10 2 == sz 0 19 8 &&
    decide (f 12 1 ≤ sz 0 7 4) && decide (f 13 1 ≤ sz 1 31 24) && decide (f 14 1 ≤ sz 1 15 8) && f 15 1 == sz 1 7 0 &&
    decide (f 16 2 ≤ sz 2 31 16) && decide (f 18 1 ≤ sz 2 15 12) && decide (f 20 2 ≤ sz 2 11 0) && f 24 8 % 64 == 0 &&
    f 19 1 == 0 && f 22 2 == 0 && f 32 8 == 0 && f 40 8 == 0 && f 48 8 == 0 && f 56 8 == 0

/-- PROG_LOAD. -/
def doProgLoad (c : Cmd) (b : Body) : Body :=
  let a := c.at 24 8
  if a % 64 ≠ 0 ∨ 2 ^ 48 ≤ a then invalid b c
  else
    let b := findRange c.e c.slot b a 64
    match ctxBytes b c.slot a 64 with
    | none => finish b c 0x0A 0
    | some d =>
      if imageOk d then
        finishOk (modCtx b c.slot fun x => { x with set :=
          { x.set with chainBase := (a + bytesAt d 24 8) % 2 ^ 48, chainCnt := bytesAt d 20 2 } }) c
      else finish b c 0x0D 0

/-! ### The allocation descriptor -/

/-- Set bits of a number below `n`. -/
def bitsOf (n v : Nat) : List Nat := (List.range n).filter fun i => bit v i

/-- One thread entry from its 32 bytes. -/
def thrEntOf (d : List (BitVec 8)) : ThrEnt :=
  let f (o n : Nat) : Nat := bytesAt d o n
  { th := f 0 1, pos := f 2 2, ishare := f 4 1, dshare := f 5 1, entry := f 8 8, ilen := f 16 4, arg := f 24 8,
    rsvd := f 1 1 != 0 || f 6 2 != 0 || f 20 4 != 0 }

/-- A descriptor from its bytes. -/
def allocOf (d : List (BitVec 8)) : Alloc :=
  let f (o n : Nat) : Nat := bytesAt d o n
  { banks := bitsOf 128 (f 0 16), groups := bitsOf 8 (f 16 1), eng := f 17 1
    ents := (List.range (min 16 (f 18 1))).map fun i => thrEntOf ((d.drop (64 + 32 * i)).take 32)
    rsvd := f 18 1 == 0 || decide (16 < f 18 1) || decide (7 < f 17 1) || ((d.take 64).drop 19).any (· != 0) }

/-- Are all numbers of a list different? -/
def distinct (l : List Nat) : Bool := decide (l.eraseDups.length = l.length)

/-- The INVALID cases of a descriptor. -/
def allocBad (a : Alloc) : Bool :=
  a.rsvd || a.groups.any (fun g => (span (16 * g) 16).any fun k => !a.banks.contains k) ||
    !distinct (a.ents.flatMap fun x => bitsOf 16 x.pos) || !distinct (a.ents.map (·.th)) ||
    a.ents.any fun x => x.pos == 0 || x.rsvd || decide (16 ≤ x.th) || x.ishare == 0 || decide (64 < x.ishare) ||
      decide (32 < x.dshare) || decide (x.ilen < 2) || decide (1024 * x.ishare < x.ilen) || decide (2 ^ 48 ≤ x.entry) || x.entry % 2 == 1

/-- The RES_BUSY cases on a panel (R273). -/
def allocBusy (p : Panel) (slot : Nat) (a : Alloc) : Bool :=
  let stop (t : Nat) : Bool := (p.thread t).st == .stopped && (p.thread t).slot == slot
  let named := a.ents.map (·.th)
  let others := p.seq.thr.filter fun t => t.2.st != .free && !named.contains t.1
  let eng (i : Nat) (o : Option Nat) : Bool := bit a.eng i && o.isSome && o != some slot
  named.any (fun t => (p.thread t).st != .free && !stop t) ||
    (a.ents.flatMap fun x => bitsOf 16 x.pos).any (fun q => match fget p.seq.roller q with
      | some t => !named.contains t && !stop t
      | none => false) ||
    a.banks.any (fun k => (fget p.seq.bank k).isSome && fget p.seq.bank k != some slot) ||
    eng 0 p.seq.trowel || eng 1 p.seq.skim || eng 2 p.seq.mitre ||
    decide (64 < (others.map (·.2.ishare)).sum + (a.ents.map (·.ishare)).sum) ||
    decide (32 < (others.map (·.2.dshare)).sum + (a.ents.map (·.dshare)).sum)

/-- Is every page of a range mapped? -/
def mapped (b : Body) (slot va n : Nat) : Bool :=
  match xlate b slot va n false with
  | .ok _ => true
  | .fault _ => false

/-- The memory side of a mapped range. -/
def segsOf (b : Body) (slot va n : Nat) : List Seg :=
  match xlate b slot va n false with
  | .ok s => s
  | .fault _ => []

/-- The ADDR_RANGE cases. -/
def allocUnmapped (b : Body) (slot : Nat) (a : Alloc) : Bool :=
  let c := ctxAt b slot
  a.ents.any (fun x => !mapped b slot x.entry x.ilen) ||
    (c.set.chainCnt != 0 && !mapped b slot c.set.chainBase (64 * c.set.chainCnt))

/-! ### Carrying a launch out -/

/-- The fresh state of a launched thread. -/
def newThread (b : Body) (slot handle mark : Nat) (x : ThrEnt) : Thread :=
  let s := segsOf b slot x.entry x.ilen
  let ent : IEntry := ⟨true, x.entry, x.ilen, (readSegs b s).1, ifillPoison b x.entry x.ilen s, []⟩
  { (default : Thread) with
    st := .run, slot := slot, handle := handle, pc := x.entry, s := fset [] 1 ⟨BitVec.ofNat 64 x.arg, false⟩,
    ient := fset [] 0 ent, ishare := x.ishare, dshare := x.dshare, mark := mark }

/-- Assign the panel's resources (step 2 of R273). -/
def assign (p : Panel) (slot : Nat) (a : Alloc) : Panel :=
  let q := p.seq
  let named := a.ents.map (·.th)
  let roller := q.roller.filter fun x => !(match x.2 with | some t => named.contains t | none => false)
  let roller := a.ents.foldl (fun r x => (bitsOf 16 x.pos).foldl (fun r i => fset r i (some x.th)) r) roller
  let whole := (List.range 8).filter fun g => (span (16 * g) 16).all fun k => a.banks.contains k
  { p with seq := { q with
      roller := roller
      bank := a.banks.foldl (fun m k => fset m k (some slot)) q.bank
      sealed := whole.foldl (fun m g => fset m g (a.groups.contains g)) q.sealed
      trowel := if bit a.eng 0 then some slot else q.trowel
      skim := if bit a.eng 1 then some slot else q.skim
      mitre := if bit a.eng 2 then some slot else q.mitre } }

/-- A panel as the accepted launches that have yet to begin on its logical panel will leave it, in their order: what they name is
no longer free (R31, R33). -/
def reserved (b : Body) (die lp : Nat) (p : Panel) : Panel :=
  b.ctx.slot.foldl (fun p c => (c.2.launch.filter fun l => !l.started && l.die == die && l.lp == lp).foldl (fun p l =>
    l.alloc.ents.foldl (fun p x => p.setThread x.th
      { (default : Thread) with st := .run, slot := c.1, ishare := x.ishare, dshare := x.dshare }) (assign p c.1 l.alloc)) p) p

/-- The chain table copied for a die (R142). -/
def chainCopy (b : Body) (slot : Nat) : FMap (BitVec 512) :=
  let c := ctxAt b slot
  let d := (readSegs b (segsOf b slot c.set.chainBase (64 * c.set.chainCnt))).1
  fsetMany [] 0 ((List.range c.set.chainCnt).map fun i => lineOf ((d.drop (64 * i)).take 64))

/-- Does a fill of this launch have to wait for a channel (R207)? -/
def fillsWait (b : Body) (slot : Nat) (a : Alloc) : Bool :=
  a.ents.any fun x => segsWait b (segsOf b slot x.entry x.ilen)

/-- What a launch does to the launches of its context that are under way: it is started, and every other on its panel hands over
the threads it takes, which were STOPPED. -/
def launchTakes (l : LaunchRec) (u : Nat) (y : LaunchRec) : LaunchRec :=
  if y.fly.seq = l.fly.seq then { y with started := true, since := u }
  else if y.started ∧ y.die = l.die ∧ y.lp = l.lp then
    { y with ths := y.ths.filter (fun t => !l.ths.contains t), past := y.past ++ (y.ths.filter l.ths.contains).map fun t => (t, u) }
  else y

/-- Carry out an accepted launch: assignment, chain table, fills, thread states, and the START record (R273). -/
def startThreads (e : Env) (b : Body) (slot : Nat) (l : LaunchRec) (a : Alloc) : Body :=
  let k := pkey l.die ((physOf b l.die l.lp).getD 0)
  let h := handleOf e b slot
  let b := a.ents.foldl (fun b x => findRange e slot b x.entry x.ilen) b
  let b := findRange e slot b (ctxAt b slot).set.chainBase (64 * (ctxAt b slot).set.chainCnt)
  let ts := a.ents.map fun x => (x.th, newThread b slot h ((panelAt b k).thread x.th).mark x)
  let ch := chainCopy b slot
  let b := modPanel b k fun p => ts.foldl (fun p t => p.setThread t.1 t.2) (assign p slot a)
  let b := modCtx b slot fun c =>
    { c with chain := fset c.chain l.die ch
             chainErr := fdel c.chainErr l.die
             launch := c.launch.map (launchTakes l (b.uid + 1)) }
  writeRecord e b (ctxRing slot l.ring) 1 0x00 l.fly.idx 0 l.fly.user l.fly.irq

/-- The bytes of a descriptor whose header is `h`; a number of threads above 16 is refused from the header alone. -/
def allocLen (h : List (BitVec 8)) : Nat := if bytesAt h 18 1 ≤ 16 then 64 + 32 * bytesAt h 18 1 else 64

/-- The descriptor of a launch, read from context memory. -/
def readAlloc (b : Body) (slot va : Nat) : Option Alloc :=
  match ctxBytes b slot va 64 with
  | none => none
  | some h => (ctxBytes b slot va (allocLen h)).map allocOf

/-- An accepted launch begins once its panel's rotation is over, no swatch runs on the panel (R338) and its fills can be read. A
launch whose logical panel has become unavailable while it waited is refused with PANEL_ABSENT (R56). -/
def launchBegin (e : Env) (b : Body) (slot : Nat) (l : LaunchRec) : Body :=
  if l.started then b
  else match physOf b l.die l.lp with
    | none =>
      let b := modCtx b slot fun c => { c with launch := c.launch.filter fun y => y.fly.seq != l.fly.seq }
      finishSeq b (ctxRing slot l.ring) l.fly.seq 0x0F 0
    | some pp =>
      let k := pkey l.die pp
      if (panelAt b k).rotUntil ≠ 0 ∨ (fget b.kpr.running k).isSome ∨ fillsWait b slot l.alloc then b
      else startThreads e b slot l l.alloc

/-- Launches that wait begin when they can. -/
def launchDue (e : Env) (b : Body) : Body :=
  b.ctx.slot.foldl (fun b c => (ctxAt b c.1).launch.foldl (fun b l => launchBegin e b c.1 l) b) b

/-- The flight of a command. -/
def flightOf (b : Body) (c : Cmd) : Option Flight := (ringAt b c.r).fly.find? (·.seq == c.seq)

/-- HAZE ends when work arrives (R345). -/
def leaveHaze (e : Env) (b : Body) : Body :=
  if b.kpr.pwr.st = .haze then { b with kpr := { b.kpr with pwr := { b.kpr.pwr with st := .clear, lastIssue := e.clk.tick } } } else b

/-- LAUNCH (R273): the statuses in their order INVALID, PANEL_ABSENT, RES_BUSY, ADDR_RANGE, then the launch itself. What an
earlier launch that still waits to begin was granted is busy. The descriptor is read once, when the command starts. -/
def doLaunch (c : Cmd) (b : Body) : Body :=
  let b := leaveHaze c.e b
  let d := c.at 16 1
  let lp := c.at 17 1
  let dev := c.at 18 1
  let va := c.at 24 8
  if 3 < d ∨ 7 < lp ∨ bit dev 6 ∨ 2 ^ 48 ≤ va then invalid b c
  else
    let b := findRange c.e c.slot b va 64
    let b := findRange c.e c.slot b va (allocLen ((ctxBytes b c.slot va 64).getD []))
    match readAlloc b c.slot va, flightOf b c with
    | none, _ => finish b c (if (physOf b d lp).isNone then 0x0F else 0x0A) 0
    | some _, none => b
    | some a, some f =>
      if allocBad a then invalid b c
      else match physOf b d lp with
        | none => finish b c 0x0F 0
        | some pp =>
          if allocBusy (reserved b d lp (panelAt b (pkey d pp))) c.slot a then finish b c 0x0E 0
          else if allocUnmapped b c.slot a then finish b c 0x0A 0
          else
            let l : LaunchRec :=
              { die := d, lp := lp, ths := a.ents.map (·.th), ring := ringNum c.r, fly := f,
                dev := if bit dev 7 then some (dev % 64) else none, started := false, alloc := a, since := 0,
                past := [] }
            launchBegin c.e (modCtx b c.slot fun x => { x with launch := x.launch ++ [l] }) c.slot l

/-- Is work of a thread outstanding on its panel, of instructions numbered from `lo` on, below `hi` where a later launch has
taken the thread over? Requests of an earlier context of the slot are not its work (R51). -/
def thBusy (p : Panel) (slot th lo : Nat) (hi : Option Nat) : Bool :=
  let mine (i : Ins) : Bool := i.slot == slot && i.th == th && i.handle == (p.thread th).handle && decide (lo ≤ i.uid) && hi.all fun h => decide (i.uid < h)
  p.load.any (fun x => mine x.ins) || p.store.any (fun x => mine x.ins) || p.ldt.any (fun x => mine x.ins) ||
    p.loadw.any (fun x => mine x.ins) || p.pass.any (fun x => mine x.ins) || p.chain.any (fun x => mine x.ins) ||
    p.fill.any (fun x => mine x.ins) || p.scalar.any (fun x => mine x.ins) || p.wq.any (fun x => mine x.ins) ||
    p.later.any (fun x => mine x.ins) || p.pendq.any (fun x => mine x.ins) || p.arrq.any (fun x => mine x.ins)

/-- Is a launched thread set complete (R273): every thread is STOPPED with no work outstanding? A thread that a later launch has
taken over was STOPPED; only its earlier work counts. -/
def launchComplete (b : Body) (slot : Nat) (l : LaunchRec) : Bool :=
  let p := panelAt b (pkey l.die ((physOf b l.die l.lp).getD 0))
  l.started && (l.ths.all fun t => (p.thread t).st == .stopped && !thBusy p slot t l.since none) &&
    l.past.all fun t => !thBusy p slot t.1 l.since (some t.2)

/-- LAUNCH_DONE: the DONE record, and event `DEV`. -/
def launchDone (e : Env) (b : Body) (slot : Nat) (l : LaunchRec) : Body :=
  if !launchComplete b slot l then b
  else
    let b := modCtx b slot fun c => { c with launch := c.launch.filter fun y => y.fly.seq != l.fly.seq }
    let b := completeFlight e b (ctxRing slot l.ring) { l.fly with done := some (0x00, 0) } 2
    match l.dev with
    | some v => setEventNow e b slot v
    | none => b

end Sys2Proof.Machine
end

