-- ==== Sys2Proof/Machine/Tick.lean ====
section
/-! DEFINITION. One C cycle of the module with no command: the engines' reads and writes in their order (R37 to R45, R153),
what they do in the cycle, event changes (R77), waits that become true (R76), results that become visible (R63), IDLE (R61),
fault causes (R310), and the clock. -/

namespace Sys2Proof.Machine

/-! ### Engines -/

/-- The scheduled reads of a panel in cycle `c`. -/
def panelReads (c : Nat) (p : Panel) : List RReq :=
  p.loadw.flatMap (loadwReads c) ++ p.pass.flatMap (passReads c) ++ p.chain.flatMap (chainReads c) ++
    p.store.flatMap (storeReads c) ++
    (p.scalar.filter (·.cyc == c)).flatMap fun x => match x.acc with
      | .ldsp o _ => [{ prio := 13, line := o / 64, exp := none, ins := x.ins }]
      | _ => []

/-- A result for an absolute cycle. -/
def pushAt (b : Body) (k : Nat) (i : Ins) (d : Dest) (v : BitVec 64) (poison : Bool) (at_ : Nat) : Body :=
  modPanel b k fun p => p.modThread i.th fun t => t.addRes ⟨i.issue, at_, d, v, poison⟩

/-- LDSP delivers its word (latency 6, Table 3-6). -/
def ldspStep (g : List RGot) (k : Nat) (b : Body) (x : ScalarOp) : Body :=
  match x.acc with
  | .ldsp o rd =>
    let (d, po) := gotLines g 13 x.ins.uid [o / 64]
    pushAt b k x.ins (.s rd) (BitVec.ofNat 64 (d >>> (8 * (o % 64)))) po (x.ins.issue + 6)
  | _ => b

/-- Something an engine does in a fixed cycle. -/
def laterStep (e : Env) (k : Nat) (b : Body) (x : Later) : Body :=
  let i := x.ins
  match x.act with
  | .count c => countEvents e b i c
  | .strip row pl wt col psum sig cls =>
    histAdd e (noteStrip e b i row pl wt col psum) 8 k 0x03 0 (some i.die) cls sig row
  | .stripSkip => modCtx b i.slot fun c => { c with log := { c.log with stripSkip := satAdd 0xFFFFFFFF c.log.stripSkip 1 } }
  | .arrive tile line mask data po => modPanel b k fun p => { p with arrq := p.arrq ++ [⟨i, tile, line, mask, data, po⟩] }
  | .hodRow hod r n vals po c => countEvents e (hodEnter e b k i hod r n vals po) i c

/-- The engine events due in cycle `c`. -/
def laterDue (e : Env) (c k : Nat) (b : Body) : Body :=
  let p := panelAt b k
  let due := p.later.filter fun x => decide (x.cyc ≤ c)
  due.foldl (laterStep e k) (setPanel b k { p with later := p.later.filter fun x => decide (c < x.cyc) })

/-- The engines of one panel in the current cycle: every read, then PASS (which samples its latch set before the loader
writes it), the loader, chains, fills and stores, then every scheduled write, what enters Hod and the arrival buffer, the
arrival writes, and at the end of the cycle the Hod slots that become EMPTY and the pending bits of its issues. -/
def panelCycle (e : Env) (b : Body) (k : Nat) : Body :=
  let c := e.cyc
  let b := modPanel b k fun p => { p with arrBank := [] }
  let p0 := panelAt b k
  let (b, g) := doReads e b k (panelReads c p0)
  let b := p0.chain.foldl (fun b x => noteHaz e b x.ins 7 (chainHodHaz c p0 x)) b
  let b := modPanel b k fun p => p0.pass.foldl (passStep c g) p
  let b := modPanel b k fun p => p0.loadw.foldl (loadwStep c g) p
  let b := modPanel b k fun p => p0.chain.foldl (chainStep c g p0) p
  let b := modPanel b k fun p => p0.fill.foldl (fillStep c) p
  let b := p0.store.foldl (storeStep e c g k) b
  let now := p0.scalar.filter (·.cyc == c)
  let b := now.foldl (ldspStep g k) b
  let b := modPanel b k fun p => { p with scalar := p.scalar.filter (·.cyc != c) }
  let b := drainArr e (laterDue e c k (doWrites e b k c)) k
  let b := modPanel b k fun p =>
    let p := p0.chain.foldl (hodClear c p0) p
    { p with mitreHeld := p.mitreHeld.filter fun x => decide (c < x) }
  setPends e p0.line b k

/-! ### Register accesses of threads (R395) -/

/-- CSRR reads of a panel due now. -/
def csrrDue (e : Env) (b : Body) (k : Nat) : Body :=
  ((panelAt b k).scalar.filter (·.cyc == e.cyc)).foldl (fun b x => match x.acc with
    | .csrr off rd at_ =>
      let (v, b) := reqRead e b (2 + 16 * k + x.ins.th) off
      pushAt b k x.ins (.s rd) (BitVec.ofNat 64 v) false at_
    | _ => b) b

/-- Receive a register write: it takes effect with the current K cycle, after those before it in the order of R395 (threads
in ascending panel and thread, PCIe, I3C) and after earlier ones of its own requester. -/
def regPut (b : Body) (x : RegW) : Body :=
  let q := b.dir.regq
  { b with dir := { b.dir with regq := q.filter (fun y => decide (y.ord ≤ x.ord)) ++ [x] ++ q.filter fun y => decide (x.ord < y.ord) } }

/-- CSRW writes of a panel due now. -/
def csrwDue (e : Env) (b : Body) (k : Nat) : Body :=
  ((panelAt b k).scalar.filter (·.cyc == e.cyc)).foldl (fun b x => match x.acc with
    | .csrw off v => regPut (noteWrite b (2 + 16 * k + x.ins.th)) ⟨16 * k + x.ins.th, off, v.toNat⟩
    | _ => b) b

/-! ### Waits (R76 to R79, R32) -/

/-- Does a wait's condition hold at the end of cycle `c`, on panel `k`? Events are those the panel sees in the next cycle (R77). A
rotation wait ends with its panel's release only. -/
def waitHolds (c k : Nat) (b : Body) (t : Thread) (w : Wait) : Bool :=
  let p := panelAt b k
  let cyc := c
  let c := ctxAt b t.slot
  match w.on with
  | .tok k n => decide (t.token k ≤ n)
  | .tokMask m => (List.range 16).all fun k => !bit m k || t.token k == 0
  | .ev e | .evClear e => (c.evView k (cyc + 1)).getLsbD e
  | .seal k => decide (k ≤ c.led.sealedStep) || decide (k < c.led.firstStep) || !c.led.everOpened
  | .fence a n => n == 0 || (uncopied c).all fun k => decide (a + n ≤ k * 65536 ∨ k * 65536 + 65536 ≤ a)
  | .rotate => false
  | .phase _ k => c.far.agreed.contains k
  | .tags n => decide (n ≤ tagsFree p)

/-- The clear of the event an EVWAITC waited for, made by panel `k` in cycle `c`: a set of the same cycle prevails (R77). -/
def clearWaited (c k : Nat) (b : Body) (slot : Nat) : WaitOn → Body
  | .evClear e => modCtx b slot fun x => x.evChange ⟨c, some k, 0, evMask e⟩
  | _ => b

/-- One thread's wait at the end of cycle `c`: a condition that holds in the issue cycle begins no wait (R76); one that
becomes true later is latched until the thread's next owned position. -/
def latchWait (c k : Nat) (b : Body) (th : Nat) : Body :=
  let p := panelAt b k
  let t := p.thread th
  match t.st, t.wait with
  | .wait, some w =>
    if w.met || !(waitHolds c k b t w) then b
    else if w.cycle = c then
      clearWaited c k (setPanel b k (p.setThread th { t with st := .run, wait := none })) t.slot w.on
    else setPanel b k (p.setThread th { t with wait := some { w with met := true } })
  | _, _ => b

/-- Evaluate the waits of a panel. -/
def latchWaits (c : Nat) (b : Body) (k : Nat) : Body := ((panelAt b k).seq.thr.map (·.1)).foldl (latchWait c k) b

/-- Results become visible for the next cycle, and the owner of this cycle's position counts down its IDLE (R61, R63). -/
def settlePanel (b : Body) (k c : Nat) : Body :=
  modPanel b k fun p =>
    let own := fget p.seq.roller (dieCyc b (k / 9) c % 16)
    let upd (th : Nat) (t : Thread) : Thread :=
      let t := t.settle (c + 1)
      if own = some th ∧ t.st = .run ∧ p.seq.lastIssue ≠ some c then { t with idle := t.idle - 1 } else t
    { p with seq := { p.seq with thr := fmapVals p.seq.thr upd } }

/-! ### The cycle -/

/-- Does the C domain run: is the module CLEAR (R345, R346)? -/
def cRuns (b : Body) : Bool := clocksRun b && b.kpr.pwr.st == .clear

/-- Everything the cycle does to the body. -/
def cycleBody (e : Env) (b : Body) : Body :=
  let ks := b.panel.map (·.1)
  let b := ks.foldl (csrrDue e) b
  let b := ks.foldl (csrwDue e) b
  let b := ks.foldl (panelCycle e) b
  let b := commitEvents e b
  let b := (b.ctx.slot.map (·.1)).foldl (fun b s => latchWev s e.cyc b) b
  let b := ks.foldl (latchWaits e.cyc) b
  let b := ks.foldl (fun b k => settlePanel b k e.cyc) b
  launchDue e (resultsTry e (applyFaults e b))

/-- The clock after the time of one C cycle: a tick is 1,800 of them. The C cycle counts only while the C domain runs. -/
def Clock.next (c : Clock) (run : Bool) : Clock :=
  let n := if run then c.cyc + 1 else c.cyc
  if c.sub + 1 < Config.cPerTick then { c with sub := c.sub + 1, cyc := n }
  else { tick := c.tick + 1, sub := 0, cyc := n }

end Sys2Proof.Machine
end

