-- ==== Sys2Proof/Machine/Issue.lean ====
section
/-! DEFINITION. The issue of a bundle (R60 to R64, R73, R74, R81 to R90): fetch, the plans of its slots, skips, tags, register
and token effects, control flow, waits and STOP; resumption (R32); and the one-slot bundle a slot row issues. -/

namespace Sys2Proof.Machine

/-! ### Slots of a bundle -/

/-- A slot ready to issue: its code, opcode, whether its opcode is a loop entry, and its plan. -/
structure SlotPlan where
  sl : Nat
  opc : Nat
  loop : Bool
  plan : Plan

/-- The opcode of a slot's word. -/
def opcOf (sl w : Nat) : Nat := if slotBits sl = 32 then fld w 31 26 else fld w 63 58

/-- The plan of a slot word by slot and opcode. -/
def planSlot (ic : IC) (sl w : Nat) : Plan :=
  match sl with
  | 0 => planScl ic w
  | 1 => planVec ic w
  | 2 => planMat ic w
  | 3 => planLdx ic w
  | 4 => planStx ic w
  | _ => planSyn ic w

/-- A slot that writes the predicate another slot of its bundle writes is skipped with DUP_DEST, the SCL slot executes (R63):
CMP beside TESTOVF or TESTTOK. -/
def dupDest (slots : List (Nat × Nat)) : Bool :=
  match slots.find? (·.1 == 0), slots.find? (·.1 == 5) with
  | some (_, a), some (_, w) => opcOf 0 a == 0x18 && (opcOf 5 w == 0x0C || opcOf 5 w == 0x0D) && fld a 25 23 == fld w 25 23
  | _, _ => false

/-- Add a reason to a plan: the lowest reason that holds is recorded (R89). -/
def Plan.also (p : Plan) (bad : Bool) (r : Nat) : Plan :=
  if !bad then p
  else match p with
    | .skip r' t m => .skip (min r r') t m
    | .go a => .skip r a.tok none

/-- The slots of a bundle with their plans. -/
def bundlePlans (ic : IC) (slots : List (Nat × Nat)) : List SlotPlan :=
  slots.map fun s =>
    ⟨s.1, opcOf s.1 s.2, s.1 == 0 && (opcOf 0 s.2 == 0x34 || opcOf 0 s.2 == 0x35),
      (planSlot ic s.1 s.2).also (s.1 == 5 && dupDest slots) 0x0F⟩

/-- TOK_FULL (R73): each transfer is tested against its token after the earlier transfers of the bundle. -/
def tokenTest (t : Thread) : List Nat → List SlotPlan → List SlotPlan
  | _, [] => []
  | up, x :: xs =>
    let full (k : Nat) : Bool := decide (1023 < t.token k + (up.filter (· == k)).length + 1)
    match x.plan with
    | .go a => match a.tok with
      | some k => if full k then { x with plan := x.plan.also true 0x0E } :: tokenTest t up xs
                  else x :: tokenTest t (k :: up) xs
      | none => x :: tokenTest t up xs
    | .skip _ (some k) _ => { x with plan := x.plan.also (full k) 0x0E } :: tokenTest t up xs
    | .skip _ none _ => x :: tokenTest t up xs

/-- Tags a bundle takes (R74). -/
def tagsOf (l : List SlotPlan) : Nat := (l.map fun x => match x.plan with | .go a => a.tags | .skip .. => 0).sum

/-- The wait its SYN slot begins. -/
def waitOf (l : List SlotPlan) : Option WaitOn :=
  l.findSome? fun x => match x.plan with | .go a => a.wait | .skip .. => none

/-- The control flow its SCL slot asks for. A skipped slot changes none (R85, R88): a skipped loop entry goes on in order, and in
the end bundle of the innermost loop R83 applies to the bundle as to any other (log entry 73). -/
def flowOf (l : List SlotPlan) : Flow :=
  match l.find? (·.sl == 0) with
  | none => .seq
  | some x => match x.plan with
    | .go a => a.flow
    | .skip .. => .seq

/-- Did the instruction itself raise a context fault in going from `b` to `b'`? -/
def faultedAt (i : Ins) (b b' : Body) : Bool :=
  (b'.ctx.faultq.drop b.ctx.faultq.length).any fun f => f.slotc == i.slotc && f.baddr == some i.baddr

/-- Carry out one slot; one that faults at issue starts no transfer, so it takes no tag and counts no token up. -/
def runSlot (ic : IC) (b : Body) (x : SlotPlan) : Body :=
  let (u, b) := freshUid b
  let i := ic.ins u x.sl x.opc
  match x.plan with
  | .skip r _ m =>
    let b := noteSkip b i r
    match m with
    | some n => modPanel b ic.k fun p => p.modThread ic.th fun t => t.setS n (t.sreg n).val true
    | none => b
  | .go a =>
    let b0 := b
    let b := modPanel b ic.k fun p => p.takeTags a.tags
    let b := match a.tok with
      | some k => modPanel b ic.k fun p => p.modThread ic.th fun t => t.tokUp k
      | none => b
    let r := a.run i b
    if faultedAt i b0 r then a.run i b0 else r

/-! ### Control flow (R81 to R85) -/

/-- The next bundle address and loop stack after the bundle at `pc`, whose successor in memory is `next`; none when the
address after a loop's end bundle is not resident. -/
def follow (t : Thread) (pc next : Nat) : Flow → Option (Nat × List LoopEnt)
  | .seq => some (loopEnds pc next t.loops)
  | .plain => some (next, t.loops)
  | .jump a => some (a, t.loops)
  | .enter n first last => some (first, ⟨n, first, last⟩ :: t.loops)
  | .past last => (afterBundle t last).map fun a => (a, t.loops)
  | .leave => match t.loops with
    | [] => some (next, [])
    | x :: xs => (if x.last = pc then some next else afterBundle t x.last).map fun a => loopEnds pc a xs

/-! ### The bundle -/

/-- A fault at a bundle itself. -/
def fetchFault (ic : IC) (cause : Nat) : FaultReq :=
  { slot := ic.slot, cause := cause, th := some (ic.th, ic.k % 9, ic.lp), die := some ic.die, slotc := 6,
    baddr := some ic.pc, unit := 7, oper := 0, origin := none, detail := 0 }

/-- Issue a bundle with control bits `ctl` and slots `l` (R61 to R64). When its tags are not free the thread waits and the
bundle does not issue (R74); when they have been taken again by its retry it begins a new wait, whose Plumb limit starts afresh
(DESIGN CHOICE, log entry 73). A count-0 loop or an EXITIF goes on after the end bundle of a body; when that bundle is not
resident, so that its length is not known, the fetch misses at the loop or EXITIF bundle (DESIGN CHOICE, log entry 73). -/
def issueCore (ic : IC) (b : Body) (ctl : Nat) (l : List SlotPlan) : Body :=
  let l := tokenTest ic.t [] l
  let n := tagsOf l
  if tagsFree ic.p < n then
    modPanel b ic.k fun p => p.modThread ic.th fun t =>
      { t with st := .wait, wait := some ⟨.tags n, ic.cyc, ic.e.tick, false, ic.c.set.waitLim, ic.pc⟩ }
  else
    let b := if ctl % 64 ≠ 0 then noteSkip b (ic.ins 0 6 0) 0x03 else b
    let b := l.foldl (runSlot ic) b
    let stop := bit ctl 7
    let b := modPanel b ic.k fun p => { p with seq := { p.seq with lastIssue := some ic.cyc } }
    let b := { b with kpr := { b.kpr with pwr := { b.kpr.pwr with lastIssue := ic.e.clk.tick } } }
    match follow ic.t ic.pc ic.next (flowOf l) with
    | none => raise b (fetchFault ic 0x08)
    | some (pc, loops) => modPanel b ic.k fun p => p.modThread ic.th fun t =>
        { t with
          pc := pc
          loops := loops
          mark := if bit ctl 6 then ic.pc else t.mark
          idle := fld ctl 9 8
          st := if stop then .stopped else if (waitOf l).isSome then .wait else t.st
          wait := if stop then none else (waitOf l).map fun w => ⟨w, ic.cyc, ic.e.tick, false, ic.c.set.waitLim, ic.pc⟩ }

/-! ### Who may issue -/

/-- Does a panel issue in this cycle: it serves its logical panel, no rotation holds it, its die and clocks run, and the
module is CLEAR? -/
def panelRuns (e : Env) (b : Body) (die : Nat) (p : Panel) : Bool :=
  p.st == .active && decide (p.rotUntil = 0) && !(fget b.die die).inReset && !b.kpr.pwr.clocksOff && !b.kpr.pwr.stopped && !b.kpr.pwr.off &&
    b.kpr.pwr.st == .clear && p.seq.lastIssue != some e.cyc

/-- The thread that owns the current roller position of a panel (R30). -/
def ownerNow (e : Env) (b : Body) (die : Nat) (p : Panel) : Option Nat := fget p.seq.roller (dieCyc b die e.cyc % 16)

/-- A waiting thread whose condition has become true resumes in the current cycle; EVWAITC clears its event, or goes on waiting
when its panel sees it cleared by another (R32, R77). -/
def resumeThread (e : Env) (b : Body) (k th : Nat) : Body :=
  let p := panelAt b k
  let t := p.thread th
  match t.st, t.wait with
  | .wait, some w =>
    if !w.met then b
    else match w.on with
      | .evClear ev =>
        if ((ctxAt b t.slot).evView k e.cyc).getLsbD ev then
          clearWaited e.cyc k (setPanel b k (p.setThread th { t with st := .run, wait := none })) t.slot w.on
        else setPanel b k (p.setThread th { t with wait := some { w with met := false } })
      | _ => setPanel b k (p.setThread th { t with st := .run, wait := none })
  | _, _ => b

/-- The issue context of a thread. -/
def icOf (e : Env) (b : Body) (k die lp th pc next : Nat) : IC := ⟨e, b, k, die, lp, th, (panelAt b k).thread th, pc, next⟩

/-- Fetch and issue the bundle of the owner of the current position (R86); a page of it that is not mapped faults (R264). -/
def fetchIssue (e : Env) (b : Body) (k die lp th : Nat) : Body :=
  let t := (panelAt b k).thread th
  if t.st ≠ .run ∨ t.idle ≠ 0 then b
  else
    let ic := icOf e b k die lp th t.pc 0
    match fetchBytes t t.pc 2 with
    | none => raise b (fetchFault ic 0x08)
    | some (h, _) =>
      let n := hdrLen (bytesVal h)
      match fetchBytes t t.pc n with
      | none => raise b (fetchFault ic 0x08)
      | some (d, po) =>
        let b := findInstr e b die t t.pc n
        if po then raise b (fetchFault ic 0x07)
        else match xlate b t.slot t.pc n false with
        | .fault c => raise b (fetchFault ic c)
        | .ok _ =>
          let x := Bundle.parse d
          let ic := icOf e b k die lp th t.pc ((t.pc + n) % 2 ^ 48)
          issueCore ic b x.ctl (bundlePlans ic x.slots)

/-- BUNDLE_ISSUE on logical panel `lp` of die `die`, in the current cycle. -/
def bundleIssue (die lp : Nat) (e : Env) (b : Body) : Body :=
  match physOf b die lp with
  | none => b
  | some pp =>
    let k := pkey die pp
    let p := panelAt b k
    match ownerNow e b die p with
    | none => b
    | some th =>
      if panelRuns e b die p then fetchIssue e (resumeThread e b k th) k die lp th else b

/-- THREAD_RESUME: the thread owns the current position and its wait has ended. -/
def threadResume (t : ThreadRef) (e : Env) (b : Body) : Body :=
  match physOf b t.die.val t.lp.val with
  | none => b
  | some pp =>
    let k := pkey t.die.val pp
    let p := panelAt b k
    if ownerNow e b t.die.val p = some t.th.val ∧ panelRuns e b t.die.val p then resumeThread e b k t.th.val else b

/-! ### Slot rows -/

/-- A slot word with the row's opcode in its opcode field. -/
def withOpc (sl opc w : Nat) : Nat :=
  let lo := slotBits sl - 6
  w % 2 ^ lo + opc * 2 ^ lo

/-- A slot row: thread `t` issues, at its pc and in its owned position, a bundle whose only slot is `w`. -/
def issueSlot (sl opc : Nat) (plan : IC → Nat → Plan) (t : ThreadRef) (w : Nat) (e : Env) (b : Body) : Body :=
  match physOf b t.die.val t.lp.val with
  | none => b
  | some pp =>
    let k := pkey t.die.val pp
    let p := panelAt b k
    let x := p.thread t.th.val
    if panelRuns e b t.die.val p ∧ ownerNow e b t.die.val p = some t.th.val ∧ x.st = .run ∧ x.idle = 0 then
      let ic := icOf e b k t.die.val t.lp.val t.th.val x.pc ((x.pc + 2 + slotBits sl / 8) % 2 ^ 48)
      let loop := sl == 0 && (opc == 0x34 || opc == 0x35)
      issueCore ic b 0 [⟨sl, opc, loop, plan ic (withOpc sl opc w)⟩]
    else b

end Sys2Proof.Machine
end

