-- ==== Sys2Proof/Machine/Run.lean ====
section
/-! DEFINITION. How a command's effect on the body becomes an outcome: the effect, then the error summaries it sets (R402).
Causes raised by a command that is no slot take effect at once; those of a slot at the end of its cycle (R310). -/

namespace Sys2Proof.Machine

/-- What a command answers. -/
abbrev Out := Host.Outcome State Fault Refusal

/-- Answer the next state with a changed body. -/
def runBody (f : Env → Body → Body) (s : State) : Out := .next { s with body := errSync s.body (f s.env s.body) }

/-- Run a command that is no slot. -/
def runCmd (f : Env → Body → Body) (s : State) : Out := runBody (boundary f) s

/-- Run a slot row. -/
def runSlotRow (sl opc : Nat) (plan : IC → Nat → Plan) (t : ThreadRef) (w : Nat) (s : State) : Out :=
  runBody (issueSlot sl opc plan t w) s

end Sys2Proof.Machine
end

