-- ==== Sys2Proof/Machine/Cmd.lean ====
section
/-! DEFINITION. What ring commands do when they start (spec 10): the words of a command row, the simple commands, transfers
between context addresses, mappings, contexts, scaffolds held by the host, and route sets. Groups, the ledger and
collectives have files of their own. -/

namespace Sys2Proof.Machine

/-! ### Command words -/

/-- A command word with `n` bits at bit `lo` set to `v`. -/
def putBits (w : BitVec 512) (lo n v : Nat) : BitVec 512 :=
  BitVec.ofNat 512 (w.toNat % 2 ^ lo + v % 2 ^ n * 2 ^ lo + w.toNat / 2 ^ (lo + n) * 2 ^ (lo + n))

/-- What a command accepts and does: the rings (see `startCommand`), its body fields, its effect at its start. -/
structure CmdSpec where
  adm : Nat
  fs : List (Nat × Nat)
  act : Cmd → Body → Body

/-- Start the command of a row: its opcode is the row's, whatever the word says. -/
def startRow (opc : Nat) (k : CmdSpec) (r : RingRef) (w : BitVec 512) (e : Env) (b : Body) : Body :=
  startCommand e b r (putBits w 0 8 opc) k.adm k.fs k.act

/-- Is a context address range a range of context addresses at all? -/
def vaOk (a n : Nat) : Bool := decide (a + n ≤ 2 ^ 48)

/-! ### NOP, EVENT, FENCE, PROG_LOAD, LAUNCH -/

/-- NOP completes at its start. -/
def nopSpec : CmdSpec := ⟨3, [], fun c b => finishOk b c⟩

/-- Would setting events of a context wake a thread that waits for one of them? -/
def eventWakes (b : Body) (slot : Nat) (m : BitVec 64) : Bool :=
  b.panel.any fun p => p.2.seq.thr.any fun t => t.2.st == .wait && t.2.slot == slot &&
    (match t.2.wait.map Wait.on with | some (WaitOn.ev e) => m.getLsbD e | some (WaitOn.evClear e) => m.getLsbD e | _ => false)

/-- EVENT (R271): 0 sets, 1 clears the masked events; the change is visible on every die when the command completes. -/
def doEvent (c : Cmd) (b : Body) : Body :=
  let m := BitVec.ofNat 64 (c.at 24 8)
  let b := if c.at 16 1 = 0 ∧ eventWakes b c.slot m then leaveHaze c.e b else b
  if c.at 16 1 = 0 then finishOk (latchWev c.slot c.e.cyc (modCtx b c.slot fun x => x.evChange ⟨c.e.cyc, none, m, 0⟩)) c
  else if c.at 16 1 = 1 then finishOk (modCtx b c.slot fun x => x.evChange ⟨c.e.cyc, none, 0, m⟩) c
  else invalid b c

/-- EVENT. -/
def eventSpec : CmdSpec := ⟨0, [(16, 8), (24, 64)], doEvent⟩

/-- FENCE stays in flight until every command started earlier on a ring of its context has completed. -/
def fenceSpec : CmdSpec := ⟨0, [], fun _ b => b⟩

/-- PROG_LOAD. -/
def progSpec : CmdSpec := ⟨0, [(24, 64)], doProgLoad⟩

/-- LAUNCH. -/
def launchSpec : CmdSpec := ⟨0, [(16, 8), (17, 8), (18, 8), (24, 64)], doLaunch⟩

/-! ### Transfers of commands -/

/-- Add a transfer; with nothing to move the command completes at once. -/
def addJob (b : Body) (j : Job) : Body := { b with ctx := { b.ctx with jobs := b.ctx.jobs ++ [j] } }

/-- Change a transfer. -/
def modJob (b : Body) (uid : Nat) (f : Job → Job) : Body :=
  { b with ctx := { b.ctx with jobs := b.ctx.jobs.map fun j => if j.uid = uid then f j else j } }

/-- The transfer of a command. -/
def newJob (c : Cmd) (b : Body) (kind : Nat) (todo : List JobItem) (ret : Option Nat) : Nat × Body :=
  let (u, b) := freshUid b
  (u, addJob b { uid := u, slot := c.slot, handle := handleOf c.e b c.slot, ring := ringNum c.r, seq := c.seq, kind := kind,
                 todo := todo, poisoned := 0, refused := false, ret := ret, step := stepNum (ctxAt b c.slot) })

/-- Cut a range at the 64-byte lines of its destination: (offset, length). -/
def dstPieces (d n : Nat) : List (Nat × Nat) := (linePieces (n / 64 + 2) d n).map fun p => (p.1 - d, p.2)

/-- The pieces of a local copy from `src` to `dst`, and to `pool` when one is given. -/
def copyItems (b : Body) (slot src dst n : Nat) (pool : Option Nat) : List JobItem :=
  let ps := dstPieces dst n
  ((List.range ps.length).zip ps).map fun x =>
    { id := x.1, src := segsOf b slot (src + x.2.1) x.2.2, dst := segsOf b slot (dst + x.2.1) x.2.2,
      pool := match pool with | some q => segsOf b slot (q + x.2.1) x.2.2 | none => [], remote := false }

/-- COPY (R274): the overlap first, then every page of both ranges. -/
def doCopy (c : Cmd) (b : Body) : Body :=
  let s := c.at 16 6
  let d := c.at 24 6
  let n := c.at 32 8
  if n = 0 ∨ 2 ^ 40 < n ∨ (s < d + n ∧ d < s + n) then invalid b c
  else match xlate b c.slot s n false, xlate b c.slot d n true with
    | .ok _, .ok _ => (newJob c b 0 (copyItems b c.slot s d n none) none).2
    | _, _ => finish b c 0x0A 0

/-- COPY. -/
def copySpec : CmdSpec := ⟨0, [(16, 48), (24, 48), (32, 64)], doCopy⟩

/-- A command's transfer has moved its last piece: the retention slot it fills, and the completion (R177, R274, R275). A slot
that was freed meanwhile, and may since be another gather's, stays as it is. -/
def jobEnd (b : Body) (j : Job) : Body :=
  let b := match j.ret with
    | none => b
    | some s => modCtx b j.slot fun c =>
      let x := fget c.ret.slot s
      if x.st ≠ RState.pending ∨ x.filler ≠ j.uid then c
      else { c with ret := { c.ret with slot :=
        (if j.refused then fset c.ret.slot s { x with st := .dropped, gran := 0, off := 0 }
        else fset c.ret.slot s { x with st := .retained }) } }
  let b := { b with ctx := { b.ctx with jobs := b.ctx.jobs.filter (·.uid != j.uid) } }
  let r := ctxRing j.slot j.ring
  if j.refused then finishSeq b r j.seq 0x1E 0
  else if j.poisoned ≠ 0 then finishSeq b r j.seq 0x1D (BitVec.ofNat 32 j.poisoned)
  else finishSeq b r j.seq 0x00 0

/-- Write one piece of a transfer, its bytes with the poison of their source lines: poisoned to module memory; to host memory the
bytes of a poisoned source line are zero (R274). The flag says whether every part was written. -/
def putPiece (e : Env) (b : Body) (slot uid id : Nat) (gs : List Seg) (d : List (BitVec 8 × Bool)) : Body × Bool :=
  if gs.any (·.host) then tryPut e b (some slot) uid id gs (d.map fun x => if x.2 then 0 else x.1) false
  else tryPut e b (some slot) uid id gs (d.map (·.1)) (d.any (·.2))

/-- The memory controllers serve piece `id` of a command's local transfer: read, write, acknowledge (R196). -/
def jobAck (e : Env) (b : Body) (uid id : Nat) : Body :=
  match b.ctx.jobs.find? (·.uid == uid) with
  | none => b
  | some j =>
    match j.todo.find? fun x => x.id == id && !x.remote with
    | none => b
    | some x =>
      if segsWait b x.src then b
      else
        let b := findSegs e (some j.slot) b x.src
        let d := readSegsB b x.src
        let (b1, ok) := putPiece e b j.slot uid (2 * id) x.dst d
        let (b2, ok2) := if ok then putPiece e b1 j.slot uid (2 * id + 1) x.pool d else (b1, false)
        if !ok || !ok2 then b1
        else
          let j' := { j with todo := j.todo.filter (·.id != id), poisoned := j.poisoned + b2n (d.any (·.2)) }
          let b2 := modJob b2 uid fun _ => j'
          if j'.todo.isEmpty then jobEnd b2 j' else b2

/-! ### Route sets (R239, R241, R242) -/

/-- Does the module offer this route set? -/
def setFitted (b : Body) (s : Nat) : Bool := decide (s < 2) || hubFeat b

/-- ROUTE_LOAD. -/
def doRouteLoad (c : Cmd) (b : Body) : Body :=
  let s := c.at 16 1
  let n := c.at 20 4
  let t := c.at 24 8
  let x := ctxAt b c.slot
  if x.id.job = 0 ∨ 3 < s ∨ n = 0 ∨ 16384 < n ∨ !vaOk t (4 * n) then invalid b c
  else if !setFitted b s then finish b c 0x04 0
  else if s = x.far.active then finish b c 0x11 0
  else
    let b := findRange c.e c.slot b t (4 * n)
    match ctxBytes b c.slot t (4 * n) with
    | none => finish b c 0x0A 0
    | some d =>
      if routeFree b + fget x.far.loaded s < n then finish b c 0x10 0
      else
        let tab : FMap (BitVec 32) := fsetMany [] 0 ((List.range n).map fun i => BitVec.ofNat 32 (bytesAt d (4 * i) 4))
        finishOk (modCtx b c.slot fun x => { x with far :=
          { x.far with sets := fset x.far.sets s tab, loaded := fset x.far.loaded s n } }) c

/-- ROUTE_LOAD. -/
def routeSpec : CmdSpec := ⟨0, [(16, 8), (20, 32), (24, 64)], doRouteLoad⟩

/-- REDRAW: the set becomes active with the agreement on token `K` of the open step. -/
def doRedraw (c : Cmd) (b : Body) : Body :=
  let s := c.at 16 1
  let x := ctxAt b c.slot
  if x.id.job = 0 ∨ 3 < s ∨ x.far.pend.isSome then invalid b c
  else if !setFitted b s then finish b c 0x04 0
  else if fget x.far.loaded s = 0 then finish b c 0x12 0
  else modCtx b c.slot fun x => { x with far := { x.far with pend := some (s, c.at 17 1, c.seq) } }

/-- REDRAW. -/
def redrawSpec : CmdSpec := ⟨0, [(16, 8), (17, 8)], doRedraw⟩

/-! ### Micro-batch tags (R178) -/

/-- Is a tag held by another context? -/
def tagForeign (b : Body) (slot t : Nat) : Bool := b.ctx.slot.any fun c => c.1 != slot && c.2.ret.tags.getLsbD t

/-- TAG_RELEASE frees every retention slot that bears the tag. -/
def doTagRelease (c : Cmd) (b : Body) : Body :=
  let t := c.at 16 1
  if 63 < t then invalid b c
  else if tagForeign b c.slot t then finish b c 0x05 0
  else finishOk (dropTags (freeRet b c.slot fun _ s => s.st != .free && s.tag == t) c.slot) c

/-- TAG_RELEASE. -/
def tagSpec : CmdSpec := ⟨0, [(16, 8)], doTagRelease⟩

/-! ### Mappings (R265, R272) -/

/-- Entries of the translation store in use. -/
def xlateUsed (b : Body) : Nat := (b.ctx.slot.map fun c => c.2.xl.length).sum

/-- The module pages in the order in which the controllers initialise them (R350), as ranges of page numbers: the Lining, the
spare regions (which have no module address), the ordinary parts in ascending address order. -/
def initRanges (b : Body) : List (Nat × Nat) :=
  let lin := liningBase b / 2 ^ 21
  let spare := ((List.range 8).map fun s => 32 * 128 * (fget b.mem.stack s).spareIn).sum
  [(lin, b.mem.tb.liningIn * 512), (2 ^ 30, spare)] ++
    ((List.range 4).map fun d => (d * 2 ^ 17, winCap b d / 2 ^ 21)) ++ [(2 ^ 19, lin - 2 ^ 19)]

/-- Where a page stands in that order. -/
def initPos (l : List (Nat × Nat)) (pg : Nat) : Option Nat :=
  match l with
  | [] => none
  | (a, n) :: t => if a ≤ pg ∧ pg < a + n then some (pg - a) else (initPos t pg).map (n + ·)

/-- Is a module page not yet initialised? -/
def pageUninit (b : Body) (pg : Nat) : Bool :=
  match b.mem.initAt with
  | none => false
  | some k => !(fget b.mem.initEarly pg) && (match initPos (initRanges b) pg with | some i => decide (k ≤ i) | none => false)

/-- Pages of a command that lie in the window of a die. -/
def inWindow (d : Nat) (ps : List Nat) : Nat := (ps.filter fun p => p / 2 ^ 17 == d && decide (p < 2 ^ 19)).length

/-- Frames free for pins (Table 8-8). -/
def pinFree (b : Body) (d : Nat) : Nat :=
  let x := fget b.mem.str d
  128 - x.fbresIn - x.pinned.length

/-- The first failing check of MEM_MAP, as its status; 0 when none fails. -/
def mapCheck (b : Body) (slot : Nat) (host pin : Bool) (vs ps : List Nat) : Nat :=
  if vs.any fun v => (fget (ctxAt b slot).xl v).valid then 0x0B
  else if !host && ps.any (fun p => !pagePopulated b p) then 0x0A
  else if 2097152 < xlateUsed b + ps.length then 0x0C
  else if pin && (host || ps.any fun p => decide (2 ^ 19 ≤ p)) then 0x09
  else if pin && (List.range 4).any (fun d => decide (pinFree b d < inWindow d ps)) then 0x08
  else 0

/-- Map pages, initialise those that are not yet initialised, pin them when asked. -/
def mapPages (b : Body) (slot : Nat) (host wr pin : Bool) (vs ps : List Nat) : Body :=
  let vp := vs.zip ps
  let fresh := if host then [] else ps.filter (pageUninit b)
  let b := modCtx b slot fun c => { c with xl := vp.foldl (fun m x => fset m x.1 ⟨true, host, x.2, wr, pin⟩) c.xl }
  let b := if pin then vp.foldl (fun b x => modStr (frameIn b (x.2 * 32768) 32768) (x.2 / 2 ^ 17) fun y =>
      { y with pinned := y.pinned ++ [(slot, x.2)] }.trim) b else b
  { b with mem := { b.mem with initEarly := fresh.foldl (fun m p => fset m p true) b.mem.initEarly } }

/-- The copies of pages into frames read the stack, and find what errors the pages hold (R191, R200). -/
def pinRead (e : Env) (b : Body) (slot : Nat) (ps : List Nat) : Body :=
  ((b.mem.bad.map (·.1)).filter fun l => ps.contains (l / 32768)).foldl (findLine e (some slot) true) b

/-- MEM_MAP (R272). -/
def doMemMap (c : Cmd) (b : Body) : Body :=
  let k := c.at 16 1
  let n := c.at 20 4
  let va := c.at 24 8
  let pa := c.at 32 8
  if 1 < k ∨ n = 0 ∨ 2097152 < n ∨ va % 2 ^ 21 ≠ 0 ∨ pa % 2 ^ 21 ≠ 0 ∨ !vaOk va (n * 2 ^ 21) ∨ 2 ^ 64 < pa + n * 2 ^ 21 then invalid b c
  else
    let vs := span (va / 2 ^ 21) n
    let ps := span (pa / 2 ^ 21) n
    let pin := c.bits 17 1 1 == 1
    let st := mapCheck b c.slot (k == 1) pin vs ps
    if st ≠ 0 then finish b c st 0
    else finishOk (mapPages (if pin then pinRead c.e b c.slot ps else b) c.slot (k == 1) (c.bits 17 0 0 == 1) pin vs ps) c

/-- MEM_MAP. -/
def mapSpec : CmdSpec := ⟨1, [(16, 8), (17, 2), (20, 32), (24, 64), (32, 64)], doMemMap⟩

/-- Do the pages `v .. v + n - 1` hold part of the retention pool, of a declared region, or of a replay buffer (R265)? -/
def pagesInUse (x : Ctx) (v n : Nat) : Bool :=
  let hit (a k : Nat) : Bool := k != 0 && decide (a < v + n ∧ v < a + k)
  let pages (a len : Nat) : Nat := (a + len - 1) / 2 ^ 21 + 1 - a / 2 ^ 21
  hit x.ret.base x.ret.size || x.led.regions.any (fun r => hit (r.addr / 2 ^ 21) (pages r.addr r.len)) ||
    x.led.step.any fun s => s.2.rb.any fun r => r.tag != 0xFF && r.units != 0 && hit (r.addr / 2 ^ 21) (pages r.addr (r.units * 65536))

/-- MEM_UNMAP (R265): the mapping of every page first, then IN_USE. It completes when no request that translated through
the pages is outstanding. -/
def doMemUnmap (c : Cmd) (b : Body) : Body :=
  let n := c.at 20 4
  let va := c.at 24 8
  let x := ctxAt b c.slot
  if n = 0 ∨ 2097152 < n ∨ va % 2 ^ 21 ≠ 0 ∨ !vaOk va (n * 2 ^ 21) then invalid b c
  else
    let v := va / 2 ^ 21
    if (span v n).any fun p => !(fget x.xl p).valid then finish b c 0x0A 0
    else if pagesInUse x v n then finish b c 0x17 0
    else
      let old := (span v n).map fun p => fget x.xl p
      let pgs := (old.filter (·.pin)).map (·.page)
      let b := unpin (modCtx b c.slot fun x => { x with xl := fclear x.xl v n }) c.slot pgs.contains
      { b with host := { b.host with unmaps := b.host.unmaps ++ [⟨c.seq, c.slot, old.map fun y => (y.host, y.page)⟩] } }

/-- MEM_UNMAP. -/
def unmapSpec : CmdSpec := ⟨1, [(20, 32), (24, 64)], doMemUnmap⟩

/-- The memory-side ranges of the requests a context has outstanding: loads, stores, tile loads, command transfers and results, far
transfers that arrived for it. -/
def outSegs (b : Body) (slot : Nat) : List Seg :=
  (b.panel.flatMap fun p =>
    ((p.2.load.filter (·.ins.slot == slot)).flatMap fun x => x.space ++ x.todo.flatMap fun l => l.segs ++ l.segs2) ++
    ((p.2.store.filter (·.ins.slot == slot)).flatMap fun x => x.space ++ x.space2 ++ x.out.flatMap (·.segs)) ++
    ((p.2.ldt.filter (·.ins.slot == slot)).flatMap fun x => x.rows.flatten ++ x.scales.flatten)) ++
  ((b.ctx.jobs.filter (·.slot == slot)).flatMap fun j => j.todo.flatMap fun x => x.src ++ x.dst ++ x.pool) ++
  ((b.fab.puts.filter (·.slot == slot)).flatMap fun x => x.todo.flatMap (·.segs)) ++
  ((b.host.results.filter (·.slot == some slot)).flatMap (·.segs))

/-- Has an unmapping nothing to wait for any more? -/
def unmapReady (b : Body) (u : UnmapWait) : Bool :=
  (outSegs b u.slot).all fun g => g.len == 0 || u.pages.all fun p =>
    p.1 != g.host || decide (p.2 < g.addr / 2 ^ 21 ∨ (g.addr + g.len - 1) / 2 ^ 21 < p.2)

/-! ### Contexts (R225, R258 to R261, R269, R320, R412) -/

/-- Is a create block within its values (Table 10-8, R320)? -/
def blockOk (d : List (BitVec 8)) : Bool :=
  let f (o n : Nat) : Nat := bytesAt d o n
  let job := f 16 4
  let ring (r : Nat) : Bool :=
    let o := 48 + 32 * r
    f (o + 17) 1 == 0 && f (o + 21) 1 == 0 && f (o + 24) 8 == 0 &&
      (f (o + 16) 1 == 0 ||
        (decide (4 ≤ f (o + 16) 1 ∧ f (o + 16) 1 ≤ 16) && f o 8 % 64 == 0 && f (o + 8) 8 % 64 == 0 && decide (1 ≤ f (o + 18) 2 ∧ f (o + 18) 2 < 2048)))
  decide (f 8 1 ≤ 2) && decide (f 9 1 < 32) && decide (1 ≤ f 12 2 ∧ f 12 2 ≤ 256) && decide (f 14 1 ≤ 3) && f 15 1 == 0 &&
    decide (f 21 1 < 16) && f 22 2 == 0 && decide (f 24 4 < 2 ^ 27) && f 30 2 == 0 && f 40 8 == 0 &&
    (job == 0 || (decide (1000 ≤ f 32 4) && decide (1 ≤ f 36 4))) && f 64 1 != 0 && (List.range 4).all ring &&
    ((d.drop 176).take 80).all (· == 0)

/-- Does a pinned level lie in the module's ranges (R230)? -/
def levelOk (b : Body) (trn col ldg : Nat) : Bool :=
  let rg (k : Nat) : Nat := fget b.fab.range k
  decide (rg 0 ≤ trn ∧ trn ≤ rg 1 ∧ rg 8 ≤ col ∧ col ≤ rg 9 ∧ rg 6 ≤ ldg ∧ ldg ≤ rg 7)

/-- May a job context be created (R225)? -/
def joinOk (b : Body) : Bool := (b.fab.outcome == 1 || b.fab.outcome == 2) && (List.range 6).any (portUp b)

/-- The ring a create block describes. -/
def ringOf (d : List (BitVec 8)) (r : Nat) : Ring :=
  let o := 48 + 32 * r
  let f (i n : Nat) : Nat := bytesAt d (o + i) n
  if f 16 1 = 0 then default
  else { (default : Ring) with
    present := true, cmdBase := f 0 8, cplBase := f 8 8, logn := f 16 1, vec := f 18 2, modCnt := f 20 1, modTick := f 22 2, cplPhase := true }

/-- The context a create block describes. -/
def ctxOf (d : List (BitVec 8)) : Ctx :=
  let f (o n : Nat) : Nat := bytesAt d o n
  { (default : Ctx) with
    id := { (default : CtxId) with
      st := .live, minp := bit (f 14 1) 1, secp := bit (f 14 1) 0, trn := f 20 1 / 16, col := f 20 1 % 16, ldg := f 21 1, job := f 16 4 }
    set := { (default : CtxSet) with stampMode := f 8 1, illThresh := f 10 2, waitLim := f 32 4, stepLim := f 36 4 }
    num := { (default : CtxNum) with
      flagMask := f 9 1 % 16, mxScale := bit (f 9 1) 4, flagIn := f 9 1 % 16, mxIn := bit (f 9 1) 4, seed := BitVec.ofNat 64 (f 0 8) }
    ret := { (default : CtxRet) with size := f 28 2, base := f 24 4 }
    ring := fsetMany [] 0 ((List.range 4).map (ringOf d))
    far := { (default : CtxFar) with phaseQ := f 12 2, phaseQIn := f 12 2 } }

/-- The slot a create takes: the one that has been free longest, ascending among equals (R259). -/
def freeChoice (b : Body) : Option Nat := if b.ctx.nextFresh < 4096 then some b.ctx.nextFresh else b.ctx.freed.head?

/-- Take the chosen slot out of the order. -/
def takeSlot (b : Body) (s : Nat) : Body :=
  if s = b.ctx.nextFresh then { b with ctx := { b.ctx with nextFresh := s + 1 } }
  else { b with ctx := { b.ctx with freed := b.ctx.freed.filter (· != s) } }

/-- A context created for a job takes over the generation records that a module reset has kept (R291, Table 13-5). -/
def keptGens (b : Body) (s : Nat) : Body :=
  let job := (ctxAt b s).id.job
  match b.ctx.genRecs.find? (·.1 == job) with
  | none => b
  | some r =>
    let b := modCtx b s fun c => { c with led := { c.led with gens := r.2 } }
    { b with ctx := { b.ctx with genRecs := b.ctx.genRecs.filter (·.1 != job) } }

/-- The refusal of a create, in the order of R269; 0 when there is none. -/
def createCheck (b : Body) (d : List (BitVec 8)) : Nat :=
  let job := bytesAt d 16 4
  if (freeChoice b).isNone then 0x03
  else if job ≠ 0 ∧ b.ctx.slot.any (fun c => c.2.id.st != .free && c.2.id.job == job) then 0x15
  else if job ≠ 0 ∧ !joinOk b then 0x14
  else if job ≠ 0 ∧ !levelOk b (bytesAt d 20 1 / 16) (bytesAt d 20 1 % 16) (bytesAt d 21 1) then 0x13
  else if !blockOk d then 0x01
  else 0

/-- CTX_CREATE (R269). -/
def doCreate (c : Cmd) (b : Body) : Body :=
  let a := c.at 24 8
  if a % 256 ≠ 0 then invalid b c
  else
    let d := hostRead b a 256
    let st := createCheck b d
    if st ≠ 0 then finish b c st 0
    else match freeChoice b with
      | none => finish b c 0x03 0
      | some s =>
        let b := setCtx (takeSlot b s) s (ctxOf d)
        let b := keptGens b s
        let b := { b with dir := { b.dir with errSum := fdel b.dir.errSum (Pg.num (.ctx s)), errMask := fdel b.dir.errMask (Pg.num (.ctx s)) } }
        finish b c 0x00 (BitVec.ofNat 32 (handleOf c.e b s))

/-- CTX_CREATE. -/
def createSpec : CmdSpec := ⟨2, [(24, 64)], doCreate⟩

/-- Let a command wait for the end of the context's reset. -/
def joinReset (b : Body) (c : Cmd) : Body :=
  modCtx b c.slot fun x => { x with id := { x.id with resetFly := x.id.resetFly ++ [(none, c.seq)] } }

/-- CTX_DESTROY (R412): a LIVE context is reset first. -/
def doDestroy (c : Cmd) (b : Body) : Body :=
  let id := (ctxAt b c.slot).id
  if id.st = .halted then finishOk (freeSlot (reportAllDirty c.e b c.slot) c.slot) c
  else
    let b := joinReset (modCtx b c.slot fun x => { x with id := { x.id with dying := true } }) c
    if id.resetting then b else raise b { ctxFault c.slot 0x12 11 0 with oper := 0x21 }

/-- CTX_DESTROY. -/
def destroySpec : CmdSpec := ⟨1, [], doDestroy⟩

/-- CTX_RESET (R261): cause HOST_RESET; it completes when the context is HALTED. -/
def doReset (c : Cmd) (b : Body) : Body :=
  let b := joinReset b c
  if (ctxAt b c.slot).id.resetting then b else raise b { ctxFault c.slot 0x12 11 0 with oper := 0x22 }

/-- CTX_RESET. -/
def resetSpec : CmdSpec := ⟨1, [], doReset⟩

/-! ### Scaffolds (R277, R357 to R359) -/

/-- The body fields of SCAFFOLD. -/
def scafFields : List (Nat × Nat) := [(16, 8), (17, 8), (18, 8), (19, 8), (24, 64)]

/-- Does a group exist (Table 10-14)? -/
def groupFitted (t i : Nat) : Bool := decide (i < [1, 4, 36, 8, 1, 4, 16, 6, 4].getD t 0)

/-- The group types that an activity accepts (Table 13-9). -/
def actGroups : Nat → List Nat
  | 1 => [0, 2]
  | 2 => [3, 4, 5]
  | 3 => [3, 4, 6, 7]
  | 4 | 5 => [3]
  | 6 => [8, 4, 7, 6]
  | 7 => [0, 1, 3, 4, 7]
  | 8 => [2]
  | 9 => [0]
  | _ => []

/-- Is a group one that the activity accepts? -/
def actAccepts (act t i : Nat) : Bool := groupFitted t i && (actGroups act).contains t

/-- In DUSK and NIGHT every SCAFFOLD request ends with SCAFFOLD_BUSY, with holder 0 (Table 13-19). -/
def scafOff (b : Body) : Bool := b.kpr.pwr.st == .dusk || b.kpr.pwr.st == .night

/-- Refuse with SCAFFOLD_BUSY, naming the holder. -/
def scafBusy (b : Body) (c : Cmd) (g act : Nat) : Option Body := (blocker b g act).map fun h => finish b c 0x16 (busyResult h)

/-- ACQUIRE for margining: the host holds the group until it releases it. -/
def doAcquire (c : Cmd) (b : Body) : Body :=
  let t := c.at 18 1
  let i := c.at 19 1
  if c.at 17 1 ≠ 3 ∨ !actAccepts 3 t i ∨ c.at 24 8 ≠ 0 then invalid b c
  else match scafBusy b c (grpKey t i) 3 with
    | some b => b
    | none => finishOk (takeGroup b ⟨grpKey t i, 3, true, none, 0⟩) c

/-- RELEASE of a group the host holds for margining. -/
def doRelease (c : Cmd) (b : Body) : Body :=
  let g := grpKey (c.at 18 1) (c.at 19 1)
  if c.at 17 1 ≠ 3 ∨ !actAccepts 3 (c.at 18 1) (c.at 19 1) ∨ c.at 24 8 ≠ 0 ∨ !holds b g 3 true then invalid b c
  else finishOk (releaseGroup b g 3 true) c

end Sys2Proof.Machine
end

