-- ==== Sys2Proof/Machine/LedgerCmds.lean ====
section
/-! DEFINITION. The commands of the step ledger (spec 11): steps, state regions, buddies, rollback, restore, readout, and the
resumption of a context with its replay. -/

namespace Sys2Proof.Machine

/-! ### STEP_OPEN (R279, R281) -/

/-- One entry of a replay buffer list; the flag says that a reserved bit is set or the tag is none. -/
def rbEntry (d : List (BitVec 8)) : RbEnt × Bool :=
  let x : RbEnt := ⟨bytesAt d 0 8, bytesAt d 8 4, bytesAt d 12 1⟩
  (x, decide (63 < x.tag ∧ x.tag ≠ 0xFF) || bytesAt d 13 3 != 0)

/-- Do all pages of a buffer lie in Tier B? -/
def inTierB (c : Ctx) (r : RbEnt) : Bool :=
  ({ r with tag := 0 } : RbEnt).pages.all fun v => let x := fget c.xl v; x.valid && !x.host && decide (2 ^ 19 ≤ x.page)

/-- May step `n` be opened now? -/
def stepNext (l : Ledger) (n : Nat) : Bool :=
  l.openStep.isNone && n != 0 && ((!l.everOpened && l.rollTo.isNone && l.replay.isNone && l.lastClosed == 0) || l.anyNext || n == l.lastClosed + 1)

/-- The refusal of STEP_OPEN in the order of R281: a status and, for LEDGER, its reason. -/
def openRefusal (b : Body) (slot n : Nat) (rs : Option (List (RbEnt × Bool))) : Option (Nat × Nat) :=
  let c := ctxAt b slot
  let es := (rs.getD []).map (·.1)
  if (rs.getD []).any (·.2) ∨ n = 0 then some (0x01, 0)
  else if !stepNext c.led n then some (0x1B, 0)
  else if rs.isNone then some (0x0A, 0)
  else if 1 < (es.filter (·.tag == 0xFF)).length then some (0x1C, 5)
  else if es.any fun r => !inTierB c r then some (0x1C, 1)
  else if es.any fun r => r.tag != 0xFF && tagForeign b slot r.tag then some (0x05, 0)
  else if c.id.secp ∧ c.led.buddies.isEmpty then some (0x1C, 7)
  else none

/-- Refuse with a status, and the ledger's reason when the status is LEDGER. -/
def refuseWith (b : Body) (c : Cmd) (x : Nat × Nat) : Body := if x.1 = 0x1C then ledgerRefuse b c x.2 else finish b c x.1 0

/-- The record of a step that opens: what its prologue left, or, in a replay, what rollback kept. -/
def openRec (b : Body) (slot n : Nat) (rb : List RbEnt) (seq : Nat) : StepRec :=
  let c := ctxAt b slot
  let old := fget c.led.step n
  let base := if old.used then old else { c.led.next with reports := old.reports }
  let us := c.led.buddies.map (·.unit)
  stepTree b slot
    { base with used := true, routeSet := c.far.active, flagMask := c.num.flagMask, mxScale := c.num.mxScale, rb := rb, report := none,
                rbAcks := if rb.all (·.tag == 0xFF) then [] else us, openSeq := some seq }

/-- Store the prologue's log entries in the log buffer; those that do not fit make the step NOREPLAY. -/
def openLog (e : Env) (b : Body) (slot n : Nat) : Body :=
  let x := fget (ctxAt b slot).led.step n
  let b := ((List.range x.log.length).zip x.log).foldl (fun b i => storeLog e b slot x i.1 i.2.2) b
  if x.log.length ≤ x.logCap then b
  else modStep b slot n fun x => { x with log := x.log.take x.logCap, noReplay := true }

/-- The bytes of a replay buffer; none where it has lost its pages. -/
def bufBytes (b : Body) (slot : Nat) (r : RbEnt) : List (BitVec 8) :=
  match xlate b slot r.addr (r.units * 65536) false with
  | .ok gs => (readSegs b gs).1
  | .fault _ => []

/-- Stream the replay buffers to buddies and, from a Contrail leader, to its shadow (R281, R339): the last is marked. -/
def streamInputs (e : Env) (b : Body) (slot n : Nat) (rb : List RbEnt) (us : List Nat) : Body :=
  let rs := rb.filter (·.tag != 0xFF)
  if us.isEmpty then b
  else
    let b := rs.foldl (fun b r => findRange e slot b r.addr (r.units * 65536)) b
    us.foldl (fun b u => ((List.range rs.length).zip rs).foldl (fun b r =>
      sendJob b slot (.mirrorInput u n r.2.addr (bufBytes b slot r.2) (r.1 + 1 == rs.length))) b) b

/-- Contrail leadership begins with this step (R339). -/
def leadFrom (b : Body) (slot n : Nat) : Body :=
  let x := (ctxAt b slot).con
  if x.role = 1 ∧ !x.active then modCtx b slot fun c => { c with con := { c.con with active := true, step := n } } else b

/-- Open step `n`, by command `seq`. -/
def openStep (e : Env) (b : Body) (slot n : Nat) (rb : List RbEnt) (seq : Nat) : Body :=
  let r := openRec b slot n rb seq
  let b := modCtx b slot fun c =>
    let l := c.led
    { c with
      led := { l with
        everOpened := true, anyNext := false, openStep := some n, next := default
        firstStep := if l.everOpened && !l.anyNext then l.firstStep else n
        step := fset l.step n r }
      num := { c.num with flagIn := c.num.flagMask, mxIn := c.num.mxScale, stepFlag := false, flagAt := [], stepEv := 0 }
      far := { c.far with
        phaseQIn := c.far.phaseQ, phaseCnt := [], reached := [], agreed := []
        childReports := c.far.childReports.filter fun r => decide (n ≤ r.step) }
      ret := { c.ret with tags := (rb.filter (·.tag != 0xFF)).foldl (fun t r => t ||| evMask r.tag) c.ret.tags } }
  let b := leadFrom (openLog e b slot n) slot n
  let c := ctxAt b slot
  streamInputs e b slot n rb (c.led.buddies.map (·.unit) ++ if c.con.role = 1 ∧ c.con.active then [c.con.peer] else [])

/-- STEP_OPEN: it completes when every buddy has acknowledged the buffers. -/
def doStepOpen (c : Cmd) (b : Body) : Body :=
  let n := c.at 16 8
  let k := c.at 32 2
  let a := c.at 24 8
  if 256 < k ∨ (k ≠ 0 ∧ !vaOk a (16 * k)) then invalid b c
  else
    let b := findRange c.e c.slot b a (16 * k)
    let d := if k = 0 then some [] else ctxBytes b c.slot a (16 * k)
    let rs := d.map fun d => (List.range k).map fun i => rbEntry ((d.drop (16 * i)).take 16)
    match openRefusal b c.slot n rs with
    | some x => refuseWith b c x
    | none => openStep c.e b c.slot n ((rs.getD []).map (·.1)) c.seq

/-- STEP_OPEN. -/
def openSpec : CmdSpec := ⟨0, [(16, 64), (24, 64), (32, 16)], doStepOpen⟩

/-! ### STEP_CLOSE (R279, R283) -/

/-- STEP_CLOSE waits; it completes when `closeReady` holds. -/
def doStepClose (c : Cmd) (b : Body) : Body :=
  let n := c.at 16 8
  let l := (ctxAt b c.slot).led
  if l.openStep != some n || l.waits.any (·.step == n) then finish b c 0x1B 0
  else modLed b c.slot fun l => { l with waits := l.waits ++ [⟨n, ringNum c.r, c.seq⟩] }

/-- STEP_CLOSE. -/
def closeSpec : CmdSpec := ⟨0, [(16, 64)], doStepClose⟩

/-- Does a panel hold unfinished work of a context? -/
def panelBusy (p : Panel) (slot : Nat) : Bool := (List.range 16).any fun t => thBusy p slot t 0 none

/-- Is everything that belongs to the open step complete: commands of the context's rings but for the STEP_CLOSE
itself, instructions and transfers (R280, R283)? -/
def workDone (b : Body) (slot : Nat) : Bool :=
  let c := ctxAt b slot
  c.ring.all (fun r => r.2.fly.all fun f => f.opc == 0x11) && c.launch.isEmpty &&
    !(b.panel.any fun p => panelBusy p.2 slot) && !(b.fab.red.any (·.slot == slot))

/-- May a waiting STEP_CLOSE(n) complete? Step n - 2 is sealed or was never opened, so that no record of it is kept (R283). -/
def closeReady (b : Body) (slot n : Nat) : Bool :=
  let l := (ctxAt b slot).led
  !(decide (2 ≤ n) && (fget l.step (n - 2)).used) && workDone b slot

/-- Close step `n`: its flag and events are recorded, removed regions go, its snapshot is requested (R283, R284). -/
def closeStep (b : Body) (slot n : Nat) : Body :=
  modCtx b slot fun c =>
    let l := c.led
    { c with led := { l with
        openStep := none, lastClosed := n, waits := l.waits.filter (·.step != n)
        regions := l.regions.filter (!·.removed)
        step := fmod l.step n fun r => { r with regions := sortRegions (l.regions.filter (!·.removed)), closed := true, everClosed := true, flag := c.num.stepFlag, ev := c.num.stepEv } } }

/-! ### STATE_DECLARE (R284, R295) -/

/-- The bytes `[a, a + n)` and `[x, x + k)` overlap; an empty range overlaps nothing. -/
def rangesMeet (a n x k : Nat) : Bool := decide (0 < n ∧ 0 < k ∧ a < x + k ∧ x < a + n)

/-- Does a new region overlap a region, the retention pool or a replay buffer? -/
def regionMeets (c : Ctx) (a n : Nat) : Bool :=
  c.led.regions.any (fun r => rangesMeet a n r.addr r.len) || rangesMeet a n (c.ret.base * 2 ^ 21) (c.ret.size * 2 ^ 21) ||
    c.led.step.any fun s => s.2.rb.any fun r => r.tag != 0xFF && rangesMeet a n r.addr (r.units * 65536)

/-- Is a range mapped wholly to Tier A? -/
def inTierA (c : Ctx) (a n : Nat) : Bool :=
  (span (a / 2 ^ 21) ((a + n - 1) / 2 ^ 21 + 1 - a / 2 ^ 21)).all fun v =>
    let x := fget c.xl v
    x.valid && !x.host && decide (x.page < 2 ^ 19)

/-- The reason why the ledger refuses to add a region, in the order of R284; 0 when it does not. -/
def declareRefusal (b : Body) (slot : Nat) (r : Region) : Nat :=
  let c := ctxAt b slot
  if c.led.openStep.isSome then 6
  else if !inTierA c r.addr r.len then 1
  else if regionMeets c r.addr r.len then 5
  else if b.ctx.slot.any fun x => x.1 != slot && !x.2.led.regions.isEmpty then 3
  else if c.led.regions.any fun x => x.cls == r.cls && x.bform != r.bform then 4
  else if (List.range 8).any fun s => decide (chunkLimit b s < imageChunks (stackImage b slot (sortRegions (c.led.regions ++ [r])) s).length) then 2
  else 0

/-- STATE_DECLARE. The manifest holds at most 64 regions (Table 11-1). -/
def doDeclare (c : Cmd) (b : Body) : Body :=
  let x := ctxAt b c.slot
  let r : Region := { addr := c.at 24 8, len := c.at 32 8, cls := c.at 17 1, bform := c.at 18 1, removed := false }
  if 1 < c.at 16 1 ∨ 15 < r.cls ∨ 2 < r.bform ∨ r.addr % 65536 ≠ 0 ∨ r.len % 65536 ≠ 0 ∨ r.len = 0 ∨ !vaOk r.addr r.len then invalid b c
  else if r.bform ≠ 0 ∧ (!hubFeat b ∨ x.id.ldg = 1) then finish b c 0x04 0
  else if c.at 16 1 = 0 then
    let k := declareRefusal b c.slot r
    if x.led.regions.length = 64 then invalid b c
    else if k ≠ 0 then ledgerRefuse b c k
    else finishOk (modLed b c.slot fun l => { l with regions := l.regions ++ [r] }) c
  else if !(x.led.regions.any fun y => y.addr == r.addr && y.len == r.len && !y.removed) then invalid b c
  else if x.led.openStep.isSome then ledgerRefuse b c 6
  else finishOk (modLed b c.slot fun l => { l with regions := l.regions.map fun y =>
    if y.addr = r.addr ∧ y.len = r.len then { y with removed := true } else y }) c

/-- STATE_DECLARE. -/
def declareSpec : CmdSpec := ⟨0, [(16, 8), (17, 8), (18, 8), (24, 64), (32, 64)], doDeclare⟩

/-! ### BUDDY_SET (R226, R292) -/

/-- BUDDY_SET asks the named modules; it decides when they have answered. -/
def doBuddySet (c : Cmd) (b : Body) : Body :=
  let d := c.at 16 1
  let us := (c.at 20 4 % 2 ^ 20) :: (if d = 3 then [c.at 24 4 % 2 ^ 20] else [])
  let x := ctxAt b c.slot
  if d ≠ 2 ∧ d ≠ 3 then invalid b c
  else if x.led.bset.isSome then finish b c 0x19 0
  else if x.id.job = 0 ∨ us.contains (ownUnit b) then ledgerRefuse b c 8
  else
    let q : BuddySet := { seq := c.seq, ovr := c.bits 17 0 0 == 1, degree := d, want := us, got := [], accepted := false, acks := [] }
    let b := modLed b c.slot fun l => { l with bset := some q }
    us.foldl (fun b u => sendJob b c.slot (.buddyAsk u x.id.job)) b

/-- BUDDY_SET. -/
def buddySpec : CmdSpec := ⟨1, [(16, 8), (17, 1), (20, 20), (24, 20)], doBuddySet⟩

/-- This module's failure-domain tags, as an answer. -/
def ownTags (b : Body) : BuddyAns :=
  let t := unitTags b
  { unit := ownUnit b, present := true, room := true, tray := t.tray, pwr := t.pwr, leaf := t.leafs.map (·.2) }

/-- Do two modules share a failure domain (R292)? Unwritten tags share one with every module (R226). -/
def sameDomain (x y : BuddyAns) : Bool :=
  let no (z : BuddyAns) : Bool := z.tray == 0 && z.pwr == 0
  no x || no y || x.tray == y.tray || x.pwr.extractLsb' 16 16 == y.pwr.extractLsb' 16 16 || x.pwr.setWidth 16 == y.pwr.setWidth 16 ||
    x.leaf.any y.leaf.contains

/-- Do the answers to a BUDDY_SET put two of the modules concerned in one domain? A module named twice shares one with itself. -/
def domainClash (b : Body) (want : List Nat) (got : List BuddyAns) : Bool :=
  let all := ownTags b :: want.filterMap fun u => got.find? (·.unit == u)
  (List.range all.length).any fun i => (List.range i).any fun j =>
    match all[i]?, all[j]? with
    | some x, some y => sameDomain x y
    | _, _ => false

/-- Generations with a valid manifest, as their steps. -/
def validGens (l : Ledger) : List (Nat × GenRec) := l.gens.filter fun g => g.2.st == .complete || g.2.st == .sealed

/-! ### Restoring state from a generation (R288, R301, R303) -/

/-- The channel list of a die window under a manifest's `MAPMASK`: the stack of each place, in order. -/
def maskStacks (m : List (BitVec 8)) (d : Nat) : List Nat :=
  ((List.range 64).filter fun i => !(bit (bytesAt m (120 + 4 * (2 * d + i / 32)) 4) (i % 32))).map fun i => 2 * d + i / 32

/-- The region entries of a manifest: address, length, class, form, first page. -/
def manRegions (m : List (BitVec 8)) : List (Nat × Nat × Nat × Nat × Nat) :=
  (List.range (bytesAt m 24 4)).map fun i =>
    let f (o n : Nat) : Nat := bytesAt m (256 + 32 * i + o) n
    (f 0 8, f 8 8, f 16 1, f 17 1, f 20 4)

/-- A stack's image under a manifest: context addresses of its granules in order, with their forms. -/
def manImage (m : List (BitVec 8)) (s : Nat) : List (Nat × Nat) :=
  let pg := 256 + 32 * bytesAt m 24 4
  (manRegions m).flatMap fun r => (List.range (r.2.1 / 2048)).filterMap fun i =>
    let va := r.1 + 2048 * i
    let pa := bytesAt m (pg + 8 * (r.2.2.2.2 + va / 2 ^ 21 - r.1 / 2 ^ 21)) 8 + va % 2 ^ 21
    let st := maskStacks m (pa / 2 ^ 38)
    if st[pa % 2 ^ 38 / 2048 % st.length]? = some s then some (va, r.2.2.2.1) else none

/-- The digests of a manifest: exact, narrow. -/
def manDigests (m : List (BitVec 8)) : List (List (BitVec 8)) × List (List (BitVec 8)) :=
  let n := bytesAt m 32 4
  let o := 256 + 32 * bytesAt m 24 4 + 8 * bytesAt m 28 4
  let tab (o n : Nat) : List (List (BitVec 8)) := (List.range n).map fun i => (m.drop (o + 32 * i)).take 32
  (tab o n, tab (o + 32 * n) (bytesAt m 36 4))

/-- The chunk places of a manifest, in the order of its digest table: stack and index. -/
def manChunks (m : List (BitVec 8)) : List (Nat × Nat) :=
  (List.range 8).flatMap fun s => (List.range (bytesAt m (104 + 2 * s) 2)).map fun c => (s, c)

/-- The exact digest of a chunk in a manifest. -/
def manDigest (m : List (BitVec 8)) (s c : Nat) : List (BitVec 8) :=
  (((manChunks m).zip (manDigests m).1).find? (·.1 == (s, c))).elim [] (·.2)

/-- The narrow digest of a chunk in a manifest; none in one without narrow digests. -/
def manNarrowDigest (m : List (BitVec 8)) (s c : Nat) : Option (List (BitVec 8)) :=
  (((manChunks m).zip (manDigests m).2).find? (·.1 == (s, c))).map (·.2)

/-- The length of a chunk under a manifest. -/
def manLen (m : List (BitVec 8)) (s c : Nat) : Nat := 2048 * min 2048 ((manImage m s).length - 2048 * c)

/-! ### The streams of a BUDDY_SET (R292, R294) -/

/-- Stream a generation to a buddy: its chunks in order, then its manifest (R294). -/
def streamGen (b : Body) (slot u : Nat) (g : GenRec) : Body :=
  let b := (orderChunks g.chunks).foldl (fun b x =>
    sendJob b slot (.mirrorChunk u g.step x.stack x.idx (mirrorBytes (manImage g.manifest x.stack) x))) b
  sendJob b slot (.mirrorManifest u g.step g.manifest)

/-- Stream the chunks that the snapshot in progress has completed so far to a new buddy (DEDUCED from R294, log entry 79). -/
def streamSnap (b : Body) (slot u : Nat) : Body :=
  let l := (ctxAt b slot).led
  match l.snap with
  | none => b
  | some sn =>
    let cs := (fget l.gens (genOfStep sn.step)).chunks.filter fun x => !x.digest.isEmpty
    (orderChunks cs).foldl (fun b x =>
      sendJob b slot (.mirrorChunk u sn.step x.stack x.idx (mirrorBytes (stackImage b slot (snapRegions l) x.stack) x))) b

/-- The unsealed steps with inputs to mirror. -/
def inputSteps (l : Ledger) : List (Nat × StepRec) := l.step.filter fun s => s.2.used && !(s.2.rb.all (·.tag == 0xFF))

/-- The logged commands of the unsealed steps and of the prologue, each with its step's label. -/
def loggedCmds (l : Ledger) : List LogCmd :=
  l.step.flatMap (fun s => s.2.log.map fun x => ⟨s.1, x.1, x.2⟩) ++ l.next.log.map fun x => ⟨logStep l 0, x.1, x.2⟩

/-- The buddies change (R292): new ones get every valid generation and the inputs, replay buffers and command log, of every unsealed
step; nothing waits for one that is no buddy any more. -/
def setBuddies (e : Env) (b : Body) (slot : Nat) (x : BuddySet) : Body :=
  let l := (ctxAt b slot).led
  let old := l.buddies.map (·.unit)
  let want := x.want.eraseDups
  let new := want.filter fun u => !old.contains u
  let acks := new.flatMap fun u =>
    ((validGens l).map fun g => (u, 0, g.2.step)) ++ ((inputSteps l).map fun s => (u, 1, s.1)) ++ (loggedCmds l).map fun q => (u, 2, q.ring)
  let upd (_ : Nat) (r : StepRec) : StepRec :=
    { r with rbAcks := (r.rbAcks.filter want.contains) ++ (if r.used && !(r.rb.all (·.tag == 0xFF)) then new else [])
             snapAcks := (r.snapAcks.filter want.contains) ++ (if r.snapDone then new else []) }
  let entry (u : Nat) : Buddy := (l.buddies.find? (·.unit == u)).getD ⟨u, false, false, [], []⟩
  let b := modCtx b slot fun c =>
    { c with
      led := { l with
        buddies := want.map entry
        degree := x.degree, step := fmapVals l.step upd, bset := some { x with accepted := true, acks := acks } }
      ring := fmapVals c.ring fun _ r => { r with logAcks := r.logAcks.map fun a => a.filter want.contains } }
  new.foldl (fun b u =>
    let b := (validGens l).foldl (fun b g => streamGen b slot u g.2) b
    let b := streamSnap b slot u
    let b := (inputSteps l).foldl (fun b s => streamInputs e b slot s.1 s.2.rb [u]) b
    (loggedCmds l).foldl (fun b q => sendJob b slot (.mirrorLog u q.step q.ring q.w)) b) b

/-- End a BUDDY_SET with a status. -/
def endBuddySet (b : Body) (slot : Nat) (x : BuddySet) (status reason : Nat) : Body :=
  let b := modLed b slot fun l => { l with bset := none }
  let b := if status = 0x1C then ledgerErr (setReason b slot reason) slot else b
  finishSeq b .admin x.seq status (BitVec.ofNat 32 reason)

/-- Decide a BUDDY_SET once every named module has answered. -/
def buddyDecide (e : Env) (b : Body) (slot : Nat) : Body :=
  match (ctxAt b slot).led.bset with
  | none => b
  | some x =>
    if x.accepted ∨ !(x.want.all fun u => x.got.any (·.unit == u)) then b
    else if x.got.any (!·.present) then endBuddySet b slot x 0x1C 8
    else if x.got.any (!·.room) then endBuddySet b slot x 0x1C 9
    else if !x.ovr && domainClash b x.want x.got then endBuddySet b slot x 0x1A 0
    else setBuddies e b slot x

/-! ### Restored bytes (R301, R303) -/

/-- A granule from its narrow bytes (R295): 512 elements, then 16 scale bytes. -/
def widenGranule (form : Nat) (d : List (BitVec 8)) : List (BitVec 8) :=
  let f := if form = 1 then fE4M3 else fE5M2
  (List.range 512).flatMap fun i =>
    let sc := bytesAt d (512 + i / 32) 1
    let v := if sc = 255 then .nan else decodeF f ((sc : Int) - 127) (bytesAt d i 1)
    le 4 (rne32 v.toX)

/-- The exact bytes of a chunk from the bytes of a copy in narrow form. -/
def widenChunk : List (Nat × Nat) → List (BitVec 8) → List (BitVec 8)
  | [], _ => []
  | g :: gs, d =>
    if g.2 = 0 then d.take 2048 ++ widenChunk gs (d.drop 2048)
    else widenGranule g.2 (d.take 528) ++ widenChunk gs (d.drop 528)

/-- A chunk record from its bytes. -/
def chunkOf (s c : Nat) (d dig nar : List (BitVec 8)) : GenChunk :=
  { stack := s, idx := c, chan := 0, data := sparseBytes 0 d, len := d.length, poison := [], missing := false, digest := dig, narrow := nar }

/-- Does a chunk verify (R301, R303)? One restored from a narrow copy was verified by its narrow digest as it came. -/
def chunkOk (m : List (BitVec 8)) (x : GenChunk) : Bool :=
  !x.missing && x.poison.isEmpty &&
    (sha256 x.dense == manDigest m x.stack x.idx || (manNarrowDigest m x.stack x.idx == some x.narrow && x.digest != manDigest m x.stack x.idx))

/-- The chunks of a generation that can be read: not missing, and not on a channel out of service since. -/
def chunksHere (b : Body) (cs : List GenChunk) : List GenChunk := cs.filter fun x => !x.missing && !chanOut b x.stack x.chan

/-- Are all chunks of a manifest present and verified? -/
def chunksOk (m : List (BitVec 8)) (cs : List GenChunk) : Bool :=
  (manChunks m).all fun p => cs.any fun x => x.stack == p.1 && x.idx == p.2 && chunkOk m x

/-- Undercoat writes a granule of declared state: a channel that does not take the write yet is written itself, so that no line is
lost (log entry 79). -/
def undercoatPut (e : Env) (slot : Nat) (b : Body) (a : Nat) (d : List (BitVec 8)) : Body :=
  (linePieces (d.length / 64 + 2) a d.length).foldl (fun b p =>
    let d := (d.drop (p.1 - a)).take p.2
    (putLine e b (some slot) p.1 d false).getD { b with mem := b.mem.putLine p.1 d false true false }) b

/-- Write the chunks of a generation back over the declared state. -/
def writeBack (e : Env) (b : Body) (slot : Nat) (m : List (BitVec 8)) (cs : List GenChunk) : Body :=
  (List.range 8).foldl (fun b s =>
    let img := manImage m s
    (cs.filter (·.stack == s)).foldl (fun b x =>
      let d := x.dense
      let gs := (img.drop (2048 * x.idx)).take 2048
      ((List.range gs.length).zip gs).foldl (fun b g =>
        match modPhys (ctxAt b slot) g.2.1 with
        | none => b
        | some a => undercoatPut e slot b a ((d.drop (2048 * g.1)).take 2048)) b) b) b

/-- Do the regions of a context match a manifest's (R303)? -/
def regionsMatch (c : Ctx) (m : List (BitVec 8)) : Bool :=
  (c.led.sorted.map fun r => (r.addr, r.len, r.cls, r.bform)) == (manRegions m).map fun r => (r.1, r.2.1, r.2.2.1, r.2.2.2.1)

/-- The record of a step after a rollback to an earlier one: its inputs, log and route set stay, the rest begins again. What
recorded an earlier end of it is forgotten. -/
def keepInputs (r : StepRec) : StepRec :=
  { (default : StepRec) with used := true, routeSet := r.routeSet, rb := r.rb, log := r.log, noReplay := r.noReplay, everClosed := r.everClosed }

/-- The logged commands of the steps after `n`, step by step, the prologue of the next step last. -/
def replayList (l : Ledger) (n : Nat) : List LogCmd :=
  let ss := l.step.filter fun s => decide (n < s.1) && s.2.used
  let last := ss.foldl (fun a s => max a s.1) n
  ss.flatMap (fun s => s.2.log.map fun x => ⟨s.1, x.1, x.2⟩) ++ l.next.log.map fun x => ⟨last + 1, x.1, x.2⟩

/-- How many there are of each ring's commands. -/
def ringCounts (cs : List Nat) : FMap Nat := cs.foldl (fun m r => fmod m r (· + 1)) []

/-- How many of each ring's commands belong to the open step of a log: the last step that never closed, or the prologue. -/
def openCounts (l : Ledger) (n : Nat) : FMap Nat :=
  let ss := l.step.filter fun s => decide (n < s.1) && s.2.used
  let cs := match ss.getLast? with
    | some s => if s.2.everClosed then l.next.log else s.2.log
    | none => l.next.log
  ringCounts (cs.map (·.1))

/-- What every return to a step does to the context: retention slots are freed, the step before the next is `n`, and what stood for
steps after it, or for their end, is forgotten. -/
def backTo (b : Body) (slot n : Nat) : Body :=
  let b := freeRet b slot fun _ _ => true
  let b := modCtx b slot fun c =>
    let l := c.led
    { c with
      led := { l with
        openStep := none, lastClosed := n, waits := [], snap := none, rollTo := some n, replay := none
        replayQ := replayList l n, replayCnt := openCounts l n
        next := { (default : StepRec) with log := l.next.log }
        seals := l.seals.filter fun k => decide (k ≤ n), remoteSealed := l.remoteSealed.filter fun k => decide (k ≤ n)
        kept := l.kept.filter fun k => decide (n < k.1), buddies := l.buddies.map (Buddy.keepTo fun k => decide (k ≤ n))
        step := (fmapVals l.step fun _ r => keepInputs r).filter fun s => decide (n < s.1) }
      far := { c.far with childReports := [], active := if (fget l.step (n + 1)).used then (fget l.step (n + 1)).routeSet else c.far.active, pend := none } }
  dropTags b slot

/-- Carry out a ROLLBACK whose generation is verified (R301). -/
def rollTo (e : Env) (b : Body) (slot n : Nat) (m : List (BitVec 8)) (cs : List GenChunk) : Body :=
  let b := writeBack e b slot m cs
  let b := if (ctxAt b slot).led.seals.contains n ∨ (ctxAt b slot).led.sealedStep = n then b else sealStep b slot n
  let b := backTo b slot n
  let b := modLed b slot fun l =>
    { l with gens := fmod l.gens (1 - genOfStep n) fun g => if g.st = .empty then g else { g with st := .invalid } }
  if (ctxAt b slot).con.role = 1 then endContrail e b slot 4 else b

/-- The reason why a ROLLBACK to step `n` is refused; 0 when it is not. Chunks are checked apart. -/
def rollRefusal (l : Ledger) (n : Nat) : Nat :=
  let g := fget l.gens (genOfStep n)
  if !(n == l.sealedStep && n != 0) && !(l.remoteSealed.contains n && g.step == n && g.st == .complete) then 0xC
  else if g.step ≠ n ∨ (g.st ≠ .complete ∧ g.st ≠ .sealed) then 0xB
  else if !g.readable then 0xA
  else if l.step.any fun s => decide (n < s.1) && s.2.noReplay then 0xE
  else 0

/-- The chunks of a manifest that do not verify here. -/
def badChunks (m : List (BitVec 8)) (cs : List GenChunk) : List (Nat × Nat) :=
  (manChunks m).filter fun p => !(cs.any fun x => x.stack == p.1 && x.idx == p.2 && chunkOk m x)

/-- Ask a role's buddies for chunks, one by one. -/
def wantChunks (b : Body) (slot n : Nat) (us : List Nat) (miss : List (Nat × Nat)) : Body :=
  us.foldl (fun b u => miss.foldl (fun b p => sendJob b slot (.mirrorWant u (ownUnit b) n (some p))) b) b

/-- ROLLBACK. -/
def doRollback (c : Cmd) (b : Body) : Body :=
  let n := c.at 16 8
  let x := ctxAt b c.slot
  let g := fget x.led.gens (genOfStep n)
  let cs := chunksHere b g.chunks
  let k := rollRefusal x.led n
  if x.id.st ≠ .halted ∨ x.led.restore.isSome then finish b c 0x19 0
  else if k ≠ 0 then ledgerRefuse b c k
  else if chunksOk g.manifest cs then finishOk (rollTo c.e b c.slot n g.manifest cs) c
  else if x.led.buddies.isEmpty then ledgerRefuse b c 0xA
  else
    let us := x.led.buddies.map (·.unit)
    let miss := badChunks g.manifest cs
    let q : Restore :=
      { seq := c.seq, roll := true, step := n, unit := ownUnit b, from_ := us, manifest := g.manifest, chunks := cs, cmds := []
        waiting := us.flatMap fun u => miss.map fun _ => u, full := [], why := 0 }
    let b := modLed b c.slot fun l => { l with restore := some q }
    wantChunks b c.slot n us miss

/-- ROLLBACK. -/
def rollSpec : CmdSpec := ⟨1, [(16, 64)], doRollback⟩

/-- The manifest of a generation restored from narrow copies (R303): the exact digests are those of the widened state, it descends
from a narrow restore of step `n`, and its narrow digests are formed again. -/
def manNarrowed (m : List (BitVec 8)) (n : Nat) (cs : List GenChunk) : List (BitVec 8) :=
  let cs := orderChunks cs
  let dig := cs.map (·.digest)
  let nar := cs.map fun x => sha256 (chunkNarrow (manImage m x.stack) x x.dense)
  let head := m.take 5 ++ [BitVec.ofNat 8 (bytesAt m 5 1 ||| 2)] ++ (m.drop 6).take 34 ++ sha256 dig.flatten ++ sha256 nar.flatten ++
    (m.drop 104).take 48 ++ le 8 n ++ List.replicate 64 0
  let tail := (m.drop 256).take (32 * bytesAt m 24 4 + 8 * bytesAt m 28 4) ++ dig.flatten ++ nar.flatten
  head ++ sha256 (head ++ List.replicate 32 0 ++ tail) ++ tail

/-- A restored generation lies in the spare regions with the channels in service now (R186, R288). -/
def placeGen (b : Body) (g : GenRec) : GenRec :=
  let chs := fsetMany [] 0 ((List.range 8).map (serviceChans b))
  { g with
    chs := chs
    chunks := g.chunks.map fun x =>
      let cl := fget chs x.stack
      { x with chan := cl.getD (x.idx % cl.length) 0, missing := decide (chunkPlaces b x.stack cl ≤ x.idx + 2) }
    copies := manPlaces b chs }

/-- Carry out a RESTORE whose manifest and chunks are verified (R303): the state, the generation, the buddies. What the restored
manifest records of its lineage and of a restart, every later manifest of the context records too. -/
def restoreTo (e : Env) (b : Body) (slot n : Nat) (m : List (BitVec 8)) (cs : List GenChunk) (narrow : Bool) : Body :=
  let b := backTo (writeBack e b slot m cs) slot n
  let fl := bytesAt m 5 1
  let cs := if narrow then cs.map fun x => { x with narrow := sha256 (chunkNarrow (manImage m x.stack) x x.dense) } else cs
  let m := if narrow then manNarrowed m n cs else m
  let g := placeGen b { (default : GenRec) with st := if bit fl 0 then .sealed else .complete, step := n, chunks := cs, manifest := m }
  let g := { g with miss := (g.chunks.filter (·.missing)).length }
  let b := modLed b slot fun l =>
    { l with
      gens := fset l.gens (bytesAt m 7 1 % 2) g, sealedStep := n, firstStep := n + 1
      seals := if l.seals.contains n then l.seals else l.seals ++ [n]
      lineage := if narrow then satAdd 0xFF l.lineage 1 else l.lineage
      lineageNow := l.lineageNow || narrow || bit fl 1
      lstep := if narrow then n else max l.lstep (bytesAt m 152 8)
      restart := if bit fl 4 ∧ l.restart = 0 then bytesAt m 6 1 else l.restart }
  (buddyUnits b slot).foldl (fun b u => streamGen b slot u g) b

/-- Drop the records of the steps after `n`: their inputs were released, they cannot be replayed (Table 11-3). -/
def dropSteps (b : Body) (slot n : Nat) : Body :=
  dropTags (modLed b slot fun l =>
    { l with step := l.step.filter (fun s => decide (s.1 ≤ n)), next := default, replayQ := [], replayCnt := [] }) slot

/-- RESTORE from a local generation. -/
def restoreLocal (c : Cmd) (b : Body) (n : Nat) : Body :=
  let l := (ctxAt b c.slot).led
  let g := fget l.gens (genOfStep n)
  let cs := chunksHere b g.chunks
  if g.step ≠ n ∨ (g.st ≠ .complete ∧ g.st ≠ .sealed) then ledgerRefuse b c 0xB
  else if !g.readable || !chunksOk g.manifest cs then ledgerRefuse b c 0xA
  else if !regionsMatch (ctxAt b c.slot) g.manifest then ledgerRefuse b c 0xF
  else
    let older := decide (n < l.sealedStep)
    let b := restoreTo c.e b c.slot n g.manifest cs false
    let b := if older then dropSteps (modLed b c.slot fun l => { l with restart := 2 }) c.slot n else b
    finishOk b c

/-- Read a readout stream from host memory: the manifest, then every chunk in the order of its table (Table 11-6). -/
def hostStream (b : Body) (a : Nat) : List (BitVec 8) × List GenChunk :=
  let h := hostRead b a 256
  let len := 256 + 32 * bytesAt h 24 4 + 8 * bytesAt h 28 4 + 32 * bytesAt h 32 4 + 32 * bytesAt h 36 4
  let m := hostRead b a len
  let cs := (manChunks m).foldl (fun (r : List GenChunk × Nat) p =>
    let n := manLen m p.1 p.2
    (r.1 ++ [chunkOf p.1 p.2 (hostRead b r.2 n) (manDigest m p.1 p.2) []], r.2 + n)) ([], a + len)
  (m, cs.1)

/-- RESTORE from a host stream. The cause that the manifests record with RESTART is not in the command: it is a free value
among the four of Table 11-1. -/
def restoreHost (c : Cmd) (b : Body) (n a : Nat) : Body :=
  let (m, cs) := hostStream b a
  if bytesAt m 0 4 ≠ 0x4E4D4C49 ∨ !manifestOk m || !chunksOk m cs then ledgerRefuse b c 0xA
  else if bytesAt m 8 8 ≠ n then ledgerRefuse b c 0xB
  else if !regionsMatch (ctxAt b c.slot) m then ledgerRefuse b c 0xF
  else
    let b := dropSteps (restoreTo c.e b c.slot n m cs false) c.slot n
    let why := (Config.freeWord b.free).toNat % 4 + 1
    let b := modLed { b with free := b.free + 1 } c.slot fun l => { l with anyNext := true, restart := why }
    finishOk b c

/-- RESTORE from a buddy: the copies are asked for; they come one by one. -/
def restoreBuddy (c : Cmd) (b : Body) (n a : Nat) : Body :=
  let d := hostRead b a 64
  let us := bytesAt d 4 4 :: (if bytesAt d 8 4 = 0 then [] else [bytesAt d 8 4])
  if (d.drop 12).any (· != 0) ∨ 2 ^ 20 ≤ bytesAt d 0 4 ∨ us.any (fun u => decide (2 ^ 20 ≤ u)) then invalid b c
  else
    let q : Restore :=
      { seq := c.seq, roll := false, step := n, unit := bytesAt d 0 4, from_ := us, manifest := [], chunks := [], cmds := [], waiting := us, full := [], why := 0 }
    let b := modLed b c.slot fun l => { l with restore := some q }
    us.foldl (fun b u => sendJob b c.slot (.mirrorWant u (bytesAt d 0 4) n none)) b

/-- RESTORE. -/
def doRestore (c : Cmd) (b : Body) : Body :=
  let n := c.at 24 8
  let a := c.at 32 8
  if 2 < c.at 16 1 ∨ (c.at 16 1 = 0 ∧ a ≠ 0) then invalid b c
  else if (ctxAt b c.slot).id.st ≠ .halted ∨ (ctxAt b c.slot).led.restore.isSome then finish b c 0x19 0
  else if c.at 16 1 = 0 then restoreLocal c b n
  else if c.at 16 1 = 1 then restoreBuddy c b n a
  else restoreHost c b n a

/-- RESTORE. -/
def restoreSpec : CmdSpec := ⟨1, [(16, 8), (24, 64), (32, 64)], doRestore⟩

/-- End a ROLLBACK or RESTORE that waited for buddies. -/
def endRestore (b : Body) (slot : Nat) (x : Restore) (status reason : Nat) : Body :=
  let b := modLed b slot fun l => { l with restore := none }
  let b := if status = 0x1C then ledgerErr (setReason b slot reason) slot else b
  finishSeq b .admin x.seq status (BitVec.ofNat 32 reason)

/-- The log of a restored role: the commands that one of its buddies held (R305), the first named that supplied all. Every buddy holds
the same ones, as a command starts only when all have its entry (R282). The open step is the last, unless its STEP_CLOSE is among
them. -/
def takeLogs (b : Body) (slot n : Nat) (x : Restore) : Body :=
  let src := x.from_.find? x.full.contains
  let cs := (x.cmds.filter fun y => some y.1 == src && decide (n < y.2.step)).map (·.2)
  let last := cs.foldl (fun a y => max a y.step) n
  let mine := cs.filter (·.step == last)
  let closed := mine.any fun y => y.w.toNat % 256 == 0x11
  modLed b slot fun l => { l with replayQ := cs, replayCnt := if closed then [] else ringCounts (mine.map (·.ring)) }

/-- The copies have come, or no more will: the rollback or restore is carried out or refused (R301, R303). The buddies' copies are
re-keyed to this module, but for those of a Contrail leader (R339). -/
def restoreTry (e : Env) (b : Body) (slot : Nat) : Body :=
  let c := ctxAt b slot
  match c.led.restore with
  | none => b
  | some x =>
    let have_ := !x.manifest.isEmpty && manifestOk x.manifest && chunksOk x.manifest x.chunks
    if have_ && x.roll then endRestore (rollTo e b slot x.step x.manifest x.chunks) slot x 0x00 0
    else if have_ && !x.waiting.isEmpty then b
    else if have_ && !regionsMatch c x.manifest then endRestore b slot x 0x1C 0xF
    else if have_ then
      let nar := x.chunks.any fun y => !y.narrow.isEmpty
      let b := takeLogs (restoreTo e b slot x.step x.manifest x.chunks nar) slot x.step x
      let b := if c.con.role = 2 then b
        else x.from_.foldl (fun b u => sendJob b slot (.mirrorRekey u x.unit x.step)) b
      endRestore b slot x 0x00 0
    else if !x.waiting.isEmpty then b
    else endRestore b slot x 0x1C (if x.manifest.isEmpty && x.why != 0 then x.why else 0xA)

/-- A buddy has ended its supply, with a reason when it could not supply all. -/
def supplyEnded (e : Env) (b : Body) (slot unit reason : Nat) : Body :=
  restoreTry e (modLed b slot fun l => { l with restore := l.restore.map fun x =>
    { x with waiting := x.waiting.erase unit
             full := if reason = 0 ∧ x.waiting.contains unit then x.full ++ [unit] else x.full
             why := if reason = 0 then x.why else reason } }) slot

/-! ### READOUT (R308) -/

/-- READOUT: it completes when the stream is written. -/
def doReadout (c : Cmd) (b : Body) : Body :=
  let k := c.at 16 1
  let g := fget (ctxAt b c.slot).led.gens k
  if 1 < k then invalid b c
  else if g.st ≠ .sealed then ledgerRefuse b c 0xC
  else if c.at 32 8 < rdLen g then ledgerRefuse b c 0xD
  else modLed b c.slot fun l => { l with readout := l.readout ++ [⟨k, c.seq, c.at 24 8⟩] }

/-- READOUT. -/
def readoutSpec : CmdSpec := ⟨1, [(16, 8), (24, 64), (32, 64)], doReadout⟩

/-- Write a readout stream: the manifest, then the chunks in its order. -/
def readoutWrite (b : Body) (slot : Nat) (r : Readout) : Body :=
  let g := fget (ctxAt b slot).led.gens r.gen
  let b := hostWrite b r.haddr (g.manifest ++ (orderChunks g.chunks).flatMap GenChunk.dense)
  modLed b slot fun l => { l with readout := l.readout.filter (·.seq != r.seq) }

/-! ### CTX_RESUME (R302, R319, R327, R339) -/

/-- The physical panels that strip disagreements name, as panel keys. -/
def stripPanels (l : List Disagree) : List Nat :=
  (l.filterMap fun d => match d with
    | .strip _ _ _ _ pp die => some (pkey die pp)
    | .cum _ _ => none).eraseDups

/-- The logical panel and die of the first strip disagreement. -/
def firstStrip (l : List Disagree) : Option (Nat × Nat × Nat) :=
  l.findSome? fun d => match d with
    | .strip _ _ _ lp pp die => some (die, lp, pp)
    | .cum _ _ => none

/-- The units that an outcome charges (Table 12-13): type and unit. `third` is the third run's list. -/
def adjUnits (a : Adj) (outcome : Nat) (third : List Disagree) : List (Nat × Nat) :=
  let cum (l : List Disagree) : Bool := l.any fun d => match d with | .cum _ _ => true | _ => false
  let one (t : Nat) (l : List Disagree) : List (Nat × Nat) := match (stripPanels l).head? with
    | some k => [(t, k)]
    | none => if cum l then [(9, 0)] else []
  match outcome with
  | 1 | 2 => one 8 a.firstList
  | 3 | 4 => one 0 a.firstList
  | 5 => one 0 a.secondList
  | 6 => (stripPanels (a.firstList ++ a.secondList ++ third)).map fun k => (0, k)
  | _ => []

/-- An adjudication is decided (R326, R328, R329): its event, its history entries; NO_MAJORITY faults the context. -/
def adjEnd (e : Env) (b : Body) (slot outcome : Nat) (third : List Disagree) : Body :=
  let a := (ctxAt b slot).led.adj
  let p := firstStrip (if outcome = 5 then a.secondList else a.firstList)
  let b := modLed b slot fun l => { l with adj := { l.adj with
    run := 3, outcome := outcome, exchange := []
    pp := (p.map (·.2.2)), die := (p.map (·.1)).getD 0, lp := (p.map (·.2.1)).getD 0 } }
  let b := moduleEvent e b 0x03 outcome 0 (handleOf e b slot) 0 a.step
  let b := (adjUnits a outcome third).foldl (fun b u =>
    histAdd e b u.1 u.2 0x05 outcome (if u.1 = 9 then none else some (u.2 / 9)) (if u.1 = 9 then 0x13 else 0xFF) 0 0) b
  if outcome = 6 then raise b (ctxFault slot 0x04 10 0) else b

/-- Exchange the panels a third run asks for where no other context holds threads; where the spare does not serve, the
adjudication ends with NO_MAJORITY. -/
def exchangeNow (e : Env) (b : Body) (slot : Nat) : Body :=
  (ctxAt b slot).led.adj.exchange.foldl (fun b x =>
    match physOf b x.1 x.2, spareOk b x.1 with
    | some pp, some sp =>
      if (panelSlots (panelAt b (pkey x.1 pp))).all (· == slot) then advance e b (pkey x.1 pp) sp
      else b
    | _, _ => if (ctxAt b slot).led.adj.run = 3 then b else adjEnd e b slot 6 []) b

/-- The context becomes LIVE: its replay starts, the Plumb interval that the reset ended begins again, a shadow starts. -/
def resumeNow (e : Env) (b : Body) (slot : Nat) : Body :=
  modCtx b slot fun c =>
    { c with
      id := { c.id with st := .live }
      led := { c.led with replay := c.led.rollTo, rollTo := none }
      plumb := { c.plumb with startTick := if c.led.everOpened ∧ c.set.stepLim ≠ 0 then some e.clk.tick else none, limit := c.set.stepLim * 1000 }
      con := if c.con.role = 2 then { c.con with active := true, step := (c.led.rollTo.getD c.led.lastClosed) + 1 } else c.con }

/-- CTX_RESUME. -/
def doResume (c : Cmd) (b : Body) : Body :=
  let id := (ctxAt b c.slot).id
  if id.st ≠ .halted ∨ id.resetting then finish b c 0x19 0
  else
    let b := exchangeNow c.e (leaveHaze c.e b) c.slot
    if (ctxAt b c.slot).led.adj.exchange.isEmpty then finishOk (resumeNow c.e b c.slot) c else b

/-- CTX_RESUME. -/
def resumeSpec : CmdSpec := ⟨1, [], doResume⟩

end Sys2Proof.Machine
end

