-- ==== Sys2Proof/Machine/Collect.lean ====
section
/-! DEFINITION. Collective commands (spec 07, 09, 10): GATHER with its retain classes (R177, R275), SCATTER, and the reductions
of Cumulus (R243 to R250). -/

namespace Sys2Proof.Machine

/-! ### Participants -/

/-- The units of the participants in rank order, when every peer has a valid entry that names a module. -/
def members (c : Ctx) (set first n : Nat) : Option (List Nat) :=
  (span first n).foldr (fun q r =>
    let x := fget (fget c.far.sets set) q
    match r with
    | some us => if x.getLsbD 31 && !entryGroup x then some (entryUnit x :: us) else none
    | none => none) (some [])

/-- This module's rank, when its address appears exactly once. -/
def ownRank (b : Body) (us : List Nat) : Option Nat :=
  if (us.filter (· == b.fab.addr)).length = 1 then us.findIdx? (· == b.fab.addr) else none

/-- The identity a command's packets carry. -/
def cmdIns (c : Cmd) (b : Body) (uid : Nat) : Ins :=
  { (default : Ins) with uid := uid, slot := c.slot, handle := handleOf c.e b c.slot, step := stepNum (ctxAt b c.slot) }

/-- Packets of one shard: offset and length, up to 16 KiB each (R232). -/
def shardPackets (n : Nat) : List (Nat × Nat) := (List.range (ceilDiv n 16384)).map fun i => (16384 * i, min 16384 (n - 16384 * i))

/-! ### GATHER (R177, R275) -/

/-- The fields of a gather or scatter. -/
structure MoveCmd where
  cls : Nat
  rslot : Nat
  tag : Nat
  set : Nat
  first : Nat
  n : Nat
  shard : Nat
  src : Nat
  dst : Nat

/-- Read them. -/
def moveOf (c : Cmd) : MoveCmd :=
  { cls := c.at 16 1, rslot := c.at 17 1, tag := c.at 18 1, set := c.at 19 1, first := c.at 20 2, n := c.at 22 2, shard := c.at 24 4,
    src := c.at 32 8, dst := c.at 40 8 }

/-- Is a field outside its values? -/
def MoveCmd.bad (m : MoveCmd) : Bool :=
  decide (3 < m.cls ∨ 3 < m.set ∨ m.n = 0 ∨ 16384 < m.n ∨ 16384 < m.first + m.n ∨ m.shard = 0 ∨ m.shard % 64 ≠ 0) ||
    (m.cls != 0 && decide (63 < m.rslot)) || (m.cls == 1 && decide (63 < m.tag))

/-- The remote pieces of a gather: peer unit, its address, the local address they go to, length. -/
def gatherParts (m : MoveCmd) (us : List Nat) (rank : Nat) : List (Nat × Nat × Nat × Nat) :=
  ((List.range m.n).zip us).flatMap fun x =>
    if x.1 = rank then [] else (shardPackets m.shard).map fun p => (x.2, m.src + p.1, x.1 * m.shard + p.1, p.2)

/-- Start the transfer of a gather; `pool` is the pool address the lines go to as well. -/
def gatherGo (c : Cmd) (b : Body) (m : MoveCmd) (us : List Nat) (rank : Nat) (pool : Option Nat) (ret : Option Nat) : Body :=
  let own := rank * m.shard
  let loc := copyItems b c.slot m.src (m.dst + own) m.shard (pool.map (· + own))
  let ps := gatherParts m us rank
  let far : List JobItem := ((List.range ps.length).zip ps).map fun x =>
    { id := loc.length + x.1, src := [], dst := segsOf b c.slot (m.dst + x.2.2.2.1) x.2.2.2.2,
      pool := (match pool with | some q => segsOf b c.slot (q + x.2.2.2.1) x.2.2.2.2 | none => []), remote := true }
  let (u, b) := newJob c b 1 (loc ++ far) ret
  ((List.range ps.length).zip ps).foldl (fun b x =>
    addPacket b (cmdIns c b u) (loc.length + x.1) fun s => .get x.2.1 s u x.2.2.1 x.2.2.2.2) b

/-- Granules of a gather's tensor. -/
def MoveCmd.granules (m : MoveCmd) : Nat := ceilDiv (m.n * m.shard) (2 ^ 21)

/-- Reserve a retention slot (class RETAIN): the lowest run that fits, or DROPPED without room. The pool address. The slot names
the transfer that fills it, the next one made (R177). -/
def retReserve (b : Body) (slot : Nat) (m : MoveCmd) : Body × Option Nat :=
  let c := ctxAt b slot
  let room := if c.ret.size = 0 then none else retRoom c m.granules
  let x : RetSlot := match room with
    | some o => { st := .pending, tag := m.tag, gran := m.granules, off := o, filler := (freshUid b).1 }
    | none => { st := .dropped, tag := m.tag, gran := 0, off := 0, filler := 0 }
  (modCtx b slot fun c => { c with ret := { c.ret with slot := fset c.ret.slot m.rslot x, tags := c.ret.tags ||| evMask m.tag } },
    room.map fun o => (c.ret.base + o) * 2 ^ 21)

/-- Is the retention pool mapped wholly to Tier A? -/
def poolOk (c : Ctx) : Bool := c.ret.size == 0 || inTierA c (c.ret.base * 2 ^ 21) (c.ret.size * 2 ^ 21)

/-- The first refusal of a gather that moves data; 0 when there is none. -/
def gatherRefusal (b : Body) (slot : Nat) (m : MoveCmd) (ranked : Bool) : Nat :=
  let c := ctxAt b slot
  if c.id.job = 0 ∨ m.bad ∨ !vaOk m.src m.shard ∨ !vaOk m.dst (m.n * m.shard) then 0x01
  else if !setFitted b m.set then 0x04
  else if !ranked then 0x01
  else if !(mapped b slot m.src m.shard) then 0x0A
  else match xlate b slot m.dst (m.n * m.shard) true with
    | .fault _ => 0x0A
    | .ok _ =>
      if m.cls = 1 ∧ !poolOk c then 0x0A
      else if m.cls = 1 ∧ tagForeign b slot m.tag then 0x05
      else if m.cls = 1 ∧ (fget c.ret.slot m.rslot).st ≠ .free then 0x06
      else 0

/-- A gather that moves data (classes NONE and RETAIN, and REUSE of a DROPPED slot). -/
def gatherMove (c : Cmd) (b : Body) (m : MoveCmd) : Body :=
  let us := members (ctxAt b c.slot) m.set m.first m.n
  let rk := us.bind (ownRank b)
  let st := gatherRefusal b c.slot m rk.isSome
  if st ≠ 0 then finish b c st 0
  else match us, rk with
    | some us, some r =>
      if m.cls = 1 then
        let (b, pool) := retReserve b c.slot m
        gatherGo c b m us r pool (if pool.isSome then some m.rslot else none)
      else gatherGo c b m us r none none
    | _, _ => invalid b c

/-- GATHER: its retain class decides. A REUSE of a PENDING slot waits. -/
def doGather (c : Cmd) (b : Body) : Body :=
  let m := moveOf c
  let x := ctxAt b c.slot
  if x.id.job = 0 ∨ 3 < m.cls ∨ (2 ≤ m.cls ∧ 63 < m.rslot) then invalid b c
  else if m.cls = 3 then finishOk (dropTags (freeRet b c.slot fun k _ => k == m.rslot) c.slot) c
  else if m.cls = 2 then
    match (fget x.ret.slot m.rslot).st with
    | .free => finish b c 0x07 0
    | .pending => { b with host := { b.host with reuse := b.host.reuse ++ [⟨c.seq, c.slot, ringNum c.r, c.w⟩] } }
    | .retained => finishOk b c
    | .dropped => gatherMove c b m
  else gatherMove c b m

/-- The body fields of GATHER and SCATTER. -/
def moveFields : List (Nat × Nat) := [(16, 2), (17, 8), (18, 8), (19, 8), (20, 16), (22, 16), (24, 32), (32, 64), (40, 64)]

/-- GATHER. -/
def gatherSpec : CmdSpec := ⟨0, moveFields, doGather⟩

/-! ### SCATTER (R275) -/

/-- The lines of a range as packets carry them: bytes and poison for each 64. -/
def rangeLines (b : Body) (slot a n : Nat) : List (List (BitVec 8) × Bool) :=
  (List.range (n / 64)).map fun i => readSegs b (segsOf b slot (a + 64 * i) 64)

/-- Start the transfer of a scatter: a local copy for the own rank, packets of the shard's lines for every other. -/
def scatterGo (c : Cmd) (b : Body) (m : MoveCmd) (us : List Nat) (r : Nat) : Body :=
  let b := findRange c.e c.slot b m.src (m.n * m.shard)
  let loc := copyItems b c.slot (m.src + r * m.shard) m.dst m.shard none
  let ps := ((List.range m.n).zip us).flatMap fun x =>
    if x.1 = r then [] else (shardPackets m.shard).map fun p => (x.2, m.src + x.1 * m.shard + p.1, m.dst + p.1, p.2)
  let far : List JobItem := (List.range ps.length).map fun i => { id := loc.length + i, src := [], dst := [], pool := [], remote := true }
  let (u, b) := newJob c b 2 (loc ++ far) none
  ((List.range ps.length).zip ps).foldl (fun b x =>
    let ls := rangeLines b c.slot x.2.2.1 x.2.2.2.2
    let b := modJob b u fun j => { j with poisoned := j.poisoned + (ls.filter (·.2)).length }
    addPacket b (cmdIns c b u) (loc.length + x.1) fun s => .put x.2.1 s u x.2.2.2.1 (ls.flatMap (·.1)) (ls.map (·.2))) b

/-- The first refusal of a scatter; 0 when there is none. -/
def scatterRefusal (b : Body) (slot : Nat) (m : MoveCmd) (ranked : Bool) : Nat :=
  if (ctxAt b slot).id.job = 0 ∨ m.bad ∨ m.cls ≠ 0 ∨ !vaOk m.src (m.n * m.shard) ∨ !vaOk m.dst m.shard then 0x01
  else if !setFitted b m.set then 0x04
  else if !ranked then 0x01
  else match xlate b slot m.dst m.shard true with
    | .fault _ => 0x0A
    | .ok _ => if !mapped b slot m.src (m.n * m.shard) then 0x0A else 0

/-- SCATTER: local shards go to the participants; for the own rank a local copy. -/
def doScatter (c : Cmd) (b : Body) : Body :=
  let m := moveOf c
  let us := members (ctxAt b c.slot) m.set m.first m.n
  let rk := us.bind (ownRank b)
  let st := scatterRefusal b c.slot m rk.isSome
  if st ≠ 0 then finish b c st 0
  else match us, rk with
    | some us, some r => scatterGo c b m us r
    | _, _ => invalid b c

/-- SCATTER. -/
def scatterSpec : CmdSpec := ⟨0, moveFields, doScatter⟩

/-- Write the 64-byte lines of a returned packet, each with its own poison (R235). -/
def putLines (e : Env) (slot uid j : Nat) (gs : List Seg) (d : List (BitVec 8)) : Nat → List Bool → Body → Body × Bool
  | _, [], b => (b, true)
  | i, po :: t, b =>
    let (b, ok) := putPiece e b slot uid j (subSegs gs (64 * i) 64) (((d.drop (64 * i)).take 64).map fun v => (v, po))
    if ok then putLines e slot uid j gs d (i + 1) t b else (b, false)

/-- A remote piece of a command's transfer has completed (R232, R233): a get's data are written here, poisoned when the peer
refused. -/
def jobRemote (e : Env) (b : Body) (uid id : Nat) (refused : Bool) (d : List (BitVec 8)) (po : List Bool) : Body × Bool :=
  match b.ctx.jobs.find? (·.uid == uid) with
  | none => (b, true)
  | some j =>
    match j.todo.find? fun x => x.id == id && x.remote with
    | none => (b, true)
    | some x =>
      let n := (x.dst.map (·.len)).sum
      let ls := if refused then List.replicate (ceilDiv n 64) true else po
      let (b, ok) := if j.kind = 1 then putLines e j.slot uid (2 * id) x.dst d 0 ls b else (b, true)
      let (b, ok2) := if j.kind = 1 ∧ ok ∧ !x.pool.isEmpty then putLines e j.slot uid (2 * id + 1) x.pool d 0 ls b else (b, ok)
      if !ok2 then (b, false)
      else
        let j' := { j with todo := j.todo.filter (·.id != id), refused := j.refused || refused
                           poisoned := j.poisoned + (if j.kind = 1 then (ls.filter (· == true)).length else 0) }
        let b := modJob b uid fun _ => j'
        (if j'.todo.isEmpty then jobEnd b j' else b, true)

/-! ### Reductions: parameters (R243, Table 9-8) -/

end Sys2Proof.Machine

namespace Sys2Proof

/-- The input element width in bytes. -/
def CumParams.inW (p : CumParams) : Nat := if p.infmt = 0 then 2 else if p.infmt = 0xB then 4 else 1
/-- Does the input carry scales? -/
def CumParams.inMx (p : CumParams) : Bool := p.infmt == 4 || p.infmt == 5
/-- The output element width in bytes. -/
def CumParams.outW (p : CumParams) : Nat := if p.outRaw then 8 else if p.tgt = 0 then 4 else if p.tgt = 2 then 2 else 1
/-- Does the output carry scales? -/
def CumParams.outMx (p : CumParams) : Bool := !p.outRaw && (p.tgt == 7 || p.tgt == 8)
/-- Elements per chunk (R244). -/
def CumParams.c (p : CumParams) : Nat := 32 * ceilDiv p.e (32 * p.n)
/-- Elements of the chunk that rank `r` owns. -/
def CumParams.cnt (p : CumParams) (r : Nat) : Nat := min p.e ((r + 1) * p.c) - r * p.c
/-- Does the reduction need the collective version 3, or a feature bit? -/
def CumParams.needs (p : CumParams) : Bool := p.accPair || p.inMx || p.outMx

/-- Is a parameter outside its values? -/
def CumParams.bad (p : CumParams) : Bool :=
  decide (2 < p.op ∨ p.n < 2 ∨ 16384 < p.n ∨ 16384 < p.first + p.n ∨ p.e < 32 ∨ p.e % 32 ≠ 0 ∨ 2 ^ 32 - 32 < p.e) ||
    !([0, 0xB, 4, 5].contains p.infmt) || (p.outRaw && !p.accPair) || (!p.outRaw && !([0, 2, 7, 8].contains p.tgt)) ||
    (p.rnd != 0 && p.rnd != 4)

end Sys2Proof

namespace Sys2Proof.Machine

/-- The parameters in a REDUCE command. -/
def cumParamsOf (c : Cmd) : CumParams :=
  { kind := c.bits 16 0 0, op := c.bits 16 2 1, first := c.at 20 2, n := c.at 22 2, e := c.at 28 4, infmt := c.bits 17 3 0,
    accPair := c.bits 16 3 3 == 1, outRaw := c.bits 16 4 4 == 1, tgt := c.bits 17 7 4, rnd := c.bits 16 7 5 }

/-! ### Contributions (R244, R247) -/

/-- The bytes of a range and the poison of each. -/
def rangeBytes (b : Body) (slot a n : Nat) : List (BitVec 8) × List Bool :=
  (dstPieces a n).foldl (fun r p =>
    let (d, po) := readSegs b (segsOf b slot (a + p.1) p.2)
    (r.1 ++ d, r.2 ++ List.replicate d.length po)) ([], [])

/-- Decode `k` input elements. -/
def cumDecode (p : CumParams) (k : Nat) (d sc : List (BitVec 8)) : List FV :=
  (List.range k).map fun i =>
    let w := bytesAt d (p.inW * i) p.inW
    if p.infmt = 0 then decodeF fBF16 0 w
    else if p.infmt = 0xB then dec32 w
    else
      let s := bytesAt sc (i / 32) 1
      if s = 255 then .nan else decodeF (if p.infmt = 4 then fE4M3 else fE5M2) ((s : Int) - 127) w

/-- The poison of each of `k` elements from the poison of the bytes. -/
def cumPoison (p : CumParams) (k : Nat) (d sc : List Bool) : List Bool :=
  (List.range k).map fun i => ((d.drop (p.inW * i)).take p.inW).any (· == true) || (p.inMx && sc.getD (i / 32) false)

/-- The sum lane of a contribution, in units of 2 ^ -149: the exact sum, or the maximum or minimum (R247). -/
def sumLane (op : Nat) (vs : List FV) : Int :=
  match vs.map (·.int) with
  | [] => 0
  | x :: xs => if op = 0 then xs.foldl (· + ·) x else if op = 1 then xs.foldl max x else xs.foldl min x

/-- The key check of a context's current step (R247). -/
def cumKey (c : Ctx) (seq : Nat) : BitVec 64 :=
  tileKey c.num.seed (BitVec.ofNat 64 (stepNum c)) 0x3000 (BitVec.ofNat 64 seq) 0 0

/-- Chunk `q` of the input: bytes, scale bytes, values, poison. -/
def cumInput (b : Body) (r : Reduce) (q : Nat) : List (BitVec 8) × List (BitVec 8) × List FV × List Bool :=
  let p := r.p
  let k := p.cnt q
  let lo := q * p.c
  let (d, dp) := rangeBytes b r.slot (r.src + lo * p.inW) (k * p.inW)
  let (s, sp) := if p.inMx then rangeBytes b r.slot (r.srcSc + lo / 32) (k / 32) else ([], [])
  (d, s, cumDecode p k d s, cumPoison p k dp sp)

/-! ### The owner's arithmetic (R245, R246) -/

/-- The IEEE 754-2019 maximum (or minimum) of two elements: a NaN prevails, −0 is below +0. -/
def fvMax (mx : Bool) (x y : FV) : FV :=
  let less (a c : FV) : Bool := match a, c with
    | .inf s, .inf t => s && !t
    | .inf s, _ => s
    | _, .inf t => !t
    | .zero s, .zero t => s && !t
    | a, c => decide (a.int < c.int)
  match x, y with
  | .nan, _ => .nan
  | _, .nan => .nan
  | x, y => if less x y == mx then y else x

/-- One reduced element before its rounding. -/
def cumExact (op : Nat) (vs : List FV) : GSum :=
  let one (v : FV) : GSum := match v with
    | .nan => .nan
    | .inf s => .inf s
    | .zero s => .val 0 s
    | .fin n => .val n false
  if op = 0 then gSum (vs.map one)
  else match vs with
    | [] => .val 0 false
    | x :: xs => one (xs.foldl (fvMax (op == 1)) x)

/-- The accumulated pair of one element (R245) and the event of its rounding: high word, low word. -/
def cumAcc (pair : Bool) (r : Rnd) (u : Nat) (g : GSum) : Nat × Nat × Option NumEv :=
  let x := g.toX (-149)
  if !pair then
    let (s, ev) := rnd32 r u x
    (s, 0, ev)
  else
    let (hi, ev) := rnd32 .rne 0 x
    match g, dec32 hi with
    | .val i _, h => if h.isFin then (hi, (rnd32 r u (XV.ofInt (i - h.int) (-149) false)).1, ev) else (hi, 0, ev)
    | _, _ => (hi, 0, ev)

/-- The value of an accumulated pair. -/
def pairX (r : Rnd) (hi lo : Nat) : XV := exactSum r (if (dec32 hi).isFin then [dec32 hi, dec32 lo] else [dec32 hi]) none

/-- The value of an accumulated pair as an exact number of units of 2 ^ -149. -/
def pairFV (r : Rnd) (hi lo : Nat) : FV :=
  if !(dec32 hi).isFin then dec32 hi
  else
    let i := (dec32 hi).int + (dec32 lo).int
    if i ≠ 0 then .fin i else .zero (match pairX r hi lo with | .zero s => s | _ => false)

/-- A group value as an element value. -/
def GSum.toFV : GSum → FV
  | .nan => .nan
  | .inf s => .inf s
  | .val i nz => if i = 0 then .zero nz else .fin i

/-- The one event an element counts of two roundings: the first in the order of R135. -/
def firstEv (a c : Option NumEv) : Option NumEv :=
  [NumEv.ovf, .nan, .unf, .sat].find? fun k => a == some k || c == some k

/-- The value of a reduced element that the output conversion takes (R245): the rounded sum or pair; a maximum or minimum is exact. -/
def cumValue (p : CumParams) (r : Rnd) (g : GSum) (a : Nat × Nat × Option NumEv) : FV :=
  if p.op ≠ 0 then g.toFV else if p.accPair then pairFV r a.1 a.2.1 else dec32 a.1

/-- The chunk an owner forms from the contributions in rank order: output bytes, scale bytes, events. Each element counts at most
one event (R135), none for a maximum's or minimum's accumulation, and a poisoned element none. -/
def cumForm (p : CumParams) (ceil : Bool) (key : BitVec 64) (k : Nat) (vss : List (List FV)) (po : List Bool) :
    List (BitVec 8) × List (BitVec 8) × NumCounts :=
  let r := Rnd.ofCode p.rnd
  let u (i w : Nat) : Nat := if r = .sr then srBits key i w else 0
  let gs := (List.range k).map fun i => cumExact p.op (vss.map fun vs => vs.getD i .nan)
  let accs := (gs.zip (List.range k)).map fun x => cumAcc p.accPair r (u x.2 0) x.1
  let vs := (gs.zip accs).map fun x => cumValue p r x.1 x.2
  let accEvs := accs.map fun a => if p.op = 0 || p.outRaw then a.2.2 else none
  let tally (evs : List (Option NumEv)) : NumCounts :=
    (evs.zip (List.range k)).foldl (fun (c : NumCounts) y => if po.getD y.2 false then c else c.bump y.1) NumCounts.zero
  if p.outRaw then (accs.flatMap fun a => le 4 a.1 ++ le 4 a.2.1, [], tally accEvs)
  else if p.outMx then
    let t : Target := if p.tgt = 7 then .mx fE4M3 else .mx fE5M2
    let bl := ((List.range (k / 32)).map fun j =>
      mxBlock t ceil r ((List.range 32).map fun i => u (32 * j + i) 1) ((vs.drop (32 * j)).take 32))
    let evs := bl.flatMap fun x => x.2.map fun y => (x.1 == 0xFF, y.2)
    (bl.flatMap fun x => x.2.map fun y => BitVec.ofNat 8 y.1, bl.map fun x => BitVec.ofNat 8 x.1,
      tally ((evs.zip accEvs).map fun x => if x.1.1 then some .nan else firstEv x.1.2 x.2))
  else
    let t : Target := if p.tgt = 0 then .flt fB32 .inf else .flt fBF16 .inf
    let os := (vs.zip (List.range k)).map fun x => convert1 t r (u x.2 1) x.1.toX
    (os.flatMap fun o => le p.outW o.1, [], tally ((os.zip accEvs).map fun x => firstEv x.1.2 x.2))

/-- The digest lane (R247). -/
def laneDigest (seq q : Nat) (d : List (BitVec 8)) : BitVec 64 :=
  let h := absorb (absorb 0#64 (BitVec.ofNat 64 seq)) (BitVec.ofNat 64 q)
  (List.range (ceilDiv d.length 8)).foldl (fun h i => absorb h (BitVec.ofNat 64 (bytesAt d (8 * i) 8))) h

/-- The digest of a chunk: output bytes, scale bytes, the four counts as words. -/
def outDigest (seq q : Nat) (o : CumOut) : BitVec 64 :=
  laneDigest seq q (o.data ++ o.scales ++ le 4 o.ev.ovf ++ le 4 o.ev.nan ++ le 4 o.ev.unf ++ le 4 o.ev.sat)

/-! ### Disagreements and mismatches (R248, R250) -/

/-- A failed check: the counter, the ledger's report, the unit history (R248, R332). -/
def cumDisagree (e : Env) (b : Body) (slot seq q : Nat) : Body :=
  let b := modCtx b slot fun c => { c with far := { c.far with cumDis := satAdd 0xFFFFFFFF c.far.cumDis 1 } }
  histAdd e (reportDisagree b slot (.cum seq q)) 9 0 0x0F 0 none 0x13 0 q

/-- The checks of one contribution against the owner's own command: parameters, then the key. -/
def cumCheck (e : Env) (b : Body) (r : Reduce) (x : Contrib) : Body :=
  if x.p ≠ r.p then raise b { ctxFault r.slot 0x0D 9 0 with oper := 0x09 }
  else if x.key ≠ cumKey (ctxAt b r.slot) r.seq then cumDisagree e b r.slot r.seq r.rank
  else b

/-- The contributions an owner holds for a reduction, one for each rank, in rank order. -/
def cumHeld (b : Body) (r : Reduce) : List Contrib :=
  (List.range r.p.n).filterMap fun q => b.fab.contrib.find? fun x => x.slot == r.slot && x.seq == r.seq && x.rank == q

/-- Change a reduction. -/
def modRed (b : Body) (slot seq : Nat) (f : Reduce → Reduce) : Body :=
  { b with fab := { b.fab with red := b.fab.red.map fun r => if r.slot = slot ∧ r.seq = seq then f r else r } }

/-- Does the sum lane of a chunk agree (R247)? A chunk with a NaN, an infinity or poison is not compared. -/
def sumOk (op : Nat) (xs : List Contrib) : Bool :=
  if xs.any fun x => x.poison.any (· == true) || x.vals.any fun v => !v.isFin then true
  else sumLane op (xs.flatMap (·.vals)) == sumLane op (xs.map fun x => if x.sigma = 0 then .zero false else .fin x.sigma)

/-- The owner rounds and sends its chunk once every contribution is in (R244). -/
def cumOwn (e : Env) (b : Body) (r : Reduce) : Body :=
  let p := r.p
  let k := p.cnt r.rank
  let xs := cumHeld b r
  if r.out.isSome ∨ k = 0 ∨ xs.length ≠ p.n then b
  else
    let c := ctxAt b r.slot
    let b := if sumOk p.op xs then b else cumDisagree e b r.slot r.seq r.rank
    let key := tileKey c.num.seed (BitVec.ofNat 64 (stepNum c)) 0x3000 (BitVec.ofNat 64 r.seq) (BitVec.ofNat 64 (r.rank * p.c * p.inW)) 0
    let po := (List.range k).map fun i => xs.any fun x => x.poison.getD i false
    let (d, s, ev) := cumForm p c.num.mxIn key k (xs.map (·.vals)) po
    let o : CumOut := { data := d, scales := s, poison := po, ev := ev, digest := 0 }
    let o := { o with digest := outDigest r.seq r.rank o }
    let b := modRed b r.slot r.seq fun y => { y with out := some o }
    if p.kind = 1 then b
    else match members c r.set p.first p.n with
      | some us => (us.filter (· != b.fab.addr)).foldl (fun b v => sendJob b r.slot (.chunk v r.seq r.rank o)) b
      | none => b

/-! ### Writing chunks (R244, R247, R249) -/

/-- The line pieces of an output chunk: where they go, their bytes, their poison. -/
def outPieces (b : Body) (r : Reduce) (q : Nat) (o : CumOut) : List (List Seg × List (BitVec 8) × Bool) :=
  let p := r.p
  let off := if p.kind = 1 then 0 else q * p.c
  let part (a per : Nat) (d : List (BitVec 8)) : List (List Seg × List (BitVec 8) × Bool) :=
    (dstPieces a d.length).map fun x =>
      (segsOf b r.slot (a + x.1) x.2, (d.drop x.1).take x.2,
        ((o.poison.drop (x.1 * 32 / per)).take ((x.2 * 32 + per - 1) / per)).any (· == true))
  part (r.dst + off * p.outW) (32 * p.outW) o.data ++ (if p.outMx then part (r.dstSc + off / 32) 1 o.scales else [])

/-- Write line pieces, all or none. -/
def putAll (e : Env) (slot : Nat) : List (List Seg × List (BitVec 8) × Bool) → Body → Option Body
  | [], b => some b
  | (gs, d, po) :: t, b =>
    let z := po && gs.any (·.host)
    (putSegs e (some slot) (po && !z) b gs (if z then List.replicate d.length 0 else d)).bind (putAll e slot t)

/-- A chunk is written at a participant, its digest lane checked, its events counted. A write that push-ahead or a retraining
channel holds leaves the chunk for later. -/
def cumWrite (e : Env) (b : Body) (r : Reduce) (q : Nat) (o : CumOut) : Body :=
  let ps := outPieces b r q o
  match ps.find? fun x => (segsHeld b x.1).isSome with
  | some x => (tryPut e b (some r.slot) r.fly q x.1 x.2.1 false).1
  | none => match putAll e r.slot ps b with
    | none => b
    | some b =>
      let b := { b with mem := { b.mem with held := b.mem.held.filter (· != (r.fly, q)) } }
      let bad := (ps.filter (·.2.2)).length
      let b := if o.digest = outDigest r.seq q o then b else cumDisagree e b r.slot r.seq q
      let b := if bad = 0 then b else reportDirty b r.slot
      let b := modCtx b r.slot fun c => { c with num := c.num.count c.led.openStep.isSome e.cyc none o.ev }
      modRed b r.slot r.seq fun y => { y with done := y.done ++ [q], poisoned := y.poisoned + bad }

/-- The chunks a participant writes. -/
def Reduce.due (r : Reduce) : List Nat :=
  if r.p.kind = 1 then (if r.p.cnt r.rank = 0 then [] else [r.rank]) else (List.range r.p.n).filter fun q => r.p.cnt q != 0

/-- Is a reduction complete at this participant (R250)? -/
def Reduce.complete (r : Reduce) : Bool := r.due.all r.done.contains

/-! ### REDUCE -/

/-- The errors that reading chunk `q` of the input finds. -/
def cumFind (e : Env) (b : Body) (r : Reduce) (q : Nat) : Body :=
  let p := r.p
  let b := findRange e r.slot b (r.src + q * p.c * p.inW) (p.cnt q * p.inW)
  if p.inMx then findRange e r.slot b (r.srcSc + q * p.c / 32) (p.cnt q / 32) else b

/-- Send the contributions of a reduction, and keep the own one. A shadow sends none (R340). -/
def cumSend (e : Env) (b : Body) (r : Reduce) (us : List Nat) : Body :=
  let p := r.p
  let key := cumKey (ctxAt b r.slot) r.seq
  ((List.range p.n).zip us).foldl (fun b x =>
    let q := x.1
    if p.cnt q = 0 then b
    else
      let b := cumFind e b r q
      let (d, s, vs, po) := cumInput b r q
      if q = r.rank then
        { b with fab := { b.fab with contrib := b.fab.contrib ++
          [{ slot := r.slot, seq := r.seq, rank := q, p := p, vals := vs, poison := po, sigma := sumLane p.op vs, key := key }] } }
      else if shadowing b r.slot then b
      else sendJob b r.slot (.contribution x.2 r.seq q p d s po (sumLane p.op vs) key)) b

/-- The refusal of a REDUCE; 0 when there is none. -/
def reduceRefusal (b : Body) (r : Reduce) (ranked : Bool) : Nat :=
  let c := ctxAt b r.slot
  let p := r.p
  let wr (a n : Nat) : Bool := match xlate b r.slot a n true with | .ok _ => true | .fault _ => false
  let outN := if p.kind = 1 then p.cnt r.rank else p.e
  if c.id.job = 0 ∨ p.bad ∨ 3 < r.set then 0x01
  else if !setFitted b r.set ∨ (p.needs && (!hubFeat b || decide (c.id.col < 3))) then 0x04
  else if !ranked then 0x01
  else if !mapped b r.slot r.src (p.e * p.inW) || (p.inMx && !mapped b r.slot r.srcSc (p.e / 32)) || !wr r.dst (outN * p.outW) ||
      (p.outMx && !wr r.dstSc (outN / 32)) then 0x0A
  else 0

/-- The reduction of a REDUCE in which this module has rank `rank`. -/
def reduceOf (c : Cmd) (b : Body) (rank : Nat) : Reduce :=
  { slot := c.slot, handle := handleOf c.e b c.slot, ring := ringNum c.r, fly := c.seq, step := stepNum (ctxAt b c.slot), seq := c.at 24 4,
    p := cumParamsOf c, set := c.at 18 1, src := c.at 32 6, srcSc := c.at 38 6, dst := c.at 44 6, dstSc := c.at 50 6, rank := rank, out := none,
    done := [], poisoned := 0 }

/-- Start a reduction: the contributions that came before it are checked, its own go out. -/
def reduceGo (e : Env) (b : Body) (r : Reduce) (us : List Nat) : Body :=
  let early := b.fab.contrib.filter fun x => x.slot == r.slot && x.seq == r.seq
  let b := { b with fab := { b.fab with red := b.fab.red ++ [r] } }
  cumOwn e (cumSend e (early.foldl (fun b x => cumCheck e b r x) b) r us) r

/-- The participants of a REDUCE. -/
def reduceUnits (c : Cmd) (b : Body) : Option (List Nat) :=
  let p := cumParamsOf c
  if 16384 < p.n ∨ p.n < 2 then none else members (ctxAt b c.slot) (c.at 18 1) p.first p.n

/-- REDUCE: Cumulus reduces a tensor (R243 to R250). -/
def doReduce (c : Cmd) (b : Body) : Body :=
  let us := reduceUnits c b
  let rk := us.bind (ownRank b)
  let r := reduceOf c b (rk.getD 0)
  let st := reduceRefusal b r rk.isSome
  if st ≠ 0 then finish b c st 0 else reduceGo c.e b r (us.getD [])

/-- The body fields of REDUCE. -/
def reduceSpec : CmdSpec := ⟨0, [(16, 8), (17, 8), (18, 8), (20, 16), (22, 16), (24, 32), (28, 32), (32, 48), (38, 48), (44, 48), (50, 48)], doReduce⟩

/-- A finished reduction leaves: its contributions, one of each rank, go with it. -/
def reduceEnd (b : Body) (r : Reduce) : Body :=
  let used := cumHeld b r
  { b with fab := { b.fab with red := b.fab.red.filter (fun y => !(y.slot == r.slot && y.seq == r.seq))
                               contrib := used.foldl (fun l x => l.erase x) b.fab.contrib } }

/-- A contribution arrives at the chunk owner (R244, R245). -/
def cumArrive (e : Env) (b : Body) (x : Contrib) : Body :=
  let b := { b with fab := { b.fab with contrib := b.fab.contrib ++ [x] } }
  match b.fab.red.find? fun r => r.slot == x.slot && r.seq == x.seq with
  | none => b
  | some r => cumOwn e (cumCheck e b r x) r

/-- An output chunk arrives at a participant; the own chunk is the one formed here. -/
def cumChunk (e : Env) (b : Body) (slot seq q : Nat) (o : CumOut) : Body :=
  match b.fab.red.find? fun r => r.slot == slot && r.seq == seq with
  | none => b
  | some r =>
    if r.done.contains q ∨ !r.due.contains q then b
    else if q = r.rank ∧ !shadowing b slot then (match r.out with | some y => cumWrite e b r q y | none => b)
    else cumWrite e b r q o

end Sys2Proof.Machine
end

