-- ==== Sys2Proof/Machine/PanelEvents.lean ====
section
/-! DEFINITION. Events of panels (spec 02, 03, 07, 08): a waiting thread resumes, data and acknowledgements
come back, rotation points release, a sequencer disagrees, a quarantine test runs, a reset's scrub ends. -/

namespace Sys2Proof.Machine

/-- The key of a physical panel named by an event. -/
def physKey (p : PhysRef) : Nat := pkey p.die.val p.pp.val

/-- THREAD_RESUME: a thread whose wait has ended resumes at its owned position (R32). -/
def execThreadResume (t : ThreadRef) (s : State) : Out := runCmd (threadResume t) s

/-- ARRIVAL_WRITE: line `j` of load `uid` is written from the arrival buffer; the last counts the token down (R37, R73). -/
def execArrivalWrite (p : PhysRef) (uid j : Nat) (s : State) : Out := runCmd (fun e b => arrival e b (physKey p) uid j) s

/-- Piece `j` of store `uid` is written by its memory controller and its acknowledgement reaches the panel (R196). A piece
that push-ahead holds waits (R289). -/
def storeAck (e : Env) (b : Body) (k uid j : Nat) : Body :=
  match (panelAt b k).store.find? fun x => x.ins.uid == uid && !x.out.isEmpty with
  | none => b
  | some x =>
    match x.out[j]? with
    | none => b
    | some c =>
      let (b, done) := tryPut e b (some x.ins.slot) uid j c.segs c.data c.poison
      if done then ackChunk e b k x j else b

/-- STORE_ACK. -/
def execStoreAck (p : PhysRef) (uid j : Nat) (s : State) : Out := runCmd (fun e b => storeAck e b (physKey p) uid j) s

/-- HELD_WRITE_RELEASE: push-ahead copies state block `k` of a context, and the writes it held may proceed (R289). -/
def execHeldWriteRelease (slot : Fin 4096) (k : Nat) (s : State) : Out := runCmd (fun e b => pushAhead e b slot.val k) s

/-- MITRE_TILE_ARRIVAL: the next tile of the oldest LDT is complete (R164). -/
def execMitreTileArrival (p : PhysRef) (s : State) : Out := runCmd (fun e b => mitreArrive e b (physKey p)) s

/-- ROTATION_RELEASE: the panel's rotation points release (R53 to R55). -/
def execRotationRelease (p : PhysRef) (s : State) : Out := runCmd (fun e b => rotRelease e b (physKey p)) s

/-- ROTATION_QUIESCE_END: the 4,096 cycles end (R55). -/
def execRotationQuiesceEnd (p : PhysRef) (s : State) : Out := runCmd (fun e b => rotEnd e b (physKey p)) s

/-- SEQ_MISMATCH: the trailing sequencer of a panel disagrees (R58). -/
def execSeqMismatch (p : PhysRef) (s : State) : Out := runCmd (fun e b => seqMismatch e b (physKey p)) s

/-- QUARANTINE_TEST: the keeper takes the panel's scaffold for the built-in test; refused, it tries again later (R59, R358). -/
def quarantineTest (b : Body) (k : Nat) : Body :=
  if (panelAt b k).st ≠ .quarantine ∨ holds b (grpKey 2 k) 1 false then b
  else (tryGroup b ⟨grpKey 2 k, 1, false, none, 0⟩).getD b

/-- QUARANTINE_TEST. -/
def execQuarantineTest (p : PhysRef) (s : State) : Out := runCmd (fun _ b => quarantineTest b (physKey p)) s

/-- QUARANTINE_TEST_DONE: the test in progress ends; its result is entered in the unit history (R59, Table 12-20). -/
def quarantineDone (e : Env) (b : Body) (k : Nat) (pass : Bool) : Body :=
  if !holds b (grpKey 2 k) 1 false then b
  else
    let b := releaseGroup b (grpKey 2 k) 1 false
    let b := histAdd e b 0 k (if pass then 0x0D else 0x0C) 0 (some (k / 9)) 0xFF 0 0
    quarantineEnd e b k pass

/-- QUARANTINE_TEST_DONE. -/
def execQuarantineTestDone (p : PhysRef) (pass : Bool) (s : State) : Out := runCmd (fun e b => quarantineDone e b (physKey p) pass) s

/-- CONTEXT_SCRUB_DONE: the bank scrub of a context reset ends on one panel (R50). -/
def execContextScrubDone (slot : Fin 4096) (p : PhysRef) (s : State) : Out :=
  runCmd (fun e b => scrubDone e b slot.val (physKey p)) s

end Sys2Proof.Machine
end

