-- ==== Sys2Proof/Machine/MemEvents.lean ====
section
/-! DEFINITION. Events of the memory tiers (spec 08): errors that scrubbing finds and what repairs follow (R198 to R206), channel
states and memory retrains (R207 to R210), Sander (R201, R202), margining (R213, R214), temperatures and initialisation. -/

namespace Sys2Proof.Machine

/-- Do the memories run (R24, R343): clocked, neither in self refresh nor unpowered? -/
def memRuns (b : Body) : Bool :=
  clocksRun b && (b.kpr.pwr.st == .clear || b.kpr.pwr.st == .haze) && b.kpr.pwr.hold == 0 && !b.kpr.pwr.off

/-- May a command's or the module's own activity use a scaffold group now? The holder is the module. -/
def ownGroup (b : Body) (t i act : Nat) : Option Body := tryGroup b ⟨grpKey t i, act, false, none, 0⟩

/-! ### Training of die-to-die links (R14, R211, Table 8-16) -/

/-- Change a die-to-die port. -/
def d2dSet (b : Body) (n : Nat) (f : D2d → D2d) : Body := { b with mem := { b.mem with d2d := fmod b.mem.d2d n f } }

/-- A lane of a die-to-die port is 272 × direction + lane; 17 lanes in a row are those of one module, its spare among them (log entry
82). -/
def laneModule (l : Nat) : Nat := l % 272 / 17

/-- The lanes that a training finds failed and the repair map does not name yet. -/
def newLanes (map ls : List Nat) : List Nat := ls.eraseDups.filter fun l => !map.contains l

/-- The repair map with newly failed lanes, and the modules that a second failed lane in one direction puts beyond repair. -/
def addLanes (map ls : List Nat) : List Nat × List Nat :=
  (newLanes map ls).foldl (fun a l => if a.1.any fun k => k / 17 == l / 17 then (a.1, a.2 ++ [laneModule l]) else (a.1 ++ [l], a.2)) (map, [])

/-- Modules with a repaired lane in some direction. -/
def repairedModules (map : List Nat) : Nat := ((map.map laneModule).eraseDups).length

/-- A training found failed lanes of a die-to-die port, of which `fixed` were repaired: history entries (R211, R332). -/
def noteLanes (e : Env) (die n : Nat) (fixed : List Nat) (b : Body) (ls : List Nat) : Body :=
  ls.foldl (fun b l =>
    let put (k : Nat) (b : Body) : Body := histAdd e b 5 (1024 * n + 512 * (l / 272) + l % 272) k 0 (some die) 0x30 0 l
    if fixed.contains l then put 0x09 (put 0x08 b) else put 0x08 b) b

/-- A port trains: the repair map is applied, new failures are added to it, and the port is in service at full width or not at
all. -/
def D2d.trained (x : D2d) (lanes : List Nat) (cause : Nat) : D2d :=
  let (map, bad) := addLanes x.spares lanes
  { x with
    up := bad.isEmpty && cause == 0, nrep := repairedModules map, failMod := (List.range 16).find? bad.contains
    cause := if bad.isEmpty then cause else 1, run := 0, spares := map }

/-- Do the lanes and the cause of a training keep its port from full width, given its repair map? -/
def linkBad (b : Body) (t : LinkTrain) : Bool :=
  t.cause.val != 0 || !(addLanes (fget b.mem.d2d t.port.val).spares (t.lanes.map (·.val))).2.isEmpty

/-- The die that a failed port belongs to: a hub port counts for the C-die it leads to. -/
def portDie (n : Nat) : Nat := if n < 12 then n / 3 else n - 12

/-- Ports train: those listed as they were found, the others of `ns` with no new failure. A link of which one end cannot train is
not in service at its other end. Lanes that failed go to the unit history. -/
def trainLinks (e : Env) (b : Body) (ns : List Nat) (links : List LinkTrain) : Body :=
  let b := ns.foldl (fun b n =>
    let x := fget b.mem.d2d n
    let (ls, cause) := match links.find? fun t => t.port.val == n with
      | some t => (t.lanes.map (·.val), t.cause.val)
      | none => ([], 0)
    let y := x.trained ls cause
    noteLanes e (portDie n) n y.spares (d2dSet b n fun _ => y) (newLanes x.spares ls)) b
  ns.foldl (fun b n => if (fget b.mem.d2d n).up then b else d2dSet b (otherEnd n) fun x => { x with up := false }) b

/-! ### Errors (R198 to R206) -/

/-- The errors that a scrub of a group finds: a stack 3, Tier B 4, a stratum 5 (Table 10-14). What it corrects it writes back, so
that the line holds no error any more (R201). -/
def scrubErrors (e : Env) (sweep : Option Nat) (t i : Nat) (found : List ErrLine) (b : Body) : Body :=
  found.foldl (fun b x =>
    let b := match x.addr with
      | some a => if (fget b.mem.bad (a / 64)).any (fun y => y.strat == (t == 5)) then
          { b with mem := { b.mem with bad := fset b.mem.bad (a / 64) none } } else b
      | none => b
    if t = 3 then stackError e none sweep i b x else if t = 4 then tierBError e none b x else stratumError e none i b x) b

/-! ### Channel states (R207, R208) -/

/-- Set the state of a channel. -/
def setChan (b : Body) (s ch v : Nat) : Body := modStack b s fun x => { x with ch := fset x.ch ch v }

/-- A new fallback size applies once every channel of the die is in service or mapped out (Table 8-7). -/
def fbSync (b : Body) (d : Nat) : Body :=
  if [2 * d, 2 * d + 1].any fun s => (List.range 32).any fun ch => chState b s ch == 1 || chState b s ch == 2 then b
  else modStr b d fun x => { x with fbresIn := x.fbres }

/-- Does a granule address of the fallback belong to a channel? -/
def granuleOf (b : Body) (s ch g : Nat) : Bool :=
  match placeOf b (2048 * g) with
  | some (.hbm s' c' _) => s' == s && c' == ch
  | _ => false

/-- A granule of the fallback is written back to its channel: each of its lines with the stratum's mark, and with new check bits. -/
def granuleBack (b : Body) (g : Nat) : Body :=
  let own (l : Nat) : Bool := l / 32 == g
  { b with mem := { b.mem with
      poison := (b.mem.spoison.filter fun x => x.2 && own x.1).foldl (fun m x => fset m x.1 true) (b.mem.poison.filter fun x => !own x.1)
      bad := b.mem.bad.filter fun x => !(own x.1 && x.2.any fun y => !y.strat) } }

/-- The fallback granules of a channel are written back, and the channel returns to service (R193). -/
def chanBack (b : Body) (s ch : Nat) : Body :=
  let d := s / 2
  let b := ((fget b.mem.str d).fb.filter fun g => granuleOf b s ch g.1).foldl (fun b g => granuleBack b g.1) b
  let b := modStr b d fun x => { x with fb := x.fb.filter fun g => !granuleOf b s ch g.1 }
  let b := modStack b s fun x => { x with trainTemp := fset x.trainTemp ch (fget b.brd.stackTemp s), ceTicks := fdel x.ceTicks ch }
  fbSync (setChan b s ch 0) d

/-- Chunks of a generation on a channel are missing from then on (R186, R291). -/
def missOn (s ch : Nat) (g : GenRec) : GenRec :=
  let hit (x : GenChunk) : Bool := x.stack == s && x.chan == ch && !x.missing && !x.digest.isEmpty
  { g with chunks := g.chunks.map fun x => if hit x then { x with missing := true } else x
           miss := g.miss + (g.chunks.filter hit).length }

/-- A channel fails (R207). A margin run on it is aborted. -/
def chanFail (b : Body) (s ch : Nat) : Body :=
  let b := mapGens (setChan b s ch 2) fun _ g => if g.st = .writing then missOn s ch g else g
  if b.mem.mrg.run = some (0, 32 * s + ch) then
    { b with mem := { b.mem with mrg := { b.mem.mrg with busy := false, status := 2, run := none } } }
  else b

/-- Does a condition of R208 hold for a channel: more than 1,024 corrected errors within 10^9 ticks, or a stack temperature 15 °C
from that of the channel's last training? The count begins anew at a training (DEDUCED, log entry 78). -/
def retrainDue (e : Env) (b : Body) (s ch : Nat) : Bool :=
  let x := fget b.mem.stack s
  decide (1024 < recent e.tick (fget x.ceTicks ch)) ||
    decide (240 ≤ (fget b.brd.stackTemp s - fget x.trainTemp ch).natAbs)

/-- The controller takes the stack's scaffold and starts a retrain of a channel, one at a time on each die; refused, it checks
again 1,000,000 ticks later (R208). -/
def channelRetrain (e : Env) (b : Body) (s ch : Nat) : Body :=
  if !memRuns b || chState b s ch != 0 || !retrainDue e b s ch || [s / 2 * 2, s / 2 * 2 + 1].any (fun t => (List.range 32).any fun c => chState b t c == 1) then b
  else match ownGroup b 3 s 6 with
    | none => modStack b s fun x => { x with retryAt := fset x.retryAt ch (e.tick + 1000000) }
    | some b =>
      let b := memNote e b (.hbm s) (memRec e b none 0x8 0 ch 0)
      modStack (setChan b s ch 1) s fun x => { x with retryAt := fset x.retryAt ch 0 }

/-- A line reference to a channel alone. -/
def chanLine (ch : Nat) : ErrLine := ⟨ch, 0, 0, 0, 0, none, 0, false, false, false⟩

/-- A controller's retrain of a channel ends (R207). -/
def channelDone (e : Env) (b : Body) (s ch : Nat) (pass : Bool) : Body :=
  if chState b s ch ≠ 1 ∨ !holds b (grpKey 3 s) 6 false then b
  else
    let b := releaseGroup b (grpKey 3 s) 6 false
    if pass then chanBack b s ch else proposeChannel e none (chanFail b s ch) s (chanLine ch)

/-! ### Memory retrains (R204, R209, R210) -/

/-- Does a LIVE context map a module page that a predicate names? -/
def liveMaps (b : Body) (pg : Nat → Bool) : Bool :=
  b.ctx.slot.any fun c => c.2.id.st == .live && c.2.xl.any fun x => x.2.valid && !x.2.host && pg x.2.page

/-- Soft repairs become hard (R204): how many, and the records. -/
def hardenStack (e : Env) (b : Body) (s : Nat) : Nat × Body :=
  let rs := (fget b.mem.stack s).soft
  let b := rs.foldl (fun b r => memNote e b (.hbm s) (memRec e b none 0x4 0 r.ch (r.row % 2 ^ 24))) b
  (rs.length, modStack b s fun x => { x with soft := [] })

/-- Map out one FAILED channel: flash, the record, the generations. -/
def mapOut (e : Env) (b : Body) (s ch : Nat) : Body :=
  let b := setChan b s ch 3
  mapGens (memNote e b (.hbm s) (memRec e b none 0xB 0 ch 0)) fun _ g => missOn s ch g

/-- A memory retrain of a die window (R209): FAILED channels leave the channel list, and the window's ordinary part is lost
with the interleave; soft repairs become hard; channels of `bad` fail their training; each channel of `lanes` has one more
command/address lane repaired, which flash keeps (R211). -/
def retrainWindow (e : Env) (b : Body) (d : Nat) (bad lanes : List Nat) : Body :=
  let chans : List (Nat × Nat) := [2 * d, 2 * d + 1].flatMap fun s => (List.range 32).map fun ch => (s, ch)
  let out := chans.filter fun x => chState b x.1 x.2 == 2
  let b := if out.isEmpty then b
    else { modStr b d (fun x => { x with fb := [] }) with mem := (modStr b d fun x => { x with fb := [] }).mem.lose d }
  let b := out.foldl (fun b x => mapOut e b x.1 x.2) b
  let b := (hardenStack e (hardenStack e b (2 * d)).2 (2 * d + 1)).2
  let b := (lanes.filter fun u => u / 64 == d).foldl (fun b u =>
    let put (k : Nat) (b : Body) : Body := histPut e b 2 u k 0 (stackTempWord b (u / 32)) (some d) 0x30 0 (u % 32)
    put 0x09 (put 0x08 (modStack b (u / 32) fun x => { x with caLanes := fmod x.caLanes (u % 32) (· + 1) }))) b
  let b := (chans.filter fun x => chState b x.1 x.2 == 0).foldl (fun b x =>
    if bad.contains (32 * x.1 + x.2) then proposeChannel e none (chanFail b x.1 x.2) x.1 (chanLine x.2)
    else modStack b x.1 fun y =>
      { y with trainTemp := fset y.trainTemp x.2 (fget b.brd.stackTemp x.1), ceTicks := fdel y.ceTicks x.2 }) b
  fbSync b d

/-- A memory retrain of Tier B (R210): failed packages are mapped out, which loses Tier B and the Lining's copies. -/
def retrainTierB (e : Env) (b : Body) (bad : List Nat) : Body :=
  let out := (List.range 24).filter fun p => fget b.mem.tb.failed p && !fget b.mem.tb.out p
  let b := if out.isEmpty then b else { b with mem := b.mem.lose 4, fab := { b.fab with partner := [] } }
  let b := out.foldl (fun b p =>
    memNote e (modTb b fun x => { x with out := fset x.out p true, failed := fset x.failed p false, ueTicks := fdel x.ueTicks p }) .tierB (memRec e b none 0xB 1 p 0)) b
  bad.foldl (fun b p => if fget b.mem.tb.out p then b else modTb b fun x => { x with failed := fset x.failed p true }) b

/-! ### Sander (R201, R202) -/

/-- The group of a segment: 128 of each stack, 1,536 of Tier B, one of each stratum. -/
def segGroup (n : Nat) : Nat × Nat := if n < 1024 then (3, n / 128) else if n < 2560 then (4, 0) else (5, n - 2560)

/-- Is the segment's tier swept? -/
def segOn (s : Sander) (n : Nat) : Bool := if n < 1024 then s.tierA else if n < 2560 then s.tierB else s.strat

/-- Does a segment of a stack overlap a generation that Undercoat is writing (R358)? Four segments of 1 GiB make a channel;
the halves of the spare region follow the ordinary part (R184). -/
def segWritten (b : Body) (n : Nat) : Bool :=
  let s := n / 128
  let q := n % 4 * 2 ^ 30
  let sp := (fget b.mem.stack s).spareIn
  decide (n < 1024) && b.ctx.slot.any fun c =>
    match c.2.led.snap with
    | none => false
    | some k =>
      let lo := ordSize sp + genOfStep k.step * (sp * 2 ^ 27)
      k.stackHeld.contains s && decide (q < lo + sp * 2 ^ 27 ∧ lo < q + 2 ^ 30)

/-- A sweep with no segment left ends (Table 8-11); what was skipped comes first in the next. -/
def sanderEnd (s : Sander) : Sander :=
  if s.again.isEmpty && !((List.range 2564).any fun n => decide (s.next ≤ n) && segOn s n && !s.first.contains n) then
    { s with complete := if s.skipped.isEmpty then satAdd 0xFFFF s.complete 1 else s.complete,
             incomplete := if s.skipped.isEmpty then s.incomplete else satAdd 0xFFFF s.incomplete 1,
             next := 0, again := s.skipped, first := s.skipped, skipped := [], sweep := s.sweep + 1 }
  else s

/-- The lines of a segment that hold an error no read has found: of a stack by the local address their page is redirected to (R205),
of Tier B by their offset, of a stratum those it serves. -/
def segBad (b : Body) (n : Nat) : List ErrLine :=
  b.mem.bad.filterMap fun y => y.2.bind fun z =>
    let x : ErrLine := { z.err with addr := some (64 * y.1) }
    if n < 1024 then
      match placeOf b (64 * y.1) with
      | some (.hbm s ch loc) =>
        let pg := physPage ((fget b.mem.stack s).retiredIn ch) 129 (loc / 65536)
        if !z.strat && s == n / 128 && ch == n % 128 / 4 && pg / 2 ^ 14 == n % 4 then some x else none
      | _ => none
    else if n < 2560 then if 64 * y.1 / 2 ^ 30 = 1024 + (n - 1024) ∧ !z.strat then some x else none
    else if z.strat ∧ 64 * y.1 / 2 ^ 38 = n - 2560 ∧ framed b y.1 then some x else none

/-- Sander takes its next segment: its scaffold, its lines, the errors found there, those the state holds among them; or it skips
the segment. -/
def sanderSegment (e : Env) (b : Body) (found : List ErrLine) : Body :=
  let s := b.mem.snd
  let setS (b : Body) (f : Sander → Sander) : Body := { b with mem := { b.mem with snd := f b.mem.snd } }
  let pick : Option (Nat × Sander) := match s.again with
    | n :: t => some (n, { s with again := t })
    | [] => ((List.range 2564).find? fun n => decide (s.next ≤ n) && segOn s n && !s.first.contains n).map fun n => (n, { s with next := n + 1 })
  if s.period = 0 ∨ !memRuns b then b
  else match pick with
    | none => setS b sanderEnd
    | some (n, s') =>
      let b := setS b fun _ => s'
      let g := segGroup n
      let b := if (ownGroup b g.1 g.2 2).isNone || segWritten b n then setS b fun x => { x with skipped := x.skipped ++ [n] }
        else scrubErrors e (some s.sweep) g.1 g.2 (found ++ segBad b n) b
      setS b sanderEnd

/-! ### Margining (R213, R214) -/

/-- The scaffold group of a margin unit; none for a unit that does not exist. -/
def marginGroup (type unit : Nat) : Option Nat :=
  match type with
  | 0 => some (grpKey 3 (unit / 32))
  | 1 => if unit < 24 then some (grpKey 4 0) else none
  | 2 => if unit < 16 then some (grpKey 6 unit) else none
  | 3 => if unit < 6 then some (grpKey 7 unit) else none
  | _ => none

/-- May a margin run start (Table 8-18, R214)? -/
def marginOk (b : Body) (type unit : Nat) : Bool :=
  (match marginGroup type unit with | some g => holds b g 3 true | none => false) && !b.mem.mrg.busy &&
    (match type with
      | 0 => chState b (unit / 32) (unit % 32) == 0
      | 1 => !fget b.mem.tb.out unit && !fget b.mem.tb.failed unit
      | 2 => !(b.ctx.slot.any fun c => c.2.id.st == .live)
      | _ => portUp b (unit / 2 * 2 + 1 - unit % 2) && portUp b unit)

/-- A write of `MRG_CTL`: the fields, and a run when `START` is written 1. `TYPE` and `UNIT` of a run stay its own. -/
def marginWrite (b : Body) (v : Nat) : Body :=
  let m := b.mem.mrg
  let m := { m with type := fld v 29 27, unit := fld v 26 19, sel := fld v 18 10 }
  let setM (b : Body) (m : Margin) : Body := { b with mem := { b.mem with mrg := m } }
  if fld v 31 31 = 0 then setM b m
  else if !marginOk b m.type m.unit then setM b { m with status := 1 }
  else
    let b := setM b { m with busy := true, status := 0, lanes := [], run := some (m.type, m.unit) }
    if m.type = 0 then setChan b (m.unit / 32) (m.unit % 32) 1 else b

/-- Thresholds of Table 8-17: timing and voltage steps. -/
def marginLimit : Nat → Nat × Nat
  | 2 => (4, 3)
  | 3 => (6, 5)
  | _ => (8, 6)

/-- The least timing and voltage side of a lane's result (Table 8-19). -/
def laneSides (w : BitVec 32) : Nat × Nat :=
  let v := w.toNat
  (min (fld v 31 24) (fld v 23 16), min (fld v 15 8) (fld v 7 0))

/-- Is a lane MARGINAL? -/
def laneMarginal (type : Nat) (w : BitVec 32) : Bool :=
  let l := marginLimit type
  let x := laneSides w
  decide (x.1 < l.1 ∨ x.2 < l.2)

/-- The unit of a lane in the history (Table 12-19). Lanes of a port count one direction after the other. -/
def laneUnit (type unit lane : Nat) : Nat × Nat :=
  match type with
  | 0 => (2, unit)
  | 1 => (4, unit)
  | 2 => (5, 1024 * unit + 512 * (lane / 272) + lane % 272)
  | _ => (6, 16 * unit + 8 * (lane / 8) + lane % 8)

/-- The die a margin unit belongs to, for its history entries. -/
def marginDie (type unit : Nat) : Option Nat :=
  match type with
  | 0 => some (unit / 64)
  | 2 => if unit < 12 then some (unit / 3) else none
  | _ => none

/-! ### Temperatures and initialisation -/

/-- The temperatures of the stacks and packages, in 1/16 °C (R183, R187). -/
def memTemps (b : Body) (hbms pkgs : List Int) : Body :=
  let put (m : FMap Int) (l : List Int) : FMap Int := ((List.range l.length).zip l).foldl (fun m x => fset m x.1 x.2) m
  if !memRuns b then b
  else modTb { b with brd := { b.brd with stackTemp := put b.brd.stackTemp (hbms.take 8) } } fun t =>
    { t with temp := put t.temp (pkgs.take 24) }

/-- The controllers initialise the next page in the order of R350. -/
def initPage (b : Body) : Body :=
  match b.mem.initAt with
  | none => b
  | some k =>
    if !memRuns b || (b.kpr.start.phase != 0 && decide (b.kpr.start.phase < 7)) then b
    else if k + 1 < ((initRanges b).map (·.2)).sum then { b with mem := { b.mem with initAt := some (k + 1) } }
    else { b with mem := { b.mem with initAt := none, initEarly := [] } }

end Sys2Proof.Machine
end

