-- ==== Sys2Proof/Machine/LedgerEvents.lean ====
section
/-! DEFINITION. Events of the step ledger (spec 11, 12): snapshots, what buddies answer, what the Lining stores and supplies,
seals, and the adjudication of a refused step. -/

namespace Sys2Proof.Machine

/-! ### Adjudication (R325 to R329) -/

/-- Does a disagreement of a later run repeat one of the first run (R326)? -/
def disRepeats (first : List Disagree) (d : Disagree) : Bool :=
  first.any fun f => match f, d with
    | .strip a l r _ _ _, .strip a' l' r' _ _ _ => a == a' && l == l' && r == r'
    | .cum s q, .cum s' q' => s == s' && q == q'
    | _, _ => false

/-- Does it repeat one on the same physical panel? -/
def disSamePanel (first : List Disagree) (d : Disagree) : Bool :=
  first.any fun f => match f, d with
    | .strip a l r _ pp di, .strip a' l' r' _ pp' di' => a == a' && l == l' && r == r' && pp == pp' && di == di'
    | _, _ => false

/-- Is a disagreement one of the strip? -/
def isStrip : Disagree → Bool
  | .strip .. => true
  | .cum .. => false

/-- Table 12-12: the outcome after the second run (0: the result stands with no outcome); none asks for a third run. -/
def secondRun (a : Adj) (eq : Bool) (second : List Disagree) : Option Nat :=
  if a.firstDirty then
    if eq then
      if second.isEmpty then some 1
      else if second.all isStrip && !(second.any (disSamePanel a.firstList)) then some 2
      else none
    else if second.isEmpty then some 3 else none
  else if eq && second.isEmpty then some 0 else none

/-- The logical panels that a third run exchanges (R327). -/
def exchangeList (second : List Disagree) : List (Nat × Nat) :=
  (second.filterMap fun d => match d with
    | .strip _ _ _ lp _ die => some (die, lp)
    | .cum _ _ => none).eraseDups

/-- The result of step `n` stands here: its checker disagreements no longer make it dirty. -/
def adjClean (b : Body) (slot n : Nat) : Body := modStep b slot n fun r => { r with dirtyChecker := false }

/-- Record the digests that a decision stands for (R329). -/
def adjDigest (b : Body) (slot : Nat) (d : List (List (BitVec 8))) : Body :=
  modLed b slot fun l => { l with adj := { l.adj with firstDig := d } }

/-- The snapshot of a step under adjudication is complete: decide by the run (R326, R328, R329). A step dirty for another cause
is not adjudicated in this run. -/
def adjudicate (e : Env) (b : Body) (slot n : Nat) : Body :=
  let l := (ctxAt b slot).led
  let a := l.adj
  let r := fget l.step n
  let dirty (b : Body) : Body := modStep b slot n fun r => { r with dirtyChecker := true }
  if a.step ≠ n ∨ a.run = 0 ∨ r.dirtyOther ∨ r.resetSince then b
  else if a.run = 1 then
    match secondRun a (r.digests == a.firstDig) r.disagree with
    | some o => adjDigest (adjClean (adjEnd e b slot o []) slot n) slot r.digests
    | none => dirty (modLed b slot fun l => { l with adj := { a with
        run := 2, secondDig := r.digests, secondList := r.disagree, exchange := exchangeList r.disagree } })
  else if a.run = 2 then
    if r.digests = a.secondDig then adjDigest (adjClean (adjEnd e b slot 4 r.disagree) slot n) slot r.digests
    else if r.digests = a.firstDig then adjClean (adjEnd e b slot 5 r.disagree) slot n
    else adjDigest (dirty (adjEnd e b slot 6 r.disagree)) slot []
  else if r.digests = a.firstDig ∧ r.digests ≠ [] then adjClean b slot n
  else dirty (adjEnd e b slot 6 r.disagree)

/-! ### Snapshots (R285 to R290) -/

/-- The shard digest in a manifest. -/
def manShard (m : List (BitVec 8)) : List (BitVec 8) := (m.drop 40).take 32
/-- The narrow shard digest in a manifest. -/
def manNshard (m : List (BitVec 8)) : List (BitVec 8) := (m.drop 72).take 32
/-- Is a manifest's shard streamed in narrow form? -/
def manNarrow (m : List (BitVec 8)) : Bool := bit (bytesAt m 5 1) 2

/-- The last block is copied: the generation is complete, the adjudication under way and the comparison follow, a shadow sends its shard
digest to its leader (R288, R300, R326, R341). -/
def snapshotComplete (e : Env) (b : Body) (slot : Nat) : Body :=
  match (ctxAt b slot).led.snap with
  | none => b
  | some sn =>
    if !snapAll b slot sn then b
    else
      let b := sn.stackHeld.foldl (fun b s => releaseWhere b fun h =>
        h.group == grpKey 3 s && h.act == 4 && !h.host && h.arg == BitVec.ofNat 64 slot) b
      let b := snapDone b slot
      if shadowing b slot then
        sendJob b slot (.shardDigest (ctxAt b slot).con.peer sn.step (manShard (fget (ctxAt b slot).led.gens (genOfStep sn.step)).manifest))
      else compareKept (adjudicate e b slot sn.step) slot sn.step

/-! ### What buddies answer (R281, R282, R292, R294) -/

/-- A BUDDY_SET whose copies are all acknowledged completes. -/
def buddySettle (b : Body) (slot : Nat) : Body :=
  match (ctxAt b slot).led.bset with
  | none => b
  | some x => if x.accepted && x.acks.isEmpty then endBuddySet b slot x 0x00 0 else b

/-- One acknowledgement of a new buddy has come (0 snapshot, 1 inputs). -/
def buddyAcked (b : Body) (slot unit kind step : Nat) : Body :=
  buddySettle (modLed b slot fun l => { l with bset := l.bset.map fun x => { x with acks := x.acks.erase (unit, kind, step) } }) slot

/-- Change a buddy's record. -/
def modBuddy (b : Body) (slot unit : Nat) (f : Buddy → Buddy) : Body :=
  modLed b slot fun l => { l with buddies := l.buddies.map fun x => if x.unit = unit then f x else x }

/-- The image that gave a chunk its narrow form: of the generation's manifest, or, while its snapshot runs, of the state it records. -/
def genImage (b : Body) (slot : Nat) (g : GenRec) (s : Nat) : List (Nat × Nat) :=
  if g.st = .writing then stackImage b slot (snapRegions (ctxAt b slot).led) s else manImage g.manifest s

/-- A chunk that a buddy refused is streamed once more; refused again, the step cannot seal (R294). -/
def chunkRefused (b : Body) (slot unit step stack idx : Nat) : Body :=
  let key := (step * 8 + stack) * 2 ^ 16 + idx
  match (ctxAt b slot).led.buddies.find? (·.unit == unit) with
  | none => b
  | some y =>
    if y.refusedOnce.contains key then
      modStep (modBuddy b slot unit fun z => { z with failed := z.failed ++ [step] }) slot step fun r => { r with snapBad := true }
    else
      let b := modBuddy b slot unit fun z => { z with refusedOnce := z.refusedOnce ++ [key] }
      let g := fget (ctxAt b slot).led.gens (genOfStep step)
      match g.chunks.find? fun x => x.stack == stack && x.idx == idx with
      | some x => if g.step ≠ step then b else
        sendJob b slot (.mirrorChunk unit step stack idx (mirrorBytes (genImage b slot g stack) x))
      | none => b

/-- A message of a buddy arrives. No answer to a BUDDY_SET counts as one that says the module is absent. A log entry is first one that a
BUDDY_SET sent, since those went out first. -/
def buddyMsg (e : Env) (b : Body) (slot unit : Nat) : BuddyMsg → Body
  | .answer present room tray pwr leaf =>
    match (ctxAt b slot).led.bset with
    | none => b
    | some x =>
      if !x.want.contains unit || x.got.any (·.unit == unit) then b
      else
        let a : BuddyAns := { unit := unit, present := present, room := room, tray := tray, pwr := pwr, leaf := leaf }
        buddySettle (buddyDecide e (modLed b slot fun l => { l with bset := some { x with got := x.got ++ [a] } }) slot) slot
  | .inputs n => buddyAcked (modStep b slot n fun r => { r with rbAcks := r.rbAcks.erase unit }) slot unit 1 n
  | .log r =>
    if ((ctxAt b slot).led.bset.elim [] (·.acks)).contains (unit, 2, r.val) then buddyAcked b slot unit 2 r.val
    else modRing b (ctxRing slot r.val) fun x => { x with logAcks := x.logAcks.map fun a => a.erase unit }
  | .snapshot n =>
    let b := modBuddy b slot unit fun y => if genOfStep n = 0 then { y with genA := true } else { y with genB := true }
    buddyAcked (modStep b slot n fun r => { r with snapAcks := r.snapAcks.erase unit }) slot unit 0 n
  | .refused n s c => chunkRefused b slot unit n s c
  | .full n => ledgerErr (setReason (modStep b slot n fun r => { r with snapBad := true }) slot 9) slot

/-- A module that a BUDDY_SET asked, or that supplies copies, is unreachable or silent: it counts as absent (R292, R305). -/
def buddyLost (e : Env) (b : Body) (unit : Nat) : Body :=
  (b.ctx.slot.map (·.1)).foldl (fun b s =>
    let l := (ctxAt b s).led
    let b := if l.bset.any (·.want.contains unit) then buddyMsg e b s unit (.answer false false 0 0 []) else b
    if l.restore.any (·.waiting.contains unit) then
      supplyEnded e (modLed b s fun l => { l with restore := l.restore.map fun x => { x with waiting := unit :: x.waiting.filter (· != unit) } }) s unit 0x8
    else b) b

/-! ### The Lining (R293 to R296) -/

/-- Bytes that the three areas of a partner's partition hold: the copies of its generations, and its unsealed steps' inputs. -/
def Partner.areas (p : Partner) : List Nat :=
  let g (x : GenRec) : Nat := x.manifest.length + (x.chunks.map (·.len)).sum
  [g p.genA, g p.genB, (p.inputs.map (·.2.2.length)).sum + 64 * p.cmds.length]

/-- The size of one partition: the Lining in equal parts, one for each partner, up to two. -/
def partSize (b : Body) (n : Nat) : Nat := b.mem.tb.liningIn * 2 ^ 30 / max 1 n

/-- The copies held for a partner. -/
def partnerOf (b : Body) (job unit : Nat) : Option Partner := b.fab.partner.find? fun p => p.job == job && p.unit == unit

/-- Do a partner's copies fit a partition? Each of the three areas is one third of it (DESIGN CHOICE, log entry 79). -/
def Partner.fits (p : Partner) (size : Nat) : Bool := p.areas.all fun n => decide (n ≤ size / 3)

/-- Can the Lining take what `f` makes of a partner's copies (R293)? A third partner has no partition. -/
def liningRoom (b : Body) (job unit : Nat) (f : Partner → Partner) : Bool :=
  let n := b.fab.partner.length
  match partnerOf b job unit with
  | some p => (f p).fits (partSize b n)
  | none => decide (n < 2) && (f { (default : Partner) with job := job, unit := unit }).fits (partSize b (n + 1)) &&
      b.fab.partner.all fun p => p.fits (partSize b (n + 1))

/-- Change a partner's copies; a new partner gets its partition. -/
def modPartner (b : Body) (job unit : Nat) (f : Partner → Partner) : Body :=
  let l := b.fab.partner
  let l := if (partnerOf b job unit).isSome then l else l ++ [{ (default : Partner) with job := job, unit := unit }]
  { b with fab := { b.fab with partner := l.map fun p => if p.job = job ∧ p.unit = unit then f p else p } }

/-- Change the generation of a step in a partition. -/
def Partner.modGen (p : Partner) (step : Nat) (f : GenRec → GenRec) : Partner :=
  if genOfStep step = 0 then { p with genA := f p.genA } else { p with genB := f p.genB }

/-- The generation of a step in a partition. -/
def Partner.gen (p : Partner) (step : Nat) : GenRec := if genOfStep step = 0 then p.genA else p.genB

/-- A chunk of a partner is stored, in place of one of the same place; the copy is INVALID until it is acknowledged. -/
def storeChunk (g : GenRec) (step : Nat) (x : GenChunk) : GenRec :=
  let old := if g.step = step ∧ g.st = .invalid then g.chunks else []
  { (default : GenRec) with
    st := .invalid, step := step, chunks := old.filter (fun y => !(y.stack == x.stack && y.idx == x.idx)) ++ [x] }

/-- Does a stored copy verify against a manifest: every chunk in, the shard digest equal (R294)? -/
def copyOk (m : List (BitVec 8)) (g : GenRec) : Bool :=
  let ds := (manChunks m).filterMap fun p => (g.chunks.find? fun x => x.stack == p.1 && x.idx == p.2).map (·.digest)
  manifestOk m && ds.length == (manChunks m).length && sha256 ds.flatten == (if manNarrow m then manNshard m else manShard m)

/-- The slot of a local context of a job that shadows a leader, not FREE. -/
def shadowOf (b : Body) (job unit : Nat) : Option Nat :=
  (b.ctx.slot.find? fun c => c.2.id.st != .free && c.2.id.job == job && c.2.con.role == 2 && c.2.con.peer == unit).map (·.1)

/-- Put bytes at context addresses, past the protection of replay buffers: the ledger's own write. -/
def ledgerPut (e : Env) (b : Body) (slot addr : Nat) (d : List (BitVec 8)) : Body :=
  match xlate b slot addr d.length false with
  | .ok gs => (putSegs e (some slot) false b gs d).getD b
  | .fault _ => b

/-- What a generation or a partner's copy supplies to one that asks (R301, R303): one chunk, or the whole with inputs and log. -/
def supplyGen (b : Body) (slot to_ step : Nat) (g : GenRec) (inputs : List (Nat × Nat × List (BitVec 8))) (cmds : List (Nat × Nat × BitVec 512))
    (chunk : Option (Nat × Nat)) : Body :=
  match chunk with
  | some (s, c) =>
    match g.chunks.find? fun x => x.stack == s && x.idx == c with
    | some x => sendJob (sendJob b slot (.mirrorSupply to_ step s c x.dense)) slot (.mirrorSupplyEnd to_ step 0)
    | none => sendJob b slot (.mirrorSupplyEnd to_ step 0xA)
  | none =>
    let b := sendJob b slot (.mirrorManifest to_ step g.manifest)
    let b := (orderChunks g.chunks).foldl (fun b x => sendJob b slot (.mirrorSupply to_ step x.stack x.idx x.dense)) b
    let b := ((List.range inputs.length).zip inputs).foldl (fun b i =>
      sendJob b slot (.mirrorInput to_ i.2.1 i.2.2.1 i.2.2.2 (i.1 + 1 == inputs.length))) b
    let b := cmds.foldl (fun b i => sendJob b slot (.mirrorSupplyCmd to_ i.1 i.2.1 i.2.2)) b
    sendJob b slot (.mirrorSupplyEnd to_ step 0)

/-- A copy is asked for: a partner's, or, by its shadow, the leader's own generation (R339). -/
def liningWant (b : Body) (job unit step to_ : Nat) (chunk : Option (Nat × Nat)) : Body :=
  let slot := jobSlot b job
  match partnerOf b job unit with
  | some p =>
    let g := p.gen step
    if g.step = step ∧ (g.st = .complete ∨ g.st = .sealed) then
      supplyGen b slot to_ step g (p.inputs.filter fun i => decide (step < i.1)) (p.cmds.filter fun i => decide (step < i.1)) chunk
    else sendJob b slot (.mirrorSupplyEnd to_ step 0xB)
  | none =>
    match b.ctx.slot.find? fun c => c.2.id.st != .free && c.2.id.job == job && c.2.con.role == 1 && c.2.con.peer == to_ with
    | some c =>
      let g := fget c.2.led.gens (genOfStep step)
      if g.step = step ∧ g.st = .sealed ∧ g.readable then
        supplyGen b slot to_ step { g with chunks := chunksHere b g.chunks } [] [] chunk
      else sendJob b slot (.mirrorSupplyEnd to_ step 0xB)
    | none => sendJob b slot (.mirrorSupplyEnd to_ step 8)

/-- Can this module be a buddy for a job: a LIVE or HALTED context of it that is no shadow, and a partition (R292, R293, R372)? -/
def buddyReply (b : Body) (job unit : Nat) : Body :=
  let here := b.ctx.slot.any fun c => c.2.id.st != .free && c.2.id.job == job && c.2.con.role != 2
  sendJob b (jobSlot b job) (.buddyAnswer unit job here (liningRoom b job unit id) (unitTags b))

/-- The chunk a buddy supplies for a rollback or restore is kept when it verifies: its exact bytes, or, in a restore, the narrow form,
which is widened (R295, R303). No chunk is taken twice (Table 11-5), but for an exact one in place of a narrow one. -/
def supplyChunk (b : Body) (slot s c : Nat) (d : List (BitVec 8)) : Body :=
  match (ctxAt b slot).led.restore with
  | none => b
  | some x =>
    let m := x.manifest
    let y := chunkOf s c d (manDigest m s c) []
    let w := widenChunk (((manImage m s).drop (2048 * c)).take 2048) d
    let keep (y : GenChunk) : Body := modLed b slot fun l => { l with restore := some { x with
      chunks := x.chunks.filter (fun z => !(z.stack == s && z.idx == c)) ++ [y] } }
    if x.chunks.any fun z => z.stack == s && z.idx == c && chunkOk m z then b
    else if chunkOk m y then keep y
    else if !x.roll && manNarrowDigest m s c == some (sha256 d) then keep (chunkOf s c w (sha256 w) (sha256 d))
    else b

/-- A log entry joins a partner's input area. A STEP_OPEN tells which step the entries of its prologue without a label belong to
(R280, log entry 79). -/
def Partner.logged (p : Partner) (step r : Nat) (w : BitVec 512) : Partner :=
  let cs := if w.toNat % 256 = 0x10 then p.cmds.map fun x => if x.1 = 0 then (step, x.2) else x else p.cmds
  { p with cmds := cs ++ [(step, r, w)] }

/-- Answer a partner of a job. -/
def tell (b : Body) (job : Nat) (f : Frame) : Body := sendJob b (jobSlot b job) f

/-- What arrives from module `src` for the Lining, or from one, is acted on. -/
def liningMsg (e : Env) (b : Body) (src : Nat) : LinMsg → Body
  | .chunk job unit step s c dg d =>
    let put (p : Partner) : Partner := p.modGen step fun g => storeChunk g step (chunkOf s c d dg [])
    if !liningRoom b job unit put then tell b job (.mirrorAck unit step 0 false)
    else if sha256 d ≠ dg then tell b job (.mirrorRefuse unit step s c)
    else modPartner b job unit put
  | .manifest job unit step m =>
    let g := ((partnerOf b job unit).getD default).gen step
    let here := g.step == step && g.st != .empty
    let put (p : Partner) : Partner := p.modGen step fun g =>
      { g with st := .complete, step := step, manifest := m, chunks := if here then g.chunks else [] }
    if copyOk m { g with chunks := if here then g.chunks else [] } && liningRoom b job unit put then
      tell (modPartner b job unit put) job (.mirrorAck unit step 0 true)
    else tell b job (.mirrorAck unit step 0 false)
  | .input job unit step addr d last =>
    match shadowOf b job unit with
    | some s => ledgerPut e b s addr d
    | none =>
      let put (p : Partner) : Partner :=
        { p with inputs := p.inputs.filter (fun i => !(i.1 == step && i.2.1 == addr)) ++ [(step, addr, d)] }
      if !liningRoom b job unit put then tell b job (.mirrorAck unit step 1 false)
      else
        let b := modPartner b job unit put
        if last then tell b job (.mirrorAck unit step 1 true) else b
  | .cmd job unit step r w =>
    match shadowOf b job unit with
    | some s =>
      let q := (ctxAt b s).led.replayQ
      if partSize b 1 / 3 < 64 * (q.length + 1) then endContrail e b s 2
      else modLed b s fun l => { l with replayQ := q ++ [⟨step, r, w⟩] }
    | none =>
      let put (p : Partner) : Partner := p.logged step r w
      if !liningRoom b job unit put then tell b job (.mirrorAck unit step 2 false)
      else tell (modPartner b job unit put) job (.mirrorAck unit step 2 true)
  | .sealed job unit step =>
    if (partnerOf b job unit).isNone then b
    else modPartner b job unit fun p =>
      let p := { p with inputs := p.inputs.filter (·.1 != step), cmds := p.cmds.filter (·.1 != step) }
      p.modGen step fun g => if g.step = step ∧ g.st = .complete then { g with st := .sealed, manifest := manifestFlag g.manifest 1 } else g
  | .rekey job unit to_ =>
    { b with fab := { b.fab with partner := b.fab.partner.map fun p => if p.job = job ∧ p.unit = unit then { p with unit := to_ } else p } }
  | .want job unit step to_ chunk => liningWant b job unit step to_ chunk
  | .ask job unit => buddyReply b job unit
  | .supplyManifest slot m =>
    modLed b slot.val fun l => { l with restore := l.restore.map fun x => if x.roll || (!x.manifest.isEmpty && manifestOk x.manifest) then x else { x with manifest := m } }
  | .supplyChunk slot s c d => restoreTry e (supplyChunk b slot.val s c d) slot.val
  | .supplyInput slot _ addr d => if (ctxAt b slot.val).led.restore.isSome then ledgerPut e b slot.val addr d else b
  | .supplyCmd slot step r w =>
    modLed b slot.val fun l => { l with restore := l.restore.map fun x => { x with cmds := x.cmds ++ [(src, ⟨step, r, w⟩)] } }
  | .supplyEnd slot unit reason => supplyEnded e b slot.val unit reason

/-! ### Seals (R297 to R299) -/

/-- A member has reached CLEAN or DIRTY for a step and reports it. A shadow takes no part in seals (R341). -/
def sealReport (e : Env) (b : Body) (slot n : Nat) : Body :=
  let l := (ctxAt b slot).led
  if shadowing b slot then b
  else if stepClean (fget l.step n) && !stepDirty l n then reportStep e b slot n true
  else if stepDirty l n then reportStep e b slot n false
  else b

/-- A child's report arrives. -/
def sealReportIn (e : Env) (b : Body) (slot n peer : Nat) (clean : Bool) : Body :=
  let r := fget (ctxAt b slot).led.step n
  if r.reports.any (·.1 == peer) then b
  else sealTry e (modStep b slot n fun r => { r with reports := r.reports ++ [(peer, clean)] }) slot n

/-- A decision reaches a member, LIVE or HALTED: it acts and passes the decision on (R298). Where it holds the step no more as unsealed,
a HALTED context learns that another member has reported it SEALED (R301). -/
def sealDecisionIn (e : Env) (b : Body) (slot n : Nat) (sealed : Bool) : Body :=
  let c := ctxAt b slot
  let b := if c.id.st = .halted ∧ sealed ∧ !(c.led.seals.contains n) then
      modLed b slot fun l => { l with remoteSealed := l.remoteSealed ++ [n] }
    else b
  decideStep e b slot n sealed

/-! ### Contrail (R341) -/

/-- The shadow's shard digest reaches the leader, which answers with the comparison; a difference ends shadowing (R341, R342). -/
def contrailDigest (e : Env) (b : Body) (slot n : Nat) (dg : List (BitVec 8)) : Body :=
  let c := ctxAt b slot
  let g := fget c.led.gens (genOfStep n)
  if c.con.role = 1 ∧ c.con.active ∧ g.step = n ∧ (g.st = .complete ∨ g.st = .sealed) then
    let same := dg == manShard g.manifest
    let b := sendJob b slot (.shardResult c.con.peer n same)
    if same then b else endContrail e b slot 1
  else b

/-- The comparison reaches the shadow: a match seals its step; a difference ends shadowing. -/
def contrailResult (e : Env) (b : Body) (slot n : Nat) (same : Bool) : Body :=
  let c := ctxAt b slot
  if !shadowing b slot then b
  else if !same then endContrail e (histAdd e b 11 0 0x0E 0 none 0xFF 0 0) slot 1
  else
    let b := sealStep b slot n
    let hits := min 65535 (c.con.hits + 1)
    let now := !c.con.admitted && decide (c.con.admitAt ≤ hits) && decide (0 < c.con.admitAt)
    let b := modCtx b slot fun c => { c with con := { c.con with hits := hits, admitted := c.con.admitted || now } }
    if now then moduleEvent e b 0x0B 0 0 (handleOf e b slot) c.con.peer n else b

/-! ### The events -/

/-- SNAPSHOT_START. -/
def execSnapshotStart (slot : Fin 4096) (s : State) : Out := runCmd (fun _ b => snapStart b slot.val) s

/-- SNAPSHOT_SCAFFOLD_RETRY. -/
def execSnapshotScaffoldRetry (slot : Fin 4096) (stack : Fin 8) (s : State) : Out := runCmd (fun _ b => snapTake b slot.val stack.val) s

/-- CHUNK_COMPLETE. -/
def execChunkComplete (slot : Fin 4096) (stack : Fin 8) (s : State) : Out := runCmd (fun e b => completeChunk e b slot.val stack.val) s

/-- SNAPSHOT_COMPLETE. -/
def execSnapshotComplete (slot : Fin 4096) (s : State) : Out := runCmd (fun e b => snapshotComplete e b slot.val) s

/-- LINING_CHUNK_RECEIVE. -/
def execLiningChunkReceive (x : LinIn) (s : State) : Out :=
  runCmd (fun e b => liningArrive b x.via fun b => liningMsg e b x.via.hdr.src x.msg) s

/-- BUDDY_ACK. -/
def execBuddyAck (x : JobVia) (unit : Nat) (m : BuddyMsg) (s : State) : Out :=
  runCmd (fun e b => jobArrive b x.slot.val x.via isHeld fun b => buddyMsg e b x.slot.val unit m) s

/-- SEAL_REPORT. -/
def execSealReport (slot : Fin 4096) (step : Nat) (s : State) : Out := runCmd (fun e b => sealReport e b slot.val step) s

/-- SEAL_REPORT_ARRIVAL. -/
def execSealReportArrival (x : JobVia) (step peer : Nat) (clean : Bool) (s : State) : Out :=
  runCmd (fun e b => jobArrive b x.slot.val x.via isHeld fun b => sealReportIn e b x.slot.val step peer clean) s

/-- SEAL_DECISION. -/
def execSealDecision (x : JobVia) (step : Nat) (sealed : Bool) (s : State) : Out :=
  runCmd (fun e b => jobArrive b x.slot.val x.via isHeld fun b => sealDecisionIn e b x.slot.val step sealed) s

/-- CONTRAIL_DIGEST. -/
def execContrailDigest (x : JobVia) (step : Nat) (digest : List (BitVec 8)) (s : State) : Out :=
  runCmd (fun e b => jobArrive b x.slot.val x.via isHeld fun b => contrailDigest e b x.slot.val step digest) s

/-- CONTRAIL_RESULT. -/
def execContrailResult (x : JobVia) (step : Nat) (same : Bool) (s : State) : Out :=
  runCmd (fun e b => jobArrive b x.slot.val x.via isHeld fun b => contrailResult e b x.slot.val step same) s

end Sys2Proof.Machine
end

