-- ==== Sys2Proof/Machine/Ports.lean ====
section
/-! DEFINITION. Griand ports, Horizon and groups (spec 01, 09): training and negotiation (R228, R251), classification (R222 to
R225), ports that go down (R218), unit descriptors and the head of a group (R25 to R27, R276). -/

namespace Sys2Proof.Machine

/-- Change a port. -/
def modPort (b : Body) (n : Nat) (f : Port → Port) : Body := { b with fab := { b.fab with port := fmod b.fab.port n f } }

/-- Does the module train Griand ports (R355, R376)? -/
def griandTrains (b : Body) : Bool :=
  !b.kpr.pwr.off && b.kpr.pwr.hold == 0 && (b.kpr.start.phase == 0 || b.kpr.start.phase == 8) && b.kpr.pwr.st != .night && !b.kpr.pwr.stopped && !b.brd.mateOpen

/-! ### The plan record (R223, Table 9-4) -/

/-- Is a port planned? -/
def planned (b : Body) (n : Nat) : Bool :=
  match b.fab.plan with
  | some d => bit (bytesAt d 44 1) n
  | none => false

/-! ### Classification (R224) -/

/-- The outcome, state, cause and moved flag of a port that answered (Table 9-5), beside what other ports of this run answered. -/
def classifyPort (b : Body) (n : Nat) : Nat × Nat × Nat × Bool :=
  let p := fget b.fab.port n
  let twin := fget b.fab.port (n / 2 * 2 + 1 - n % 2)
  match b.fab.plan with
  | none => (0, 2, 0xB, false)
  | some d =>
    let o := 48 + 32 * n
    if p.axis ≠ n / 2 then (4, 3, 0x4, false)
    else if planned b n && bytesAt d o 2 != p.tree then (4, 3, 0x5, false)
    else if twin.answered && twin.tree != p.tree then (4, 3, 0x9, false)
    else if p.addr ≠ bytesAt d 32 4 % 2 ^ 20 ∨ (b.fab.port.any fun q => q.2.answered && q.2.addr != p.addr) then (4, 3, 0x6, false)
    else if p.boundId ≠ b.kpr.fuse.identity then (4, 3, 0x7, false)
    else if p.digest ≠ d.take 32 then (4, 3, 0x8, false)
    else if planned b n then (1, 1, 0x0, decide (p.leaf.toNat ≠ bytesAt d (o + 4) 8 ∨ p.leafPort ≠ bytesAt d (o + 3) 1))
    else (3, 2, 0xB, false)

/-- The overall outcome, the address and its validity from the ports (R224). The address comes from the lowest-numbered answering
port, one without a conflict before one with. -/
def fabOutcome (b : Body) : Body :=
  let ps := (List.range 6).map fun n => (n, fget b.fab.port n)
  let o := if b.fab.plan.isNone then 0
    else if ps.any (·.2.hzn == 4) then 4
    else if ps.any fun p => planned b p.1 && p.2.hzn != 1 then 2
    else if ps.any (·.2.hzn == 3) then 3 else 1
  let ans := ps.filter (·.2.answered)
  let pick := ((ans.filter (·.2.hzn != 4)).head?).orElse fun _ => ans.head?
  let ok (x : Nat) : Bool := x == 1 || x == 2
  { b with fab := { b.fab with outcome := o, beats := if ok o && ok b.fab.outcome then b.fab.beats else 0, valid := b.fab.plan.isSome && !ans.isEmpty, addr := (pick.map (·.2.addr)).getD b.fab.addr } }

/-- The packets that a DOWN port held without a receipt move to other ports at once (R252). -/
def portMoved (b : Body) (n : Nat) : Body :=
  sendHeld { b with fab := { b.fab with out := b.fab.out.map fun q => if q.port = some n ∧ !q.receipt then { q with held := true } else q } }

/-- A port goes DOWN for a cause; it carries nothing until it trains again (R218, R225). -/
def portDown (b : Body) (n cause : Nat) : Body :=
  let b := modPort b n fun p =>
    { p with st := 0, cause := cause, answered := false, hello := false, hzn := if planned b n then 2 else 0, phy := 0, link := 0, trn := (0, 0),
             col := (0, 0), ldg := (0, 0), lanes := 0, run := 0, downs := if p.st = 0 then p.downs else satAdd 0xFFFFFFFF p.downs 1 }
  portMoved (fabOutcome b) n

/-- HELLO on a port (R222, R226): the provisioned identity, the port number, the version ranges of every layer (PHY, link, transport,
collective, ledger), the plan digest held, if one is, and the module's tags. -/
def helloFrame (b : Body) (n : Nat) : Frame :=
  .hello n b.kpr.fuse.identity (ownDesc b).proto ((b.fab.plan.map (·.take 32)).getD []) (unitTags b)

/-- Send HELLO on a port: a Horizon run begins (R222); what an earlier run answered counts no more. -/
def sendHello (b : Body) (n : Nat) : Body := sendFrame (modPort b n fun p => { p with hello := true, answered := false }) (helloFrame b n)

/-- A lane failure of a port in the unit history (R251). -/
def laneFail (e : Env) (b : Body) (n lane : Nat) : Body := histAdd e b 6 (16 * n + lane) 0x08 0 none 0x30 0 lane

/-- A port completes training (R228, R230, R251): failed lanes are left out; one lost lane needs link version 4; in DUSK it is in Drizzle
(R253); then HELLO. -/
def portTrained (e : Env) (b : Body) (n : Nat) (t : PortTrain) : Body :=
  let rg (k : Nat) : Nat × Nat := (fget b.fab.range k, fget b.fab.range (k + 1))
  let old := fget b.fab.port n
  let b := match t.lane with
    | some l => laneFail e b n l
    | none => b
  let lane := t.lane.map (· % 8)
  let two := old.failTwo || t.second || (match old.failLane, lane with | some x, some y => x != y | _, _ => false)
  let fail := match old.failLane with | some x => some x | none => lane
  let drz := b.kpr.pwr.st == .dusk
  let phy := common (rg 4) t.phy
  let link := common (rg 2) t.link
  if !griandTrains b then b
  else
    let b := modPort b n fun p => { p with failLane := fail, failTwo := two }
    if noRange phy || noRange link then portDown b n 0x3
    else if two || (fail.isSome && decide (link.2 < 4)) then portDown b n 0x2
    else
      let b := modPort b n fun p =>
        { p with st := 2, cause := 0, answered := false, hzn := if planned b n then 2 else 0, lanes := if drz then 1 else if fail.isSome then 7 else 8, drz := drz, run := 0, phy := phy.2, link := link.2
                 trn := common (rg 0) t.trn, col := common (rg 8) t.col, ldg := common (rg 6) t.ldg, other := [t.trn, t.col, t.ldg] }
      fabOutcome (sendHello b n)

/-- Classify a port that has answered. -/
def portClass (b : Body) (n : Nat) : Body :=
  let c := classifyPort b n
  modPort b n fun p => { p with hzn := c.1, st := c.2.1, cause := c.2.2.1, moved := c.2.2.2 }

/-- A leaf switch answers a port's Horizon run: the port is classified, and so is every other port that has answered and is not
ISOLATED, whose tree or address may now be in conflict with this one's (R222, R224, R225). -/
def horizonAnswer (b : Body) (n : Nat) (a : HznAns) : Body :=
  let p := fget b.fab.port n
  if p.st = 0 ∨ !p.hello then b
  else
    let b := modPort b n fun p =>
      { p with answered := true, hello := false, tree := a.tree % 65536, axis := a.axis % 4, leaf := a.leaf, leafPort := a.leafPort % 256,
               addr := a.addr % 2 ^ 20, boundId := a.ident, digest := a.digest }
    let others := (List.range 6).filter fun m => m != n && (fget b.fab.port m).answered && (fget b.fab.port m).hzn != 4
    sendHeld (fabOutcome ((n :: others).foldl portClass b))

/-- A Horizon run has not completed in 100 µs: the port counts as not answering (R222). -/
def horizonTimeout (b : Body) (n : Nat) : Body := if (fget b.fab.port n).hello then portDown b n 0x1 else b

/-- A flit fails and is replayed; eight consecutive failed replays of one flit take the port down (R218). -/
def flitFail (b : Body) (n : Nat) (again : Bool) (cw : Nat) : Body :=
  let p := fget b.fab.port n
  if p.st = 0 then b
  else
    let b := modPort b n fun p => { p with fecCw := satAdd 0xFFFFFFFF p.fecCw cw }
    let run := if again then p.run + 1 else 0
    if 8 ≤ run then portDown b n 0x2
    else sendFrame (modPort b n fun p => { p with run := run, replay := satAdd 0xFFFFFFFF p.replay 1 }) (.replayed n)

/-- A plan record is loaded: Horizon runs again on every trained port; a planned port that is DOWN is SUBSET (R222 to R224). -/
def planLoad (b : Body) (d : List (BitVec 8)) : Body :=
  let b := { b with fab := { b.fab with plan := some (d.take 304) } }
  let (up, down) := (List.range 6).partition fun n => (fget b.fab.port n).st != 0
  let b := down.foldl (fun b n => modPort b n fun p => { p with hzn := if planned b n then 2 else 0 }) b
  fabOutcome (up.foldl sendHello b)

/-! ### Unit descriptors (R25 to R27, Table 1-14) -/

/-- The 64 bytes of a descriptor (R276). -/
def descBytes (d : UnitDesc) : List (BitVec 8) :=
  le 4 d.units ++ le 1 d.depth ++ le 1 d.feat ++ le 1 (b2n d.degraded) ++ le 1 0 ++ le 4 d.head ++ le 4 d.panels ++ le 8 d.tierA ++ le 8 d.tierB ++
    le 8 d.stratum ++ d.proto.flatMap (fun r => le 1 (r.1 % 16 * 16 + r.2 % 16)) ++ List.replicate 19 0

/-- A descriptor from its bytes. -/
def unitDescOf (x : List (BitVec 8)) (members : List Nat) : UnitDesc :=
  let f (o n : Nat) : Nat := bytesAt x o n
  { units := f 0 4, depth := f 4 1, feat := f 5 1 % 16, degraded := bit (f 6 1) 0, head := f 8 4 % 2 ^ 20, panels := f 12 4, tierA := f 16 8, tierB := f 24 8
    stratum := f 32 8, proto := (List.range 5).map fun i => (f (40 + i) 1 / 16, f (40 + i) 1 % 16), members := members }

/-- Send a frame of the fabric's own where some port is UP (R225). -/
def sendUp (b : Body) (f : Frame) : Body := if (List.range 6).any (portUp b) then sendFrame b f else b

/-- The descriptors that the head of a group needs for an answer: of its single modules that it knows and hears, and of its member groups
(R25, R27). -/
def askKeys (b : Body) : Nat → Nat → List Nat
  | 0, _ => []
  | f + 1, key =>
    let subs := (planGroups b).filter fun g => groupInside g key
    let top := subs.filter fun g => !(subs.any fun h => groupInside g h)
    let heard (u : Nat) : Bool :=
      let w := fget b.fab.watch u
      u != b.fab.addr && inGroup key u && !(top.any fun g => inGroup g u) && !w.silent
    let known := (b.fab.watch.filter (·.2.used)).map (·.1) ++ (b.fab.group.filter fun g => g.1 / 2 ^ 20 == 20).map (·.1 % 2 ^ 20)
    ((known.filter heard).eraseDups.map fun u => 20 * 2 ^ 20 + u) ++
      top.flatMap fun g => if inGroup g b.fab.addr then askKeys b f g else [g]

/-- The descriptor of a key is here: a query of this module's own that waits for it completes (R276). -/
def queryDone (e : Env) (b : Body) (key : Nat) (d : List (BitVec 8)) : Body :=
  let (mine, rest) := b.host.queries.partition fun q => q.key == key
  mine.foldl (fun b q => cmdPut e b q.slot q.dst d false (some (q.ring, q.seq))) { b with host := { b.host with queries := rest } }

/-- Answer the discoveries that wait for nothing more (R25, R27). -/
def asksTry (e : Env) (b : Body) : Body :=
  let (go, rest) := b.fab.asks.partition (·.waiting.isEmpty)
  go.foldl (fun b a =>
    let d := descBytes (aggDesc b 20 a.key)
    match a.requester with
    | some u => sendUp b (.descriptor u d)
    | none => queryDone e b a.key d) { b with fab := { b.fab with asks := rest } }

/-- The head of a group answers a discovery, or a query of its own: its members are asked first, so that the answer reflects their state
as it is given (R27). -/
def headAnswer (e : Env) (b : Body) (key : Nat) (requester : Option Nat) : Body :=
  let ks := askKeys b 20 key
  let b := ks.foldl (fun b k => sendUp b (.query (k / 2 ^ 20) (k % 2 ^ 20))) b
  asksTry e { b with fab := { b.fab with asks := b.fab.asks ++ [⟨key, requester, ks⟩] } }

/-- No answer waits for a descriptor any more: it has come, or its unit is silent. -/
def askSettled (e : Env) (b : Body) (key : Nat) : Body :=
  asksTry e { b with fab := { b.fab with asks := b.fab.asks.map fun a => { a with waiting := a.waiting.filter (· != key) } } }

/-- A discovery request (R25): the head of a listed group answers with the aggregated descriptor, others do not; a member that is asked
alone (prefix length 20) answers with its own. -/
def discovery (e : Env) (b : Body) (key requester : Nat) : Body :=
  if !((List.range 6).any (portUp b)) ∨ !clocksRun b then b
  else if key / 2 ^ 20 = 20 then
    if key % 2 ^ 20 = b.fab.addr ∧ b.fab.valid then sendUp b (.descriptor requester (descBytes (ownDesc b))) else b
  else if (planGroups b).contains key && answersFor b key then headAnswer e b key (some requester)
  else b

/-! ### The events -/

/-- PORT_TRAINING_COMPLETE. -/
def execPortTrainingComplete (port : Fin 6) (t : PortTrain) (s : State) : Out := runCmd (fun e b => portTrained e b port.val t) s

/-- HORIZON_ANSWER. -/
def execHorizonAnswer (port : Fin 6) (a : HznAns) (s : State) : Out := runCmd (fun _ b => horizonAnswer b port.val a) s

/-- HORIZON_TIMEOUT. -/
def execHorizonTimeout (port : Fin 6) (s : State) : Out := runCmd (fun _ b => horizonTimeout b port.val) s

/-- GRIAND_FLIT_FAIL: whether the same flit failed its last replay, and the codewords corrected on the port meanwhile. -/
def execGriandFlitFail (port : Fin 6) (again : Bool) (cw : Nat) (s : State) : Out := runCmd (fun _ b => flitFail b port.val again cw) s

/-- PORT_LIVENESS_TIMEOUT. -/
def execPortLivenessTimeout (port : Fin 6) (s : State) : Out :=
  runCmd (fun _ b => if (fget b.fab.port port.val).st = 0 then b else portDown b port.val 0x2) s

/-- A DOWN port tries again: the attempt is reported through the unit history; what training finds is an event of its own (R251). -/
def portRetry (e : Env) (b : Body) (n : Nat) : Body :=
  if (fget b.fab.port n).st ≠ 0 ∨ !griandTrains b then b else histAdd e b 7 n 0x08 0 none 0x30 0 0

/-- PORT_RETRAIN_RETRY. -/
def execPortRetrainRetry (port : Fin 6) (s : State) : Out := runCmd (fun e b => portRetry e b port.val) s

/-- IDLE_FLIT. -/
def execIdleFlit (port : Fin 6) (s : State) : Out :=
  runCmd (fun _ b => if (fget b.fab.port port.val).st = 0 then b else sendFrame b (.idleFlit port.val)) s

/-- DISCOVERY_REQUEST: prefix length (20: one module) and left-aligned value, and the unit that asks. -/
def execDiscoveryRequest (len : Fin 21) (value : BitVec 20) (requester : Nat) (s : State) : Out :=
  runCmd (fun e b => discovery e b (len.val * 2 ^ 20 + value.toNat) requester) s

end Sys2Proof.Machine
end

