-- ==== Sys2Proof/Machine/Fabric.lean ====
section
/-! DEFINITION. The fabric as a destination and as a member (spec 09, 12): packets that arrive and their acknowledgements,
retransmission, phase reports, Cumulus frames, heartbeats, Squall, and what a shadow's leader mirrors. -/

namespace Sys2Proof.Machine

/-! ### Packets that arrive (R231 to R235) -/

/-- The 64-byte lines of a packet: number and memory-side bytes. -/
def packetLines (gs : List Seg) (n : Nat) : List (Nat × List Seg) :=
  (List.range (ceilDiv n 64)).map fun i => (i, subSegs gs (64 * i) 64)

/-- The context of a job that takes packets: LIVE, and not resetting. -/
def jobCtx (b : Body) (job : Nat) : Option (Nat × Ctx) :=
  b.ctx.slot.find? fun c => c.2.id.st == .live && !c.2.id.resetting && c.2.id.job == job && job != 0

/-- A packet that its context accepts: its lines wait for the memory controllers. -/
def packetTake (b : Body) (h : PktHdr) (slot : Nat) (read : Bool) (todo : List InItem) : Body :=
  let (u, b) := freshUid b
  { b with fab := { b.fab with puts := b.fab.puts ++
    [{ src := h.src, seq := h.seq, slot := slot, uid := u, read := read, todo := todo }] } }

/-- The lines of a put or get addressed to a context, or none when it is refused (R233). -/
def packetItems (b : Body) (slot : Nat) : InPkt → Option (Bool × List InItem)
  | .put addr d po =>
    match xlate b slot addr d.length true with
    | .ok gs => some (false, (packetLines gs d.length).map fun l =>
        { id := l.1, va := addr + 64 * l.1, segs := l.2, data := (d.drop (64 * l.1)).take 64, poison := po.getD l.1 false })
    | .fault _ => none
  | .get addr n =>
    match xlate b slot addr n false with
    | .ok gs => some (true, (packetLines gs n).map fun l => { id := l.1, va := addr + 64 * l.1, segs := l.2, data := [], poison := false })
    | .fault _ => none
  | .descriptor _ _ _ => some (false, [])

/-- A put or get arrives: a receipt for every one that is intact; a duplicate does nothing more; without a live context it is
discarded; a version other than the pinned one faults its context (R230, R232 to R234, R237). -/
def transferIn (b : Body) (h : PktHdr) (p : InPkt) : Body :=
  let (b, new) := receiptBack b h
  if !new then b
  else match jobCtx b h.job with
    | none => fabDiscard b
    | some (slot, c) =>
      if !levelFits c h then raise (fabDiscard b) (ctxFault slot 0x0B 8 h.trn)
      else match packetItems b slot p with
        | none => queuePacket b slot 0 0 0 fun _ => .completion h.src h.seq true [] []
        | some (read, items) => packetTake b h slot read items

/-- A descriptor of a group or of one member (prefix length 20) arrives: it is the latest known, a discovery that waits for it goes on,
and a query that waits for it completes (R25, R27, R276). -/
def descriptorIn (e : Env) (b : Body) (key : Nat) (d : List (BitVec 8)) (members : List Nat) : Body :=
  askSettled e (queryDone e { b with fab := { b.fab with group := fset b.fab.group key (unitDescOf d members) } } key d) key

/-- A packet arrives on a port that is UP, or from this module itself; in Drizzle it is discarded (R231, R253). -/
def packetIn (e : Env) (b : Body) (port : Option (Fin 6)) (h : PktHdr) (p : InPkt) : Body :=
  match portTakes b port h.src with
  | .no => b
  | .drop => fabDiscard b
  | .yes => match p with
    | .descriptor key d ms => descriptorIn e b key d ms
    | _ => transferIn b h p

/-- Does a context lead a shadow now (R339)? The shadow's unit. -/
def leads (b : Body) (slot : Nat) : Option Nat :=
  let c := (ctxAt b slot).con
  if c.role = 1 ∧ c.active then some c.peer else none

/-- Mirror something to the shadow of a leader (R340). -/
def mirror (b : Body) (slot kind uid addr : Nat) (d : List (BitVec 8)) (po : Bool) : Body :=
  match leads b slot with
  | some u => sendJob b slot (.shadowLine u kind uid addr d po)
  | none => b

/-- A packet whose last line is done sends its completion acknowledgement and leaves. -/
def inputDone (b : Body) (x : InPut) : Body :=
  let b := { b with fab := { b.fab with puts := b.fab.puts.filter (·.uid != x.uid) } }
  queuePacket b x.slot 0 0 0 fun _ => .completion x.src x.seq false (x.todo.flatMap (·.data)) (if x.read then x.todo.map (·.poison) else [])

/-- Keep a packet in progress, or end it. -/
def inputKeep (b : Body) (x : InPut) (done : Bool) : Body :=
  if done then inputDone b x
  else { b with fab := { b.fab with puts := b.fab.puts.map fun y => if y.uid = x.uid then x else y } }

/-- A memory controller serves line `id` of a packet in progress: a put's line is written, a get's read (R196, R232, R235). -/
def inputAck (e : Env) (b : Body) (x : InPut) (id : Nat) : Body :=
  match x.todo.find? (·.id == id) with
  | none => b
  | some y =>
    if x.read then
      if segsWait b y.segs ∨ !y.data.isEmpty then b
      else
        let b := findSegs e (some x.slot) b y.segs
        let (d, po) := readSegs b y.segs
        let x := { x with todo := x.todo.map fun z => if z.id = id then { z with data := d, poison := po } else z }
        inputKeep b x (x.todo.all fun z => !z.data.isEmpty)
    else
      let (b, done) := tryPut e b (some x.slot) x.uid id y.segs y.data y.poison
      if !done then b
      else
        let b := mirror b x.slot 0 x.uid y.va y.data y.poison
        let x := { x with todo := x.todo.filter (·.id != id) }
        inputKeep b x x.todo.isEmpty

/-- A memory controller serves one piece of the port engine's or a command's work, named by the transfer's number, while the memories
run (R23, R343). -/
def controllerAck (e : Env) (b : Body) (uid id : Nat) : Body :=
  if !memRuns b then b else
  match b.fab.puts.find? (·.uid == uid) with
  | some x => inputAck e b x id
  | none => jobAck e b uid id

/-! ### Acknowledgements (R232, R233, R237) -/

/-- A receipt acknowledgement stops retransmission; a packet that is no transfer is done with it. -/
def receiptIn (b : Body) (seq : Nat) : Body :=
  let mine (q : OutPkt) : Bool := q.seq == seq && decide (0 < q.sends) && ackTaken b q.frame
  { b with fab := { b.fab with
      out := (b.fab.out.filter fun q => !(mine q && !isTransfer q.frame)).map fun q =>
        if mine q then { q with receipt := true, held := false } else q } }

/-- A far get's line is here: it waits for its arrival write. -/
def lineGot (b : Body) (k uid idx : Nat) (d : BitVec 512) (po : Bool) : Body :=
  modPanel b k fun p => { p with load := p.load.map fun x => if x.ins.uid = uid then { x with got := x.got ++ [(idx, d, po)] } else x }

/-- The panel that runs a load. -/
def loadPanel (b : Body) (uid : Nat) : Option Nat := (b.panel.find? fun p => p.2.load.any (·.ins.uid == uid)).map (·.1)

/-- The panel that runs a far put whose lines are all read. -/
def putPanel (b : Body) (uid : Nat) : Option (Nat × StoreOp) :=
  b.panel.findSome? fun p => (p.2.store.find? fun s => s.ins.uid == uid && decide (s.tok < 16)).map fun s => (p.1, s)

/-- The lines of a returned get: number, data, poison. A refused get's lines come poisoned (R233). -/
def gotList (first n : Nat) (refused : Bool) (d : List (BitVec 8)) (po : List Bool) : List (Nat × List (BitVec 8) × Bool) :=
  (List.range n).map fun i => (first + i, (d.drop (64 * i)).take 64, refused || po.getD i false)

/-- A get has returned: its lines go to the load, or its data to the command's transfer. The flag says whether all was taken. -/
def getReturned (e : Env) (b : Body) (q : OutPkt) (refused : Bool) (d : List (BitVec 8)) (po : List Bool) : Body × Bool :=
  match loadPanel b q.uid with
  | some k =>
    let ls := gotList (q.key / 65536) (q.key % 65536) refused d po
    (ls.foldl (fun b l => mirror (lineGot b k q.uid l.1 (lineOf l.2.1) l.2.2) q.slot 1 q.uid l.1 l.2.1 l.2.2) b, true)
  | none =>
    let (b, ok) := jobRemote e b q.uid q.key refused d po
    if ok then (mirror b q.slot 2 q.uid q.key d refused, true) else (b, false)

/-- A put has completed at its destination: the last packet of a far put counts its token down (R232). -/
def putReturned (e : Env) (b : Body) (q : OutPkt) (refused : Bool) : Body :=
  match putPanel b q.uid with
  | some (k, x) =>
    if b.fab.out.any (·.uid == q.uid) then b
    else mirror (endTransfer e (modPanel b k fun p => p.putStore q.uid none) k x.ins x.tok x.tags) q.slot 4 q.uid 0 [] refused
  | none => mirror (jobRemote e b q.uid q.key refused [] []).1 q.slot 4 q.uid q.key [] refused

/-- A completion acknowledgement arrives. A refusal advances `CTX_FARERR` and is reported to the ledger (R233); one for a handle that
is no longer live is counted as a stale arrival (R51). -/
def completionIn (e : Env) (b : Body) (seq : Nat) (refused : Bool) (d : List (BitVec 8)) (po : List Bool) : Body :=
  match b.fab.out.find? fun q => q.seq == seq && decide (0 < q.sends) && isTransfer q.frame && ackTaken b q.frame with
  | none => b
  | some q =>
    let live := liveHandle e b q.slot q.handle
    let b1 := { b with fab := { b.fab with out := b.fab.out.filter (·.seq != seq), tags := b.fab.tags - frameTags q.frame } }
    let b1 := if live then b1 else { b1 with ctx := { b1.ctx with stale := b1.ctx.stale + 1 } }
    let b1 := if refused && live then
        reportDirty (modCtx b1 q.slot fun c => { c with far := { c.far with farErr := satAdd 0xFFFFFFFF c.far.farErr 1 } }) q.slot
      else b1
    let (b2, ok) := match q.frame with
      | .get _ _ _ _ _ => getReturned e b1 q refused d po
      | _ => (putReturned e b1 q refused, true)
    if ok then sendHeld b2 else b

/-- A packet has no receipt 10 µs after it was sent (R237): it is sent again, on another plane where one carries it, up to eight times
in all, and is held while no port carries it; then its destination is unreachable, which faults the context that issued it. A module asked to be a buddy, or for copies, counts as
absent (R292, R305). -/
def retransmit (e : Env) (b : Body) (seq : Nat) : Body :=
  match b.fab.out.find? fun q => q.seq == seq && !q.receipt && !q.held && decide (0 < q.sends) with
  | none => b
  | some q =>
    if q.sends < 8 then
      sendHeld { b with fab := { b.fab with out := b.fab.out.map fun y => if y.seq = seq then { y with held := true } else y } }
    else
      let b := { b with fab := { b.fab with out := b.fab.out.filter (·.seq != seq), tags := b.fab.tags - frameTags q.frame } }
      let here := if isTransfer q.frame then liveHandle e b q.slot q.handle else (ctxAt b q.slot).id.job == q.job
      match q.frame with
      | .buddyAsk d _ | .mirrorWant d .. => buddyLost e b d
      | _ => if here then raise b (ctxFault q.slot 0x0E 8 ((frameDst q.frame).getD 0)) else b

/-! ### Phase agreement (R240 to R242) -/

/-- A report of a member below arrives; one that reports differ faults the context (R241, R242). -/
def phaseReport (b : Body) (slot : Nat) (r : PhaseRep) (differ : Bool) : Body :=
  if differ then phaseDiffer b slot r.k
  else phaseTry (modCtx b slot fun c => { c with far := { c.far with childReports := c.far.childReports ++ [r] } }) slot r.k

/-- The agreement on (step, `k`) arrives from above, or that reports differ (R241, R242). -/
def phaseAgreement (b : Body) (slot step k : Nat) (set : Option Nat) (differ : Bool) : Body :=
  let c := ctxAt b slot
  if differ then phaseDiffer b slot k
  else if c.led.openStep ≠ some step ∨ !c.far.reached.contains k ∨ c.far.agreed.contains k then b
  else phaseAgreed b slot k set

/-! ### Cumulus (R244 to R247) -/

/-- A contribution arrives for a context of this module. -/
def contributionIn (e : Env) (b : Body) (slot : Nat) (x : ContribIn) : Body :=
  let vals := cumDecode x.p (x.data.length / x.p.inW) x.data x.scales
  cumArrive e b ⟨slot, x.seq, x.rank, x.p, vals, x.poison, x.sigma, x.key⟩

/-- The output chunk of a message. -/
def chunkOut (x : ChunkIn) : CumOut := { data := x.data, scales := x.scales, poison := x.poison, ev := ⟨x.ovf, x.nan, x.unf, x.sat⟩, digest := x.digest }

/-- An output chunk arrives; a leader mirrors it (R340). -/
def chunkIn (e : Env) (b : Body) (slot : Nat) (x : ChunkIn) : Body :=
  mirror (cumChunk e b slot x.seq x.chunk (chunkOut x)) slot 3 x.seq x.chunk x.data (x.poison.any (· == true))

/-! ### Heartbeats (R321, R322) -/

/-- The send set of heartbeats (R321). -/
def heartbeatSet (b : Body) : List Nat :=
  let bud := (b.ctx.slot.filter fun c => c.2.id.st != .free).flatMap fun c => c.2.led.buddies.map (·.unit)
  let con := (b.ctx.slot.filter fun c => c.2.id.st != .free && c.2.con.role != 0).map fun c => c.2.con.peer
  let mem := ((planGroups b).filter (isHead b)).flatMap fun g => (aggDesc b 20 g).members
  ((bud ++ b.fab.partner.map (·.unit) ++ con ++ mem).eraseDups).filter (· != b.fab.addr)

/-- The Contrail role a heartbeat reports: that of the context that has one. -/
def ownRole (b : Body) : Nat := (((b.ctx.slot.filter fun c => c.2.id.st != .free && c.2.con.role != 0).head?).map fun c => c.2.con.role).getD 0

/-- One heartbeat frame to each module of the send set, on one UP port of each plane. -/
def heartbeatSend (e : Env) (b : Body) : Body :=
  if e.tick < b.fab.hbTick + b.kpr.hbPeriod ∨ !clocksRun b then b
  else
    let b' := (heartbeatSet b).foldl (fun x u => (upPlanes b).foldl (fun x q =>
      sendFrame x (.heartbeat u q e.pwrOn b.kpr.pwr.st.code b.fab.outcome (ownRole b))) x) b
    { b' with fab := { b'.fab with hbTick := e.tick, beats := satAdd 255 b.fab.beats 1, watch := fmapVals b.fab.watch fun _ w => { w with fresh := false } } }

/-- Shadowing with a unit ends, at whichever module this is. -/
def endWith (e : Env) (b : Body) (unit code : Nat) : Body :=
  ((b.ctx.slot.filter fun c => c.2.con.active && c.2.con.peer == unit).map (·.1)).foldl (fun b s => endContrail e b s code) b

/-- Is an outcome one that qualifies a head (R25)? -/
def headOutcome (o : Nat) : Bool := o == 1 || o == 2

/-- A heartbeat arrives on a plane with an UP port (R225, Table 12-8). A peer whose outcome is CONFLICT loses a head role (R26). A Contrail
peer in DUSK, or one whose role is NONE, ends shadowing (R342). -/
def heartbeatIn (e : Env) (b : Body) (x : HbIn) : Body :=
  if !(upPlanes b).contains x.plane.val ∨ !clocksRun b then b else
  let w := fget b.fab.watch x.src
  let back := w.used && (w.silent || w.lost.contains x.plane.val)
  let last := if w.used then fset w.last x.plane.val e.tick else [0, 1, 2].foldl (fun m q => fset m q e.tick) w.last
  let w' : Watch := { used := true, lost := w.lost.erase x.plane.val, pwrOn := some x.pwrOn, last := last, power := x.power, outcome := x.outcome,
                      silent := false, fresh := w.fresh || (w.used && headOutcome w.outcome && !headOutcome x.outcome) }
  let b := { b with fab := { b.fab with watch := fset b.fab.watch x.src w' } }
  let b := if back then moduleEvent e b 0x06 0 (b2n (w.pwrOn != some x.pwrOn)) 0 x.src 0 else b
  if x.power = 2 then endWith e b x.src 3 else if x.role = 0 then endWith e b x.src 5 else b

/-- A watched plane has had no heartbeat for `MISS` × `PERIOD` ticks (Table 12-8). -/
def heartbeatMiss (e : Env) (b : Body) (src plane : Nat) : Body :=
  let w := fget b.fab.watch src
  if !w.used ∨ w.lost.contains plane ∨ e.tick < fget w.last plane + b.kpr.hbMiss * b.kpr.hbPeriod then b
  else
    let lost := w.lost ++ [plane]
    let all := decide (lost.length = 3)
    let b := { b with fab := { b.fab with watch := fset b.fab.watch src { w with lost := lost, silent := all, fresh := w.fresh || all } } }
    let b := moduleEvent e b 0x04 0 ((lost.map fun q => 2 ^ q).sum) 0 src 0
    if all then buddyLost e (endWith e (askSettled e (moduleEvent e b 0x05 0 0 0 src 0) (20 * 2 ^ 20 + src)) src 2) src else b

/-! ### Squall (R315, R316) -/

/-- The units a Squall is relayed to: parent and children over the active set, and the shadow of a leader (R316, R342). -/
def relayUnits (b : Body) (slot : Nat) : List Nat :=
  let c := ctxAt b slot
  let tree := match ownPeer b c with
    | none => []
    | some p => (if p = 0 then [] else [(p - 1) / 16]) ++ phaseKids c p
  (tree.filterMap (peerUnit c) ++ (if c.con.role = 1 then [c.con.peer] else [])).eraseDups.filter (· != b.fab.addr)

/-- An ignored frame is counted. -/
def squallIgnored (b : Body) : Body := { b with fab := { b.fab with sqCnt := satAdd 0xFFFFFFFF b.fab.sqCnt 1 } }

/-- A Squall frame arrives on a port that is UP or LISTEN (R225): the pairs of the last 64 frames are remembered (Table 12-7). -/
def squallIn (e : Env) (b : Body) (x : SquallIn) : Body :=
  let st := (fget b.fab.port x.port.val).st
  if (st ≠ 1 ∧ st ≠ 2) ∨ !clocksRun b then b else
  let known := b.fab.squalls.contains (x.origin, x.ohandle)
  let q := b.fab.squalls ++ [(x.origin, x.ohandle)]
  let b := { b with fab := { b.fab with squalls := q.drop (q.length - 64) } }
  if known then squallIgnored b
  else match jobCtx b x.job with
    | none => squallIgnored b
    | some (slot, c) =>
      let b := if c.con.role = 2 then b else
        (relayUnits b slot).foldl (squallTo e · x.job x.origin x.ohandle x.cause x.step true x.pwrOn) b
      let b := if c.con.role = 2 then endContrail e b slot 4 else b
      raise b { ctxFault slot 0x11 8 x.cause with origin := some x.origin }

/-! ### The shadow (R340) -/

/-- Remove what a shadow's transfer still had queued: it is never sent. -/
def shadowUnqueue (b : Body) (p : OutPkt → Bool) : Body := { b with fab := { b.fab with out := b.fab.out.filter fun q => !(q.sends == 0 && p q) } }

/-- What the leader mirrors is written here at the same context address, or completes this module's own transfer. -/
def shadowIn (e : Env) (b : Body) (slot : Nat) (m : ShadowMsg) : Body :=
  if !shadowing b slot then b
  else match m with
    | .put addr d po =>
      match xlate b slot addr d.length true with
      | .ok gs => cmdPut e b (some slot) gs d po none
      | .fault _ => b
    | .got p uid idx d po =>
      let b := lineGot b (physKey p) uid idx (lineOf d) po
      let have_ := ((panelAt b (physKey p)).load.find? (·.ins.uid == uid)).elim [] fun x => x.got.map (·.1)
      shadowUnqueue b fun q => q.uid == uid && (span (q.key / 65536) (q.key % 65536)).all have_.contains
    | .putDone p uid =>
      match (panelAt b (physKey p)).store.find? fun s => s.ins.uid == uid && s.ins.slot == slot && decide (s.tok < 16) with
      | some x => endTransfer e (modPanel (shadowUnqueue b fun q => q.uid == uid) (physKey p) fun p => p.putStore uid none) (physKey p) x.ins x.tok x.tags
      | none => b
    | .piece uid id refused d po =>
      let (b', ok) := jobRemote e b uid id refused d po
      if ok then shadowUnqueue b' fun q => q.uid == uid && q.key == id else b
    | .chunk c => cumChunk e b slot c.seq c.chunk (chunkOut c)

/-! ### The events -/

/-- PACKET_ARRIVAL: the port it came in by (none: from this module itself), its header, its content. -/
def execPacketArrival (port : Option (Fin 6)) (h : PktHdr) (p : InPkt) (s : State) : Out := runCmd (fun e b => packetIn e b port h p) s

/-- RECEIPT_ACK of the packet with a transport sequence number. -/
def execReceiptAck (seq : Nat) (s : State) : Out := runCmd (fun _ b => receiptIn b seq) s

/-- COMPLETION_ACK: whether it carries REFUSED, and a get's data with the poison of its lines. -/
def execCompletionAck (seq : Nat) (refused : Bool) (data : List (BitVec 8)) (poison : List Bool) (s : State) : Out :=
  runCmd (fun e b => completionIn e b seq refused data poison) s

/-- RETRANSMIT_TIMER of a packet. -/
def execRetransmitTimer (seq : Nat) (s : State) : Out := runCmd (fun e b => retransmit e b seq) s

/-- PHASE_REPORT: step, token, peer id of the member below, the set its REDRAW names. -/
def execPhaseReport (at_ : JobVia) (step k peer : Nat) (said : PhaseSays) (s : State) : Out :=
  runCmd (fun _ b => jobArrive b at_.slot.val at_.via isLive fun b => phaseReport b at_.slot.val ⟨step, k, peer, said.set⟩ said.differ) s

/-- PHASE_AGREEMENT. -/
def execPhaseAgreement (at_ : JobVia) (step k : Nat) (said : PhaseSays) (s : State) : Out :=
  runCmd (fun _ b => jobArrive b at_.slot.val at_.via isLive fun b => phaseAgreement b at_.slot.val step k said.set said.differ) s

/-- CUMULUS_CONTRIBUTION. -/
def execCumulusContribution (at_ : JobVia) (x : ContribIn) (s : State) : Out :=
  runCmd (fun e b => jobArrive b at_.slot.val at_.via isLive fun b => contributionIn e b at_.slot.val x) s

/-- CUMULUS_CHUNK. -/
def execCumulusChunk (at_ : JobVia) (x : ChunkIn) (s : State) : Out :=
  runCmd (fun e b => jobArrive b at_.slot.val at_.via isLive fun b => chunkIn e b at_.slot.val x) s

/-- HEARTBEAT_SEND. -/
def execHeartbeatSend (s : State) : Out := runCmd heartbeatSend s

/-- HEARTBEAT_ARRIVAL. -/
def execHeartbeatArrival (x : HbIn) (s : State) : Out := runCmd (fun e b => heartbeatIn e b x) s

/-- HEARTBEAT_MISS: the watched peer and the plane. -/
def execHeartbeatMiss (src : Nat) (plane : Fin 3) (s : State) : Out := runCmd (fun e b => heartbeatMiss e b src plane.val) s

/-- SQUALL_RECEIVE. -/
def execSquallReceive (x : SquallIn) (s : State) : Out := runCmd (fun e b => squallIn e b x) s

/-- SHADOW_MIRROR_LINE. -/
def execShadowMirrorLine (at_ : JobVia) (m : ShadowMsg) (s : State) : Out :=
  runCmd (fun e b => jobArrive b at_.slot.val at_.via isLive fun b => shadowIn e b at_.slot.val m) s

/-- CONTROLLER_ACKNOWLEDGEMENT: the transfer and the piece of it that a memory controller has served. -/
def execControllerAcknowledgement (uid id : Nat) (s : State) : Out := runCmd (fun e b => controllerAck e b uid id) s

end Sys2Proof.Machine
end

