-- ==== Sys2Proof/Machine/Weathervane.lean ====
section
/-! DEFINITION. Weathervane (R360, R361): samples of the quantities of Table 13-10, the prediction of remaining service hours in
exact arithmetic, and the operating hour. -/

namespace Sys2Proof.Machine

/-- The place of a unit among the temperatures kept each hour: C-dies 0 to 3, the H-die 4, stacks from 5. -/
def wvPlace (qty unit : Nat) : Nat :=
  match qty with
  | 0 => min unit 4
  | 1 | 2 => 5 + unit
  | 3 => if unit < 12 then unit / 3 else 4
  | _ => min unit 4

/-- The temperatures now, in that order, in 1/16 °C. -/
def tempsNow (b : Body) : List Int := ((List.range 5).map fun d => fget b.brd.dieTemp d) ++ (List.range 8).map fun s => fget b.brd.stackTemp s

/-- The scaffold group of a unit. -/
def wvGroup (qty unit : Nat) : Nat × Nat :=
  match qty with
  | 0 => (1, unit)
  | 1 | 2 => (3, unit)
  | 3 => if unit < 16 then (6, unit) else (7, unit - 16)
  | _ => (0, 0)

/-- The unit of a quantity in the form of Table 12-19. -/
def wvUnitKey (qty unit : Nat) : Nat :=
  match qty with
  | 0 => 10 * 65536 + unit
  | 1 | 2 => 2 * 65536 + 32 * unit
  | 3 => if unit < 16 then 5 * 65536 + 1024 * unit else 7 * 65536 + (unit - 16)
  | _ => 11 * 65536

/-- The end-of-life threshold in thousandths; link margins are kept as the distance from the threshold of Table 8-17. -/
def wvTheta : Nat → Rat
  | 0 => 15000
  | 1 => 8000
  | 2 => 1500
  | 3 => 0
  | _ => 20

/-- Mean of a list. -/
def meanQ (l : List Rat) : Rat := l.sum / (l.length : Rat)

/-- The samples a prediction uses: the last 2,000 hours, within ±5 °C of the unit's mean of the last 100 hours. -/
def wvSel (w : Weather) (qty unit : Nat) : List WvSample :=
  let ts : List Rat := w.temps.map fun l => (l.getD (wvPlace qty unit) 0 : Rat)
  let near (s : WvSample) : Bool := ts.isEmpty || decide (meanQ ts - 80 ≤ (s.temp : Rat) ∧ (s.temp : Rat) ≤ meanQ ts + 80)
  w.samples.filter fun s => s.qty == qty && s.unit == unit && decide (w.hours ≤ s.hour + 2000) && near s

/-- Least squares over (hour, margin): intercept, slope, and the mean square of the residuals. -/
def leastSquares (l : List WvSample) : Rat × Rat × Rat :=
  let hs : List Rat := l.map fun s => (s.hour : Rat)
  let ms : List Rat := l.map fun s => (s.m : Rat)
  let hm := meanQ hs
  let mm := meanQ ms
  let sxx := (hs.map fun h => (h - hm) * (h - hm)).sum
  let sxy := ((hs.zip ms).map fun x => (x.1 - hm) * (x.2 - mm)).sum
  let sl := if sxx = 0 then 0 else sxy / sxx
  let a := mm - sl * hm
  (a, sl, meanQ ((hs.zip ms).map fun x => (x.2 - a - sl * x.1) * (x.2 - a - sl * x.1)))

/-- The confidence: the greatest code that `k (1 - s / d)` reaches, at most 255; `v` is the square of the spread s, `d` the distance
from the threshold. -/
def wvConfidence (n : Nat) (v d : Rat) (low : Bool) : Nat :=
  let k : Rat := 255 * (n : Rat) / ((n : Rat) + 8)
  let within : Rat → Bool := fun x => decide (v * k * k ≤ d * d * x * x)
  let meets (c : Nat) : Bool :=
    if d < 0 then decide ((c : Rat) ≤ k) || decide (d * d * (c - k) * (c - k) ≤ v * k * k) else decide ((c : Rat) ≤ k) && within (k - c)
  let c := if n = 0 then 0
    else if d = 0 then (if v = 0 then Config.wvConf.toNat else 0)
    else ((List.range 256).filter meets).getLastD 0
  if low then min c 63 else c

/-- The prediction of one unit's quantity: hours, confidence. -/
def wvPredict (w : Weather) (qty unit : Nat) (mLast : Rat) : Nat × Nat :=
  let l := wvSel w qty unit
  let h : Rat := (w.hours : Rat)
  let (a, sl, v) := if 8 ≤ l.length then leastSquares l
    else
      let sl := Config.wvSlope qty unit
      (mLast - sl * h, sl, Config.wvSpread qty unit * Config.wvSpread qty unit)
  let m := a + sl * h
  let r : Rat := if sl < 0 then (m - wvTheta qty) / (-sl) else 1048575
  let hours := (max 0 (min r 1048575)).floor.toNat
  (hours, wvConfidence l.length v (m - wvTheta qty) (decide (w.hours < 500)))

/-- The newest sample of every quantity and unit. -/
def wvNewest (w : Weather) : List WvSample :=
  w.samples.foldl (fun l s => (l.filter fun x => !(x.qty == s.qty && x.unit == s.unit)) ++ [s]) []

/-- The module figure: the least prediction; the lower quantity and unit among equals. -/
def wvFigure (w : Weather) : Weather :=
  let ps := (wvNewest w).map fun s => (wvPredict w s.qty s.unit (s.m : Rat), s)
  let less (x y : (Nat × Nat) × WvSample) : Bool :=
    decide (x.1.1 < y.1.1) || (x.1.1 == y.1.1 && (decide (x.2.qty < y.2.qty) || (x.2.qty == y.2.qty && decide (x.2.unit < y.2.unit))))
  match ps with
  | [] => w
  | x :: xs =>
    let y := xs.foldl (fun m z => if less z m then z else m) x
    { w with life := y.1.1, conf := y.1.2, qty := y.2.qty, unit := wvUnitKey y.2.qty y.2.unit }

/-- Take measurements whose group's scaffold is free (R360), and predict. -/
def wvTake (b : Body) (xs : List WvIn) : Body :=
  let ok (x : WvIn) : Bool := let g := wvGroup x.qty x.unit; (blocker b (grpKey g.1 g.2) 7).isNone
  let w := b.kpr.wv
  let new := (xs.filter ok).map fun x => ({ qty := x.qty, unit := x.unit, hour := w.hours, m := x.m,
                                            temp := (tempsNow b).getD (wvPlace x.qty x.unit) 0 } : WvSample)
  let w := { w with samples := (w.samples ++ new).filter fun s => decide (w.hours ≤ s.hour + 2000) }
  { b with kpr := { b.kpr with wv := wvFigure w } }

/-- Take measurements under a scaffold that is held for them. -/
def wvTakeHeld (b : Body) (xs : List WvIn) : Body :=
  let hs := b.host.holders
  let b := wvTake { b with host := { b.host with holders := [] } } xs
  { b with host := { b.host with holders := hs } }

/-- Does a quantity's unit lie in a group? -/
def wvIn (t i : Nat) (x : WvIn) : Bool := let g := wvGroup x.qty x.unit; t == 0 || g == (t, i)

/-- A whole hour out of HOLD and out of NIGHT has passed (R334, R360, R361): the hour is counted, the temperatures kept, every unit
is classified, and the quantities due are measured: 0 and 4 each hour, 2 every 100 hours. -/
def operatingHour (e : Env) (b : Body) (xs : List WvIn) : Body :=
  if b.kpr.pwr.hold ≠ 0 ∨ b.kpr.pwr.st = .night ∨ b.kpr.pwr.off then b
  else
    let w := b.kpr.wv
    let w := { w with hours := w.hours + 1, temps := (tempsNow b :: w.temps).take 100 }
    let b := { b with kpr := { b.kpr with wv := w } }
    let b := (b.kpr.sums.map (·.1)).foldl (fun b u => classify e b (u / 65536) (u % 65536) false) b
    wvTake b (xs.filter fun x => x.qty == 0 || x.qty == 4 || (x.qty == 2 && w.hours % 100 == 0))

/-- OPERATING_HOUR: the hour ends with these measurements. -/
def execOperatingHour (xs : List WvIn) (s : State) : Out := runCmd (fun e b => operatingHour e b xs) s

end Sys2Proof.Machine
end

