-- ==== Sys2Proof/Machine/Swatch.lean ====
section
/-! DEFINITION. Swatches (R336 to R338): the checks of a package, runs on the spare, in idle windows and on request, and how a run
ends. -/

namespace Sys2Proof.Machine

/-- Does a context own any resource of a panel (Table 2-5)? -/
def panelOwned (p : Panel) : Bool :=
  (p.seq.thr.any fun t => t.2.st != .free) || (p.seq.roller.any fun r => r.2.isSome) || (p.seq.bank.any fun x => x.2.isSome) ||
    p.seq.trowel.isSome || p.seq.skim.isSome || p.seq.mitre.isSome

/-! ### Packages (R336, R337) -/

/-- Length of a package's body: image, data, one digest of 32 bytes for each pattern set. -/
def swBodyLen (d : List (BitVec 8)) : Nat := bytesAt d 52 4 + bytesAt d 56 4 + 32 * bytesAt d 60 4

/-- Do both signatures of a package verify? Without the operator-key fuse none does (R337). -/
def swSigned (b : Body) (d : List (BitVec 8)) : Bool :=
  let n := 128 + swBodyLen d
  b.kpr.fuse.opkey == some (sha384 Config.operatorKey) && decide (n + 192 ≤ d.length) &&
    ecdsa384 Config.swatchKey (sha384 (d.take n)) ((d.drop n).take 96) &&
    ecdsa384 Config.operatorKey (sha384 (d.take (n + 96))) ((d.drop (n + 96)).take 96)

/-- The checks of a package but for its signatures: `MAGIC`, `FORMAT`, the body's digest, the size. -/
def swWhole (d : List (BitVec 8)) : Bool :=
  bytesAt d 0 4 == 0x53575453 && bytesAt d 4 2 == 1 && decide (d.length ≤ 262144) &&
    sha384 ((d.drop 128).take (swBodyLen d)) == (d.drop 64).take 48

/-- Is a package older than an installed one with the same `ID`? -/
def swOld (b : Body) (n : Nat) (d : List (BitVec 8)) : Bool :=
  b.kpr.swatch.any fun s => s.1 != n && s.2.valid && bytesAt s.2.bytes 8 4 == bytesAt d 8 4 && decide (bytesAt d 12 4 < bytesAt s.2.bytes 12 4)

/-! ### Runs (R338) -/

/-- How a run ends, beside BAND_MISS and INVALID: PASS, FAIL with the class and pattern signature of the failing set, ABORT. -/
def swCode : SwOut → Nat
  | .pass => 0
  | .fail _ _ => 1
  | .abort => 3

/-- The operand class and pattern signature of an end. -/
def swSig : SwOut → Nat × Nat
  | .fail c s => (c, s)
  | _ => (0xFF, 0)

/-- A run ends with a result: the scaffold is free, the history and the event log hear of it, a request completes. -/
def swatchEnd (e : Env) (b : Body) (k res : Nat) (sig : Nat × Nat) : Body :=
  match fget b.kpr.running k with
  | none => b
  | some r =>
    let b := releaseWhere b fun h => h.group == grpKey 2 k && h.act == 8
    let b := { b with kpr := { b.kpr with running := fset b.kpr.running k none } }
    let b := modPanel b k fun p => { p with dirtySwatch := if res = 0 then false else if res = 1 then true else p.dirtySwatch }
    let b := if res = 3 then b
      else histAdd e b 0 k (if res = 1 then 0x07 else 0x06) res (some (k / 9)) sig.1 sig.2 (r.slot.getD 0xFFFFFFFF)
    let b := moduleEvent e b 0x0A res (r.slot.getD 16) 0 0 0
    match r.seq with
    | some q => finishSeq b .admin q 0x00 (BitVec.ofNat 32 res)
    | none => b

/-- A run starts on a panel whose scaffold is held: a slot is verified again, and one that fails is marked INVALID and not run. -/
def swatchStart (e : Env) (b : Body) (k : Nat) (slot : Option Nat) (mask : Nat) (seq : Option Nat) : Body :=
  let b := { b with kpr := { b.kpr with running := fset b.kpr.running k (some ⟨slot, mask, seq, e.tick⟩) } }
  match slot with
  | none => b
  | some n =>
    let s := fget b.kpr.swatch n
    if s.valid && swSigned b s.bytes then b
    else swatchEnd e { b with kpr := { b.kpr with swatch := fset b.kpr.swatch n { s with valid := false } } } k 4 (0xFF, 0)

/-- The next slot of a panel that cycles through the installed ones; none with no slot installed. -/
def swatchNext (b : Body) (p : Panel) : Option Nat :=
  let l := (List.range 16).filter fun n => (fget b.kpr.swatch n).valid
  (l.find? fun n => decide (p.swNext ≤ n)).or l.head?

/-- The keeper's own run on a panel, when its scaffold is free and the C-dies run. -/
def swatchOwn (e : Env) (b : Body) (k : Nat) : Body :=
  let p := panelAt b k
  if b.kpr.pwr.st ≠ .clear ∨ (fget b.kpr.running k).isSome ∨ panelOwned p then b
  else match tryGroup b ⟨grpKey 2 k, 8, false, none, 0⟩ with
    | none => b
    | some b =>
      let n := swatchNext b p
      swatchStart e (modPanel b k fun p => { p with swNext := n.elim 0 (· + 1) }) k n 0 none

/-- Has the run on a panel a band that the die has not reached (R338): the package's `TMAX` has passed since the run began, and the die
lies outside some band of the run? -/
def bandMissed (e : Env) (b : Body) (k : Nat) (r : SwRun) : Bool :=
  match r.slot with
  | none => false
  | some n =>
    let d := (fget b.kpr.swatch n).bytes
    let t := fget b.brd.dieTemp (k / 9)
    let lim (o : Nat) : Int := 16 * (BitVec.ofNat 16 (bytesAt d o 2)).toInt
    decide (r.since + 1000 * bytesAt d 18 2 ≤ e.tick) &&
      (List.range (bytesAt d 17 1)).any fun j => (r.mask == 0 || r.mask.testBit j) && (decide (t < lim (20 + 4 * j)) || decide (lim (22 + 4 * j) < t))

/-- A band that the die does not reach within `TMAX` ends the run as BAND_MISS. -/
def swatchBandMiss (e : Env) (b : Body) (k : Nat) : Body :=
  match fget b.kpr.running k with
  | some r => if bandMissed e b k r then swatchEnd e b k 2 (0xFF, 0) else b
  | none => b

/-- The spare, or a panel in STANDBY, starts its next slot (R59, R338). -/
def spareSwatch (e : Env) (b : Body) (k : Nat) : Body :=
  if (panelAt b k).st = .spare ∨ (panelAt b k).st = .standby then swatchOwn e b k else b

/-- An ACTIVE panel that no context has owned for 1,000,000 ticks starts its next slot. -/
def idleSwatch (e : Env) (b : Body) (k : Nat) : Body :=
  if (panelAt b k).st = .active ∧ (panelAt b k).ownedAt + 1000000 ≤ e.tick then swatchOwn e b k else b

/-- Every run of the keeper's own stops with ABORT (R345). -/
def swatchStop (e : Env) (b : Body) (which : Nat → SwRun → Bool) : Body :=
  ((b.kpr.running.filterMap fun x => x.2.bind fun r => if which x.1 r then some x.1 else none)).foldl (fun b k => swatchEnd e b k 3 (0xFF, 0)) b

/-- SPARE_SWATCH. -/
def execSpareSwatch (p : PhysRef) (s : State) : Out := runCmd (fun e b => spareSwatch e b (pkey p.die.val p.pp.val)) s

/-- IDLE_SWATCH. -/
def execIdleSwatch (p : PhysRef) (s : State) : Out := runCmd (fun e b => idleSwatch e b (pkey p.die.val p.pp.val)) s

/-- SWATCH_BAND_MISS. -/
def execSwatchBandMiss (p : PhysRef) (s : State) : Out := runCmd (fun e b => swatchBandMiss e b (pkey p.die.val p.pp.val)) s

/-- SWATCH_RESULT. -/
def execSwatchResult (p : PhysRef) (r : SwOut) (s : State) : Out :=
  runCmd (fun e b => swatchEnd e b (pkey p.die.val p.pp.val) (swCode r) (swSig r)) s

end Sys2Proof.Machine
end

