-- ==== Sys2Proof/Machine/Firmware.lean ====
section
/-! DEFINITION. Firmware slots and their activation (R369 to R371). -/

namespace Sys2Proof.Machine

/-- The slot that is not active. -/
def fwOther (b : Body) : Nat := 1 - b.kpr.fw.active

/-- Does an image pass its checks: `MAGIC`, body digest, signature (R370)? -/
def imageOkFw (d : List (BitVec 8)) : Bool :=
  let n := bytesAt d 16 4
  bytesAt d 0 4 == 0x57464C49 && decide (256 + n ≤ d.length) && sha384 ((d.drop 256).take n) == (d.drop 20).take 48 &&
    ecdsa384 Config.firmwareKey (sha384 (d.take 68)) ((d.drop 68).take 96)

/-- The version ranges of an image: PHY mode, link, transport, collective, ledger (Table 13-16). -/
def imageRanges (d : List (BitVec 8)) : List (Nat × Nat) := (List.range 5).map fun i => (bytesAt d (9 + i) 1 / 16, bytesAt d (9 + i) 1 % 16)

/-- Does a slot's image support the pinned level of a context (R230)? -/
def rangesHold (r : List (Nat × Nat)) (c : CtxId) : Bool :=
  let ok (i v : Nat) : Bool := decide ((r.getD i (15, 0)).1 ≤ v ∧ v ≤ (r.getD i (15, 0)).2)
  c.job == 0 || (ok 2 c.trn && ok 3 c.col && ok 4 c.ldg)

/-- The mailbox status that refuses an activation; 0 when it may be armed (R371). -/
def fwRefusal (b : Body) : Nat :=
  let s := fget b.kpr.fw.slot (fwOther b)
  if !s.valid then 1
  else if b.ctx.slot.any fun c => c.2.id.st != .free && !rangesHold s.ranges c.2.id then 3
  else if b.ctx.slot.any fun c => c.2.con.active then 4
  else 0

/-- Change the firmware state. -/
def modFw (b : Body) (f : FwSt → FwSt) : Body := { b with kpr := { b.kpr with fw := f b.kpr.fw } }

/-- Arm an activation whose module scaffold is held. -/
def fwArm (e : Env) (b : Body) (timeout : Nat) (seq : Option Nat) : Body :=
  modFw b fun f => { f with act := 1, armUntil := some (e.clk.tick + BitVec.ofNat 64 (1000 * timeout)), byScaffold := seq }

/-- An activation ends with a status: the command or the mailbox operation completes, the scaffold is free. -/
def fwEnd (b : Body) (status : Nat) : Body :=
  let q := b.kpr.fw.byScaffold
  let b := releaseWhere b fun h => h.group == grpKey 0 0 && h.act == 9
  let b := modFw b fun f => { f with act := 0, armUntil := none, byScaffold := none }
  match q with
  | some s => finishSeq b .admin s 0x00 (BitVec.ofNat 32 status)
  | none => { b with kpr := { b.kpr with mbox := { b.kpr.mbox with busy := false, status := status } } }

/-- A context-free point (R371). -/
def contextFree (b : Body) : Bool :=
  !(b.ctx.slot.any fun c => c.2.led.openStep.isSome || c.2.led.snap.isSome || !c.2.led.waitingSnaps.isEmpty || !c.2.led.readout.isEmpty ||
      (c.2.ring.any fun r => !r.2.fly.isEmpty)) &&
    !(b.panel.any fun p => p.2.seq.thr.any fun t => t.2.st == .run || t.2.st == .wait || t.2.st == .killing)

/-- The armed activation takes place: the active slot switches, the keeper restarts. -/
def fwPoint (b : Body) : Body :=
  if b.kpr.fw.act ≠ 1 ∨ !contextFree b then b
  else modFw b fun f => { f with act := 2, active := 1 - f.active, bootFail := 0, armUntil := none }

/-- The timeout passes before a context-free point. -/
def fwTimeout (e : Env) (b : Body) : Body :=
  match b.kpr.fw.armUntil with
  | some t => if b.kpr.fw.act = 1 ∧ t.toNat ≤ e.tick then fwEnd b 5 else b
  | none => b

/-- The new image does not reach keeper-ready: the keeper returns to the old one. -/
def fwRevert (b : Body) : Body :=
  if b.kpr.fw.act ≠ 2 then b else fwEnd (modFw b fun f => { f with active := 1 - f.active }) 9

/-- The version ranges of the running image are advertised: end-to-end ranges on every UP port at once (R371). -/
def fwRanges (b : Body) : Body :=
  let r := (fget b.kpr.fw.slot b.kpr.fw.active).ranges
  let g (i : Nat) : Nat × Nat := r.getD i (15, 0)
  let put (m : FMap Nat) (k : Nat) (v : Nat × Nat) : FMap Nat := fset (fset m k v.1) (k + 1) v.2
  let m := put (put (put (put (put b.fab.range 4 (g 0)) 2 (g 1)) 0 (g 2)) 8 (g 3)) 6 (g 4)
  let o (p : Port) (i : Nat) : Nat × Nat := p.other.getD i (15, 0)
  { b with fab := { b.fab with
    range := m
    port := fmapVals b.fab.port fun _ p =>
      if p.st = 1 then { p with trn := common (g 2) (o p 0), col := common (g 3) (o p 1), ldg := common (g 4) (o p 2) } else p } }

/-- The restarted keeper is ready on the new image. -/
def fwReady (b : Body) : Body := if b.kpr.fw.act ≠ 2 then b else sendHeld (fwEnd (fwRanges b) 0)

/-- FW_ACTIVATION_POINT. -/
def execFwActivationPoint (s : State) : Out := runCmd (fun _ b => fwPoint b) s

/-- FW_ACTIVATION_TIMEOUT. -/
def execFwActivationTimeout (s : State) : Out := runCmd fwTimeout s

/-- FW_REVERT. -/
def execFwRevert (s : State) : Out := runCmd (fun _ b => fwRevert b) s

end Sys2Proof.Machine
end

