-- ==== Sys2Proof/Machine/Commands.lean ====
section
/-! DEFINITION. The ring commands by opcode (Table 10-10): queries, the activities of SCAFFOLD (R277, R359), and the command
rows. A command row is the command `w` at the head of ring `r`; opcode and sub-form are the row's. -/

namespace Sys2Proof.Machine

/-! ### QUERY (R276) -/

/-- The length of a result. -/
def queryLen (kind : Nat) : Nat := if kind = 2 then 16384 else 64

/-- QUERY: a group whose head is another module is asked for its descriptor. -/
def doQuery (c : Cmd) (b : Body) : Body :=
  let k := c.at 16 1
  let pre := c.at 20 4
  let adm := decide (c.r = .admin)
  let slot := if adm then none else some c.slot
  let n := queryLen k
  let dst := if adm then Xlate.ok [⟨true, c.at 24 8, n⟩]
    else if vaOk (c.at 24 8) n then xlate b c.slot (c.at 24 8) n true else .fault 0x09
  let key := fld pre 28 24 * 2 ^ 20 + fld pre 19 0
  if 2 < k ∨ (k = 2 ∧ !adm) ∨ fld pre 31 29 ≠ 0 ∨ fld pre 23 20 ≠ 0 ∨ (k = 1 ∧ !(planGroups b).contains key) then invalid b c
  else match dst with
    | .fault _ => finish b c 0x0A 0
    | .ok gs =>
      match k with
      | 0 => cmdPut c.e b slot gs (descBytes (ownDesc b)) false (some (c.r, c.seq))
      | 1 =>
        let q : QueryWait := ⟨c.r, c.seq, key, slot, gs, c.e.tick⟩
        let b := { b with host := { b.host with queries := b.host.queries ++ [q] } }
        if answersFor b key then headAnswer c.e b key none else sendUp b (.query (key / 2 ^ 20) (key % 2 ^ 20))
      | _ => cmdPut c.e b slot gs ((List.range 4096).flatMap fun s => le 4 (handleOf c.e b s)) false (some (c.r, c.seq))

/-- QUERY. -/
def querySpec : CmdSpec := ⟨3, [(16, 8), (20, 32), (24, 64)], doQuery⟩

/-! ### Scaffold activities (R277, R357 to R359) -/

/-- Are all contexts FREE? -/
def allFree (b : Body) : Bool := (liveSlots b).isEmpty

/-- Is the group or argument of a RUN outside Table 13-9? -/
def runBad (b : Body) (act t i : Nat) (arg : Nat) : Bool :=
  !actAccepts act t i ||
    match act with
    | 1 => arg != 0 || (if t = 0 then !allFree b else panelOwned (panelAt b i))
    | 4 => decide (1 < arg)
    | 6 => arg != 0 || (t == 6 && !allFree b)
    | 8 => arg &&& 0xFF0F != arg
    | 9 => decide (65535 < arg)
    | _ => arg != 0

/-- Does a LIVE context map a page of a die window? -/
def windowMapped (b : Body) (d : Nat) : Bool := liveMaps b fun p => decide (p < 2 ^ 19) && p / 2 ^ 17 == d

/-- Is the activity refused with IN_USE? -/
def runInUse (b : Body) (act t i : Nat) : Bool :=
  match act with
  | 4 => b.ctx.slot.any fun c => !c.2.led.regions.isEmpty
  | 5 => windowMapped b (i / 2)
  | 6 =>
    if t = 8 then windowMapped b i && ((List.range 32).any fun ch => chState b (2 * i) ch == 2 || chState b (2 * i + 1) ch == 2)
    else t == 4 && liveMaps b fun p => decide (2 ^ 19 ≤ p)
  | 8 => panelOwned (panelAt b i)
  | _ => false

/-- A die-to-die port goes out of service, with its other end. -/
def d2dUp (b : Body) (n : Nat) (up : Bool) : Body :=
  let set (m : FMap D2d) (k : Nat) : FMap D2d := fmod m k fun x => { x with up := up, cause := if up then 0 else x.cause }
  { b with mem := { b.mem with d2d := set (set b.mem.d2d n) (otherEnd n) } }

/-- What happens at the start of an activity whose group has been taken. -/
def runBegin (c : Cmd) (b : Body) (act t i arg : Nat) : Body :=
  match act with
  | 6 => if t = 7 then portDown b i 0x0 else if t = 6 then d2dUp b i false else b
  | 8 => swatchStart c.e b i (some (arg % 16)) (arg / 256) (some c.seq)
  | 9 =>
    let r := fwRefusal b
    if r = 0 then fwArm c.e b arg (some c.seq)
    else finish (releaseWhere b fun h => h.seq == some c.seq && h.act == 9) c 0x00 (BitVec.ofNat 32 r)
  | _ => b

/-- RUN: checks, then the scaffold is held until the activity ends (R277). -/
def doRun (c : Cmd) (b : Body) : Body :=
  let act := c.at 17 1
  let t := c.at 18 1
  let i := c.at 19 1
  let arg := c.at 24 8
  if act = 3 ∨ runBad b act t i arg then invalid b c
  else if runInUse b act t i then finish b c 0x17 0
  else match scafBusy b c (grpKey t i) act with
    | some b => b
    | none => runBegin c (takeGroup b ⟨grpKey t i, act, true, some c.seq, BitVec.ofNat 64 arg⟩) act t i arg

/-- SCAFFOLD by its operation. -/
def doScaffold (c : Cmd) (b : Body) : Body :=
  if scafOff b then finish b c 0x16 0
  else match c.at 16 1 with
  | 0 => doRun c b
  | 1 => doAcquire c b
  | 2 => doRelease c b
  | _ => invalid b c

/-- SCAFFOLD. -/
def scafSpec : CmdSpec := ⟨2, scafFields, doScaffold⟩

/-- Undercoat copies the chunks of one generation over the other on a stack: how many. -/
def undercoatCopy (b : Body) (s from_ : Nat) : Nat × Body :=
  let part (g : GenRec) : List GenChunk := g.chunks.filter (·.stack == s)
  let cp (l : Ledger) : Ledger :=
    let src := part (fget l.gens from_)
    if src.isEmpty then l
    else { l with gens := fmod l.gens (1 - from_) fun g => { g with chunks := g.chunks.filter (·.stack != s) ++ src, chs := fset g.chs s (fget (fget l.gens from_).chs s) } }
  ((b.ctx.slot.map fun c => (part (fget c.2.led.gens from_)).length).sum,
    { b with ctx := { b.ctx with slot := fmapVals b.ctx.slot fun _ c => { c with led := cp c.led } } })

/-- A built-in test ends: its history entries; a module test that passes makes soft repairs hard (R204, R352). -/
def testDone (e : Env) (b : Body) (t i : Nat) (out : RunOut) : Body :=
  let fails := if out.ok then [] else if t = 2 then [i] else out.units
  let b := fails.foldl (fun b u => histAdd e b 0 u 0x0C 0 (some (u / 9)) 0xFF 0 0) b
  if !out.ok then b
  else if t = 2 then histAdd e b 0 i 0x0D 0 (some (i / 9)) 0xFF 0 0
  else (List.range 8).foldl (fun b s => (hardenStack e b s).2) (histAdd e b 11 0 0x0D 0 none 0xFF 0 0)

/-- The effect of an activity at its end, and its `RESULT`. A die-to-die port that did not train for want of time has cause TIMEOUT;
one that misses full width leads to HOLD (R14), which the command's row carries out. -/
def runEffect (e : Env) (b : Body) (act t i : Nat) (arg : BitVec 64) (out : RunOut) : Nat × Body :=
  let fail := b2n (!out.ok)
  match act with
  | 1 => (fail, testDone e b t i out)
  | 2 => ((out.lines.filter (·.ue)).length, scrubErrors e none t i out.lines b)
  | 4 => undercoatCopy b i (arg.toNat % 2)
  | 5 => hardenStack e b i
  | 6 =>
    match t with
    | 8 => (fail, retrainWindow e b i out.units out.lanes)
    | 4 => (fail, retrainTierB e b out.units)
    | 6 =>
      let t : LinkTrain := ⟨Fin.ofNat 16 i, out.lanes.map (Fin.ofNat 544), if out.ok then 0 else 3⟩
      (b2n (linkBad b t), trainLinks e b [i, otherEnd i] [t])
    | _ => (fail, b)
  | 7 =>
    let b := wvTakeHeld b (out.samples.filter (wvIn t i))
    (b.kpr.wv.life, b)
  | _ => (fail, b)

/-- An activity of SCAFFOLD RUN ends: its effect, its record, its scaffold. Swatch runs and activations end by events of their own. -/
def runDone (e : Env) (b : Body) (h : Holder) (out : RunOut) : Body :=
  match h.seq with
  | none => b
  | some q =>
    if h.act = 3 ∨ h.act = 8 ∨ h.act = 9 then b
    else
      let (res, b) := runEffect e b h.act (h.group / 65536) (h.group % 65536) h.arg out
      finishSeq (releaseWhere b fun x => x.seq == some q && x.act == h.act) .admin q 0x00 (BitVec.ofNat 32 res)

/-! ### Opcodes (Table 10-10) -/

/-- Every other opcode completes with INVALID. -/
def otherSpec : CmdSpec := ⟨3, [(16, 384)], fun c b => invalid b c⟩

/-- The command of an opcode. -/
def specOf (opc : Nat) : CmdSpec :=
  match opc with
  | 0x01 => nopSpec
  | 0x02 => eventSpec
  | 0x03 => fenceSpec
  | 0x04 => copySpec
  | 0x05 => progSpec
  | 0x06 => launchSpec
  | 0x07 => gatherSpec
  | 0x08 => scatterSpec
  | 0x09 => reduceSpec
  | 0x0A => routeSpec
  | 0x0B => redrawSpec
  | 0x0C => tagSpec
  | 0x10 => openSpec
  | 0x11 => closeSpec
  | 0x12 => declareSpec
  | 0x1F => querySpec
  | 0x20 => createSpec
  | 0x21 => destroySpec
  | 0x22 => resetSpec
  | 0x23 => resumeSpec
  | 0x24 => mapSpec
  | 0x25 => unmapSpec
  | 0x26 => scafSpec
  | 0x28 => buddySpec
  | 0x29 => rollSpec
  | 0x2A => restoreSpec
  | 0x2B => readoutSpec
  | _ => otherSpec

/-! ### The command rows -/

/-- NOP: the command completes at its start. -/
def execNopCmd (r : RingRef) (w : BitVec 512) (s : State) : Out := runCmd (startRow 0x01 nopSpec r w) s

/-- EVENT_SET: the command sets the masked events (R271). -/
def execEventSet (r : RingRef) (w : BitVec 512) (s : State) : Out := runCmd (startRow 0x02 eventSpec r (putBits w 128 8 0)) s

/-- EVENT_CLEAR: the command clears the masked events (R271). -/
def execEventClear (r : RingRef) (w : BitVec 512) (s : State) : Out := runCmd (startRow 0x02 eventSpec r (putBits w 128 8 1)) s

/-- FENCE: the command waits for every earlier command of its context. -/
def execFence (r : RingRef) (w : BitVec 512) (s : State) : Out := runCmd (startRow 0x03 fenceSpec r w) s

/-- COPY: the command copies a range between context addresses (R274). -/
def execCopy (r : RingRef) (w : BitVec 512) (s : State) : Out := runCmd (startRow 0x04 copySpec r w) s

/-- PROG_LOAD: the command checks a program image and sets the chain registers (R92, R142). -/
def execProgLoad (r : RingRef) (w : BitVec 512) (s : State) : Out := runCmd (startRow 0x05 progSpec r w) s

/-- LAUNCH: the command assigns a thread set to a panel (R273). -/
def execLaunch (r : RingRef) (w : BitVec 512) (s : State) : Out := runCmd (startRow 0x06 launchSpec r w) s

/-- GATHER: the command reads shards of the participants, class NONE (R275). -/
def execGather (r : RingRef) (w : BitVec 512) (s : State) : Out := runCmd (startRow 0x07 gatherSpec r (putBits w 128 2 0)) s

/-- GATHER_RETAIN: the command also retains the tensor in the pool (R177). -/
def execGatherRetain (r : RingRef) (w : BitVec 512) (s : State) : Out := runCmd (startRow 0x07 gatherSpec r (putBits w 128 2 1)) s

/-- GATHER_REUSE: the command uses the retained tensor, or gathers again (R177). -/
def execGatherReuse (r : RingRef) (w : BitVec 512) (s : State) : Out := runCmd (startRow 0x07 gatherSpec r (putBits w 128 2 2)) s

/-- RETAIN_FREE: the command frees a retention slot (R177). -/
def execRetainFree (r : RingRef) (w : BitVec 512) (s : State) : Out := runCmd (startRow 0x07 gatherSpec r (putBits w 128 2 3)) s

/-- SCATTER: the command writes local shards to the participants (R275). -/
def execScatter (r : RingRef) (w : BitVec 512) (s : State) : Out := runCmd (startRow 0x08 scatterSpec r w) s

/-- ALLREDUCE: the command reduces a tensor; every participant receives every chunk (R244). -/
def execAllreduce (r : RingRef) (w : BitVec 512) (s : State) : Out := runCmd (startRow 0x09 reduceSpec r (putBits w 128 1 0)) s

/-- REDUCE_SCATTER: the command reduces a tensor; each participant keeps its chunk (R244). -/
def execReduceScatter (r : RingRef) (w : BitVec 512) (s : State) : Out := runCmd (startRow 0x09 reduceSpec r (putBits w 128 1 1)) s

/-- ROUTE_LOAD: the command copies a route set into the route store (R239). -/
def execRouteLoad (r : RingRef) (w : BitVec 512) (s : State) : Out := runCmd (startRow 0x0A routeSpec r w) s

/-- REDRAW: the command makes a route set pending for a phase token (R241). -/
def execRedraw (r : RingRef) (w : BitVec 512) (s : State) : Out := runCmd (startRow 0x0B redrawSpec r w) s

/-- TAG_RELEASE: the command frees every retention slot that bears a tag (R178). -/
def execTagRelease (r : RingRef) (w : BitVec 512) (s : State) : Out := runCmd (startRow 0x0C tagSpec r w) s

/-- STEP_OPEN: the command opens a step (R281). -/
def execStepOpen (r : RingRef) (w : BitVec 512) (s : State) : Out := runCmd (startRow 0x10 openSpec r w) s

/-- STEP_CLOSE: the command closes the open step once its work is complete (R283). -/
def execStepClose (r : RingRef) (w : BitVec 512) (s : State) : Out := runCmd (startRow 0x11 closeSpec r w) s

/-- STATE_DECLARE_ADD: the command adds a state region (R284). -/
def execStateDeclareAdd (r : RingRef) (w : BitVec 512) (s : State) : Out := runCmd (startRow 0x12 declareSpec r (putBits w 128 8 0)) s

/-- STATE_DECLARE_REMOVE: the command removes a state region at the next close (R284). -/
def execStateDeclareRemove (r : RingRef) (w : BitVec 512) (s : State) : Out := runCmd (startRow 0x12 declareSpec r (putBits w 128 8 1)) s

/-- QUERY_DESCRIPTOR: the command writes this module's descriptor (R276). -/
def execQueryDescriptor (r : RingRef) (w : BitVec 512) (s : State) : Out := runCmd (startRow 0x1F querySpec r (putBits w 128 8 0)) s

/-- QUERY_GROUP: the command obtains a group's descriptor from its head (R276). -/
def execQueryGroup (r : RingRef) (w : BitVec 512) (s : State) : Out := runCmd (startRow 0x1F querySpec r (putBits w 128 8 1)) s

/-- QUERY_HANDLES: the command writes the handles of all slots (R276). -/
def execQueryHandles (r : RingRef) (w : BitVec 512) (s : State) : Out := runCmd (startRow 0x1F querySpec r (putBits w 128 8 2)) s

/-- CTX_CREATE: the command creates a context (R269). -/
def execCtxCreate (r : RingRef) (w : BitVec 512) (s : State) : Out := runCmd (startRow 0x20 createSpec r w) s

/-- CTX_DESTROY: the command frees a context's slot (R412). -/
def execCtxDestroy (r : RingRef) (w : BitVec 512) (s : State) : Out := runCmd (startRow 0x21 destroySpec r w) s

/-- CTX_RESET: the command resets a context with cause HOST_RESET (R261). -/
def execCtxReset (r : RingRef) (w : BitVec 512) (s : State) : Out := runCmd (startRow 0x22 resetSpec r w) s

/-- CTX_RESUME: the command makes a HALTED context LIVE (R302). -/
def execCtxResume (r : RingRef) (w : BitVec 512) (s : State) : Out := runCmd (startRow 0x23 resumeSpec r w) s

/-- MEM_MAP: the command maps context pages (R272). -/
def execMemMap (r : RingRef) (w : BitVec 512) (s : State) : Out := runCmd (startRow 0x24 mapSpec r w) s

/-- MEM_UNMAP: the command unmaps context pages (R265). -/
def execMemUnmap (r : RingRef) (w : BitVec 512) (s : State) : Out := runCmd (startRow 0x25 unmapSpec r w) s

/-- SCAFFOLD_ACQUIRE: the command takes a group for margining (R277). -/
def execScaffoldAcquire (r : RingRef) (w : BitVec 512) (s : State) : Out := runCmd (startRow 0x26 scafSpec r (putBits w 128 8 1)) s

/-- SCAFFOLD_RELEASE: the command releases a group held for margining (R277). -/
def execScaffoldRelease (r : RingRef) (w : BitVec 512) (s : State) : Out := runCmd (startRow 0x26 scafSpec r (putBits w 128 8 2)) s

/-- BUILT_IN_TEST: the command runs the built-in test of the module or of a panel (R359). -/
def execBuiltInTest (r : RingRef) (w : BitVec 512) (s : State) : Out := runCmd (startRow 0x26 scafSpec r (putBits (putBits w 128 8 0) 136 8 1)) s

/-- SCRUB: the command scrubs a stack, Tier B or a stratum (R359). -/
def execScrub (r : RingRef) (w : BitVec 512) (s : State) : Out := runCmd (startRow 0x26 scafSpec r (putBits (putBits w 128 8 0) 136 8 2)) s

/-- UNDERCOAT_COPY: the command copies one generation to the other on a stack (R359). -/
def execUndercoatCopy (r : RingRef) (w : BitVec 512) (s : State) : Out := runCmd (startRow 0x26 scafSpec r (putBits (putBits w 128 8 0) 136 8 4)) s

/-- POST_PACKAGE_REPAIR: the command makes a stack's soft repairs hard (R359). -/
def execPostPackageRepair (r : RingRef) (w : BitVec 512) (s : State) : Out := runCmd (startRow 0x26 scafSpec r (putBits (putBits w 128 8 0) 136 8 5)) s

/-- RETRAIN: the command retrains a die window, Tier B or a port (R209, R210). -/
def execRetrain (r : RingRef) (w : BitVec 512) (s : State) : Out := runCmd (startRow 0x26 scafSpec r (putBits (putBits w 128 8 0) 136 8 6)) s

/-- WEATHERVANE_MEASUREMENT: the command takes a measurement (R360). -/
def execWeathervaneMeasurement (r : RingRef) (w : BitVec 512) (s : State) : Out := runCmd (startRow 0x26 scafSpec r (putBits (putBits w 128 8 0) 136 8 7)) s

/-- SWATCH_RUN: the command runs one swatch slot on a physical panel (R338). -/
def execSwatchRun (r : RingRef) (w : BitVec 512) (s : State) : Out := runCmd (startRow 0x26 scafSpec r (putBits (putBits w 128 8 0) 136 8 8)) s

/-- FIRMWARE_ACTIVATION: the command arms the activation of the inactive image (R371). -/
def execFirmwareActivation (r : RingRef) (w : BitVec 512) (s : State) : Out := runCmd (startRow 0x26 scafSpec r (putBits (putBits w 128 8 0) 136 8 9)) s

/-- BUDDY_SET: the command names the buddies of a context (R292). -/
def execBuddySet (r : RingRef) (w : BitVec 512) (s : State) : Out := runCmd (startRow 0x28 buddySpec r w) s

/-- ROLLBACK: the command returns a HALTED context to a sealed step (R301). -/
def execRollback (r : RingRef) (w : BitVec 512) (s : State) : Out := runCmd (startRow 0x29 rollSpec r w) s

/-- RESTORE_LOCAL: the command restores from a local generation (R303). -/
def execRestoreLocal (r : RingRef) (w : BitVec 512) (s : State) : Out := runCmd (startRow 0x2A restoreSpec r (putBits w 128 8 0)) s

/-- RESTORE_BUDDY: the command restores from a buddy's copy (R303). -/
def execRestoreBuddy (r : RingRef) (w : BitVec 512) (s : State) : Out := runCmd (startRow 0x2A restoreSpec r (putBits w 128 8 1)) s

/-- RESTORE_HOST: the command restores from a host stream (R303). -/
def execRestoreHost (r : RingRef) (w : BitVec 512) (s : State) : Out := runCmd (startRow 0x2A restoreSpec r (putBits w 128 8 2)) s

/-- READOUT: the command streams a sealed generation to host memory (R308). -/
def execReadout (r : RingRef) (w : BitVec 512) (s : State) : Out := runCmd (startRow 0x2B readoutSpec r w) s

end Sys2Proof.Machine
end

