-- ==== Sys2Proof/Machine/Host.lean ====
section
/-! DEFINITION. The host interface (spec 10): doorbells, the start and completion of ring commands, launches that end, replays
that end, interrupt moderation, the admin ring's enable, and the function-level reset. -/

namespace Sys2Proof.Machine

/-! ### Doorbells (R257) -/

/-- A discarded doorbell is counted. -/
def doorbellDrop (b : Body) : Body := { b with host := { b.host with dbDrop := satAdd 0xFFFFFFFF b.host.dbDrop 1 } }

/-- Every ring's next command is held against the events that the H-die sees now (R413). -/
def latchAll (e : Env) (b : Body) : Body := (b.ctx.slot.map (·.1)).foldl (fun b s => latchWev s e.cyc b) b

/-- A write of BAR2: page, offset, length in bytes, data. Pages above the admin doorbell are reserved. -/
def doorbell (e : Env) (b : Body) (page off len : Nat) (v : BitVec 64) : Body :=
  let x := v.toNat
  let tail := fld x 15 0
  if 4096 < page then b
  else if off ≠ 0 ∨ len ≠ 8 then doorbellDrop b
  else if page = 4096 then
    if !b.host.ar.en ∨ 2 ^ b.host.ar.logn ≤ tail ∨ fld x 63 16 ≠ 0 then doorbellDrop b
    else latchAll e (modRing b .admin fun r => { r with tail := tail })
  else
    let r := ctxRing page (fld x 31 30)
    let g := ringAt b r
    if fld x 63 32 ≠ handleOf e b page ∨ (ctxAt b page).id.st ≠ .live ∨ (ctxAt b page).id.resetting ∨ !g.present ∨
        2 ^ g.logn ≤ tail ∨ fld x 29 16 ≠ 0 then doorbellDrop b
    else latchWev page e.cyc (modRing b r fun y => { y with tail := tail })

/-- DOORBELL: a write to BAR2. -/
def execDoorbell (page : Fin 8192) (off : Fin 4096) (len : Nat) (v : BitVec 64) (s : State) : Out :=
  runCmd (fun e b => doorbell e b page.val off.val len v) s

/-! ### Starts (R266, R302) -/

/-- The start of the next command of a ring: the logged one in a replay, else the one at the head. -/
def commandStart (r : RingRef) (e : Env) (b : Body) : Body :=
  let fetched (b : Body) : Body :=
    let x := ringAt b r
    if x.head = x.tail ∨ !b.host.master then b
    else
      let w := BitVec.ofNat 512 (bytesVal (hostRead b (x.cmdBase + 64 * x.head) 64))
      let k := specOf (hdrField w 0 7 0)
      startCommand e b r w k.adm k.fs k.act
  match r with
  | .admin => fetched b
  | .ctx s n =>
    if replaying b s.val then
      match (ctxAt b s.val).led.replayQ.find? fun y => y.ring == n.val with
      | none => b
      | some y => let k := specOf (y.w.toNat % 256); replayCommand e b s.val n.val k.adm k.fs k.act
    else fetched b

/-- COMMAND_START. -/
def execCommandStart (r : RingRef) (s : State) : Out := runCmd (commandStart r) s

/-! ### Completions (R267, Table 10-10) -/

/-- A Plumb step-progress interval starts (R319). -/
def plumbStart (e : Env) (b : Body) (slot : Nat) : Body :=
  modCtx b slot fun c => { c with plumb := { startTick := if c.set.stepLim = 0 then none else some e.clk.tick, limit := c.set.stepLim * 1000 } }

/-- What a command that has not yet finished needs to finish, by its opcode: nothing changes while its condition does not hold. -/
def settleFlight (e : Env) (b : Body) (r : RingRef) (f : Flight) (out : RunOut) : Body :=
  let slot := (ringSlot r).getD (f.cev / 64)
  let c := ctxAt b slot
  let ok (b : Body) : Body := finishSeq b r f.seq 0x00 0
  match f.opc with
  | 0x03 => if (ctxRings slot).all fun q => (ringAt b q).fly.all fun g => decide (f.seq ≤ g.seq) then ok b else b
  | 0x07 =>
    match b.host.reuse.find? (·.seq == f.seq) with
    | none => b
    | some x =>
      let m : Cmd := ⟨e, r, slot, x.w, f.seq⟩
      if (fget c.ret.slot (moveOf m).rslot).st = .pending then b
      else doGather m { b with host := { b.host with reuse := b.host.reuse.filter (·.seq != f.seq) } }
  | 0x09 =>
    match b.fab.red.find? (·.fly == f.seq) with
    | none => b
    | some x =>
      if !x.complete then b
      else finishSeq (reduceEnd b x) r f.seq (if x.poisoned = 0 then 0x00 else 0x1D) (BitVec.ofNat 32 x.poisoned)
  | 0x0B => match c.far.pend with
    | some p => if p.2.2 = f.seq then b else ok b
    | none => ok b
  | 0x10 => if c.led.step.all fun s => s.2.openSeq != some f.seq || s.2.rbAcks.isEmpty then plumbStart e (ok b) slot else b
  | 0x11 =>
    match c.led.waits.find? (·.seq == f.seq) with
    | none => b
    | some w => if closeReady b slot w.step then plumbStart e (ok (closeStep b slot w.step)) slot else b
  | 0x1F =>
    match b.host.queries.find? (·.seq == f.seq) with
    | none => b
    | some q =>
      if e.tick < q.tick + 1000 then b
      else finishSeq { b with host := { b.host with queries := b.host.queries.filter (·.seq != f.seq) } } r f.seq 0x1F 0
  | 0x23 =>
    let b := exchangeNow e b slot
    let a := (ctxAt b slot).led.adj
    if !a.exchange.isEmpty then b
    else
      let b := ok (resumeNow e b slot)
      if a.run = 3 ∧ a.outcome = 6 then raise b (ctxFault slot 0x04 10 0) else b
  | 0x25 =>
    match b.host.unmaps.find? (·.seq == f.seq) with
    | none => b
    | some u => if unmapReady b u then ok { b with host := { b.host with unmaps := b.host.unmaps.filter (·.seq != f.seq) } } else b
  | 0x26 => match b.host.holders.find? fun h => h.seq == some f.seq with
    | some h => runDone e b h out
    | none => b
  | 0x28 => buddySettle b slot
  | 0x29 | 0x2A => restoreTry e b slot
  | 0x2B => match c.led.readout.find? (·.seq == f.seq) with
    | some x => if b.host.master then ok (readoutWrite b slot x) else b
    | none => b
  | _ => b

/-- A command completes: its record is written once it has reached its completion point; in a stopped module none does (R24). -/
def commandCompletion (e : Env) (b : Body) (r : RingRef) (seq : Nat) (out : RunOut) : Body :=
  if b.kpr.pwr.stopped then b else
  match (ringAt b r).fly.find? (·.seq == seq) with
  | none => b
  | some f =>
    let b := if f.done.isSome then b else settleFlight e b r f out
    match (ringAt b r).fly.find? (·.seq == seq) with
    | some f => completeFlight e b r f 0
    | none => b

/-- LAUNCH_DONE: the launch with a command number. -/
def execLaunchDone (slot : Fin 4096) (seq : Nat) (s : State) : Out :=
  runCmd (fun e b => match (ctxAt b slot.val).launch.find? fun l => l.fly.seq == seq with
    | some l => launchDone e b slot.val l
    | none => b) s

/-- The last logged command of a replay has started: one record for each ring (R302). A shadow's stream goes on (R340). -/
def replayEnd (e : Env) (b : Body) (slot : Nat) : Body :=
  let l := (ctxAt b slot).led
  if !replaying b slot ∨ !l.replayQ.isEmpty ∨ shadowing b slot then b
  else
    let b := (ctxRings slot).foldl (fun b r =>
      if (ringAt b r).present then writeRecord e b r 0 0x00 0xFFFF (BitVec.ofNat 32 (fget l.replayCnt (ringNum r))) 0 true else b) b
    modLed b slot fun l => { l with replay := none }

/-- REPLAY_END. -/
def execReplayEnd (slot : Fin 4096) (s : State) : Out := runCmd (fun e b => replayEnd e b slot.val) s

/-! ### Interrupt moderation and the admin ring (R268) -/

/-- `MODTICK` ticks have passed since the first record that has not raised the ring's vector. -/
def moderation (e : Env) (b : Body) (r : RingRef) : Body :=
  let x := ringAt b r
  if x.irqCnt = 0 ∨ x.modTick = 0 ∨ e.tick < x.irqTick + x.modTick then b
  else raiseVector (modRing b r fun y => { y with irqCnt := 0 }) x.vec

/-- INTERRUPT_MODERATION_TIMER. -/
def execInterruptModerationTimer (slot : Fin 4096) (r : Fin 4) (s : State) : Out := runCmd (fun e b => moderation e b (.ctx slot r)) s

/-- A write of `HST_ARCTL` (Table 10-7, R268): `LOG2N` is written whatever `EN` is; a write of `EN` = 1 with a value outside 4 to 12
leaves `EN` at 0. While a start runs, `EN` stays 0 (R351). The host that enables the admin ring has set Bus Master Enable before, by a
configuration write that is no command of this model (R255; DESIGN CHOICE, log entry 81). -/
def arctlWrite (b : Body) (v : Nat) : Body :=
  let a := b.host.ar
  let k := fld v 19 16
  let set (a : AdminRing) : Body := { b with host := { b.host with ar := a } }
  if fld v 31 31 = 1 ∧ 4 ≤ k ∧ k ≤ 12 ∧ b.kpr.start.phase = 0 then
    if a.en then set { a with logn := k }
    else
      let a := { a with en := true, logn := k, ring := { a.ring with head := 0, tail := 0, cplIdx := 0, cplPhase := true } }
      sendPending { b with host := { b.host with master := true, ar := a } }
  else set { a with en := false, logn := k }

/-! ### Function-level reset (R278) -/

/-- A margin run in progress reads ABORTED; its channel is back in service (Table 8-18). -/
def marginAbort (b : Body) : Body :=
  let m := b.mem.mrg
  let b := { b with mem := { b.mem with mrg := if m.busy then { m with busy := false, status := 2, run := none } else m } }
  match m.busy, m.run with
  | true, some (0, u) => chanBack b (u / 32) (u % 32)
  | _, _ => b

/-- Every activity a host request has started stops, and every scaffold it holds is free. -/
def hostRelease (e : Env) (b : Body) : Body :=
  let b := swatchStop e b fun _ r => r.seq.isSome
  let b := if b.mem.mrg.busy then marginAbort b else b
  let b := if b.kpr.fw.act = 1 then fwEnd b 4 else b
  releaseWhere b (·.host)

/-- A function-level reset: the contexts, the admin ring, the PCIe configuration and the MSI-X state (R278, Table 13-5). -/
def functionReset (e : Env) (b : Body) : Body :=
  let b := hostRelease e (destroyAll e b 0x13)
  { b with dir := { b.dir with badAcc := 0 }
           host := { b.host with master := false, ar := default, dbDrop := 0, vectors := [], vtable := [], vpend := [], queries := []
                                 results := [], reuse := [], unmaps := [] } }

/-- FUNCTION_LEVEL_RESET. -/
def execFunctionLevelReset (s : State) : Out := runCmd functionReset s

end Sys2Proof.Machine
end

