-- ==== Sys2Proof/Machine/Maint.lean ====
section
/-! DEFINITION. Memory maintenance as events (spec 08): Sander, channel retrains and failures, Tier B packages, temperatures,
margin runs, initialisation. -/

namespace Sys2Proof.Machine

/-- SANDER_SEGMENT: the next segment, and the lines found in error there (R202). -/
def execSanderSegment (found : List ErrLine) (s : State) : Out := runCmd (fun e b => sanderSegment e b found) s

/-- CHANNEL_RETRAIN: a controller's condition holds for a channel (R208). -/
def execChannelRetrain (stack : Fin 8) (ch : Fin 32) (s : State) : Out := runCmd (fun e b => channelRetrain e b stack.val ch.val) s

/-- A refused controller checks again once 1,000,000 ticks have passed (R208). -/
def channelRetry (e : Env) (b : Body) (s ch : Nat) : Body :=
  let t := fget (fget b.mem.stack s).retryAt ch
  if t = 0 ∨ e.tick < t then b else channelRetrain e b s ch

/-- CHANNEL_RETRAIN_RETRY. -/
def execChannelRetrainRetry (stack : Fin 8) (ch : Fin 32) (s : State) : Out := runCmd (fun e b => channelRetry e b stack.val ch.val) s

/-- CHANNEL_RETRAIN_DONE: whether training passed (R207). -/
def execChannelRetrainDone (stack : Fin 8) (ch : Fin 32) (pass : Bool) (s : State) : Out :=
  runCmd (fun e b => channelDone e b stack.val ch.val pass) s

/-- A controller loses a channel's interface (R207). -/
def channelLost (b : Body) (s ch : Nat) : Body :=
  let st := chState b s ch
  if st = 0 ∨ st = 1 then
    let own := st == 1 && holds b (grpKey 3 s) 6 false
    let b := chanFail b s ch
    if own then releaseGroup b (grpKey 3 s) 6 false else b
  else b

/-- CHANNEL_FAIL. -/
def execChannelFail (stack : Fin 8) (ch : Fin 32) (s : State) : Out := runCmd (fun _ b => channelLost b stack.val ch.val) s

/-- TIER_B_PACKAGE_FAIL. -/
def execTierBPackageFail (pkg : Fin 24) (s : State) : Out := runCmd (fun _ b => packageFail b pkg.val) s

/-- MEMORY_TEMP_READ: the temperatures of the hbms and of the packages, in 1/16 °C (R183, R187). -/
def execMemoryTempRead (hbms pkgs : List Int) (s : State) : Out := runCmd (fun _ b => memTemps b hbms pkgs) s

/-- A write of `MRG_CTL`; a Griand port is DOWN for its run (R214, R252). -/
def marginCtl (b : Body) (v : Nat) : Body :=
  let was := b.mem.mrg.busy
  let b := marginWrite b v
  match was, b.mem.mrg.busy, b.mem.mrg.run with
  | false, true, some (3, u) => portDown b u 0xA
  | _, _, _ => b

/-- The least of a list. -/
def leastOf : List Nat → Nat
  | [] => 0
  | x :: xs => xs.foldl min x

/-- The measurement of a run for Weathervane (Table 13-10): a stack's least timing side over the newest run of each of its
channels; a port's least side as the distance from its threshold, in thousandths. -/
def marginSample (b : Body) (type unit : Nat) (lanes : List (BitVec 32)) : Body × List WvIn :=
  let l := marginLimit type
  match type with
  | 0 =>
    let s := unit / 32
    let b := { b with kpr := { b.kpr with wv := { b.kpr.wv with
      chan := fset b.kpr.wv.chan unit (leastOf (lanes.map fun w => (laneSides w).1) + 1) } } }
    let all := (List.range 32).filterMap fun ch => let v := fget b.kpr.wv.chan (32 * s + ch); if v = 0 then none else some (v - 1)
    (b, [⟨1, s, 1000 * (leastOf all : Int)⟩])
  | 2 | 3 =>
    let t := leastOf (lanes.map fun w => (laneSides w).1)
    let v := leastOf (lanes.map fun w => (laneSides w).2)
    let d : Int := if v < t then (v : Int) - (l.2 : Int) else (t : Int) - (l.1 : Int)
    (b, [⟨3, if type = 2 then unit else 16 + unit, 1000 * d⟩])
  | _ => (b, [])

/-- The run in progress ends with a result for each lane (R213): MARGINAL lanes go to the history, the measurement to Weathervane,
an HBM4 channel back to service. -/
def marginDone (e : Env) (b : Body) (lanes : List (BitVec 32)) : Body :=
  match b.mem.mrg.busy, b.mem.mrg.run with
  | true, some (type, unit) =>
    let ls := (List.range lanes.length).zip lanes
    let b := { b with mem := { b.mem with mrg := { b.mem.mrg with
      busy := false, run := none, lanes := ls.foldl (fun m x => fset m x.1 x.2) [] } } }
    let b := (ls.filter fun x => laneMarginal type x.2).foldl (fun b x =>
      let u := laneUnit type unit x.1
      histAdd e b u.1 u.2 0x0B 0 (marginDie type unit) 0x30 0 x.1) b
    let b := if type = 0 then chanBack b (unit / 32) (unit % 32) else b
    let (b, xs) := marginSample b type unit lanes
    wvTakeHeld b xs
  | _, _ => b

/-- MARGIN_DONE: the result word of every lane. -/
def execMarginDone (lanes : List (BitVec 32)) (s : State) : Out := runCmd (fun e b => marginDone e b lanes) s

/-- MEMORY_INITIALISATION: the next page is initialised (R350). -/
def execMemoryInitialisation (s : State) : Out := runCmd (fun _ b => initPage b) s

end Sys2Proof.Machine
end

