-- ==== Sys2Proof/Machine/DieReset.lean ====
section
/-! DEFINITION. Die resets (R194, R330, R348, Table 13-5) and what a C-die takes from its straps and links when it leaves reset
(R8 to R17). -/

namespace Sys2Proof.Machine

/-! ### Straps and links -/

/-- Directions of ports a and b by position (Table 1-2): 0 WEST, 1 EAST, 2 NORTH, 3 SOUTH. -/
def strapDirs : Nat → Nat × Nat
  | 0 => (1, 3)
  | 1 => (0, 3)
  | 2 => (0, 2)
  | _ => (1, 2)

/-- Why the codes of the C-die on hub port `n` are not consistent (Table 1-4); 0 when they are. -/
def strapCause (n : Nat) (x : StrapRead) : Nat :=
  if x.pos ≠ x.pos2 ∨ x.orient ≠ x.orient2 then 3
  else if x.orient ≠ x.pos then 1
  else if x.pos.val ≠ n then 2
  else 0

/-- `HUB_STRAPSEEN` of hub port `n`. -/
def seenByte (n : Nat) (x : StrapRead) : BitVec 8 :=
  if !x.side then 0
  else
    let c := strapCause n x
    BitVec.ofNat 8 (0x80 + (if c = 0 then 0x40 else 0) + 16 * c + 4 * x.orient.val + x.pos.val)

/-- Record what the H-die sees on hub port `n`. -/
def seeStraps (b : Body) (n : Nat) (x : StrapRead) : Body :=
  { b with hub := { b.hub with seen := fset b.hub.seen n (seenByte n x) } }

/-- The level that a C-die and the H-die have in common (R16). -/
def nplOf (b : Body) : Nat := if b.hub.stepping = 2 then 4 else 3

/-- A C-die with accepted codes leaves reset: its mapping, its protocol level, its die cycle number (R8, R16, R29). -/
def dieOut (e : Env) (b : Body) (d : Nat) (x : StrapRead) : Body :=
  let p := x.pos.val
  let dirs := strapDirs p
  modDie b d fun y =>
    { y with
      pos := p, orient := x.orient.val, portDir := fset (fset [] 0 dirs.1) 1 dirs.2, stkSwap := p % 2 == 0, npl := nplOf b
      inReset := false, noAnswer := 0, cycBase := e.cyc }

/-! ### What a die reset ends first (R194) -/

/-- The controllers of a die finish their retrains of its channels; a margin sweep on the die stops. -/
def dieQuiesce (e : Env) (b : Body) (d : Nat) : Body :=
  let b := match b.mem.mrg.busy, b.mem.mrg.run with
    | true, some (0, u) => if u / 64 = d then marginAbort b else b
    | true, some (2, u) => if portDie u = d ∨ portDie (otherEnd u) = d then marginAbort b else b
    | _, _ => b
  [2 * d, 2 * d + 1].foldl (fun b s => (List.range 32).foldl (fun b ch => channelDone e b s ch true) b) b

/-- Does a context map a page of a die window? -/
def mapsWindow (c : Ctx) (d : Nat) : Bool :=
  c.xl.any fun x => x.2.valid && !x.2.host && decide (x.2.page < 2 ^ 19) && x.2.page / 2 ^ 17 == d

/-- The fallback granules of one FAILED channel are discarded: each counted, one record, reports to the ledger. -/
def dropChannel (e : Env) (d s : Nat) (b : Body) (ch : Nat) : Body :=
  let n := ((fget b.mem.str d).fb.filter fun g => granuleOf b s ch g.1).length
  if chState b s ch ≠ 2 ∨ n = 0 then b
  else
    let b := modStr b d fun x => { x with fbDrop := satAdd 0xFFFFFFFF x.fbDrop n, fb := x.fb.filter fun g => !granuleOf b s ch g.1 }
    let b := memNote e b (.stratum d) (memRec e b none 0x9 2 0 0)
    ((b.ctx.slot.filter fun c => mapsWindow c.2 d).map (·.1)).foldl reportDirty b

/-- The fallback frames of a die that cannot be written back are discarded. -/
def dieDrop (e : Env) (b : Body) (d : Nat) : Body :=
  [2 * d, 2 * d + 1].foldl (fun b s => (List.range 32).foldl (dropChannel e d s) b) b

/-! ### What becomes of the die (Table 13-5) -/

/-- A panel that has lost everything but what flash holds of it. -/
def Panel.cold (p : Panel) : Panel :=
  { (default : Panel) with
    st := p.st, lpanel := p.lpanel, seqmm := p.seqmm, retire := p.retire, classOff := p.classOff, dirtySwatch := p.dirtySwatch, swNext := p.swNext }

/-- A die in reset: its rotation state and RWP settings stay, its straps and level are taken again. -/
def Die.cold (x : Die) (tick : BitVec 64) : Die :=
  { (default : Die) with
    map := x.map, spare := x.spare, next := x.next, interval := x.interval, rotCnt := x.rotCnt, lastRot := x.lastRot, ceil := x.ceil
    need := 0x3F, inReset := true, resetTick := tick, cycBase := x.cycBase }

/-- A stratum after its initialisation: pinned pages come back from their stacks, its counters restart. -/
def Stratum.cold (x : Stratum) : Stratum := { x with fb := [], cache := [], ce := 0, ue := 0, spadCe := 0, spadUe := 0, fbDrop := 0 }

/-- Is a page one of a die's: its own, its stratum's, its panels', its die-to-die ports'? -/
def dieOwns (d n : Nat) : Bool :=
  match pageAt n with
  | some (.die x) | some (.str x) => x == d
  | some (.pnl k) => k / 9 == d
  | some (.d2d p) => decide (p < 12) && p / 3 == d
  | _ => false

/-- Everything of a die that a reset returns to its default. -/
def dieCold (e : Env) (b : Body) (d : Nat) : Body :=
  let ports := [3 * d, 3 * d + 1, 3 * d + 2]
  let b := ports.foldl (fun b n => d2dSet (d2dSet b n fun x => { (default : D2d) with spares := x.spares }) (otherEnd n) fun x => { x with up := false, run := 0 }) b
  let b := modStr (modDie b d fun x => x.cold e.clk.tick) d Stratum.cold
  { b with
    panel := fmapVals b.panel fun k p => if k / 9 = d then { p.cold with ownedAt := e.tick } else p
    mem := { b.mem with bad := b.mem.bad.filter fun x => !(x.1 / 2 ^ 32 == d && (x.2.map (·.strat)).getD false) }
    brd := { b.brd with thr := fdel b.brd.thr d }
    dir := { b.dir with
      errSum := b.dir.errSum.filter fun x => !dieOwns d x.1
      errNew := b.dir.errNew.filter fun x => !dieOwns d x.1
      errMask := b.dir.errMask.filter fun x => !dieOwns d x.1
      acc := b.dir.acc.filter fun x => !(decide (2 ≤ x.1) && (x.1 - 2) / 144 == d) } }

/-- Activities that hold a group named by a predicate end, and their commands with status CTX_RESET (R349). -/
def endActivities (b : Body) (p : Holder → Bool) : Body :=
  let b := ((b.host.holders.filter p).filterMap (·.seq)).foldl (fun b q => finishSeq b .admin q 0x18 0) b
  releaseWhere b p

/-- The contexts that hold threads on a die. -/
def dieSlots (b : Body) (d : Nat) : List Nat := ((b.panel.filter fun p => p.1 / 9 == d).flatMap fun p => panelSlots p.2).eraseDups

/-- A die reset begins (R330): the contexts with threads there reset with cause DIE_RESET, the die's activities end. -/
def dieReset (e : Env) (b : Body) (d : Nat) : Body :=
  if (fget b.die d).inReset then b
  else
    let b := dieDrop e (dieQuiesce e (swatchStop e b fun k _ => k / 9 == d) d) d
    let b := (dieSlots b d).foldl (fun b s => raise b { ctxFault s 0x15 12 0 with die := some d }) b
    let b := endActivities (applyFaults e b) fun h => grpContains (grpKey 1 d) h.group
    dieCold e b d

/-- The panels of a die are scrubbed: contexts that were resetting there are done with them (R52). -/
def dieScrubbed (e : Env) (b : Body) (d : Nat) : Body :=
  ((b.ctx.slot.filter fun c => c.2.id.resetting).map (·.1)).foldl (fun b s =>
    ((ctxAt b s).id.scrubs.filter fun k => k / 9 == d).foldl (fun b k => scrubDone e b s k) b) b

end Sys2Proof.Machine
end

