-- ==== Sys2Proof/Machine/Start.lean ====
section
/-! DEFINITION. Module resets, power-on resets and the start sequence (R347 to R356, Tables 13-4 to 13-7), HOLD, and the outputs of
CN-H that follow from the state (R375). -/

namespace Sys2Proof.Machine

/-! ### Small changes -/

/-- Change the power registers. -/
def modPwr (b : Body) (f : PowerSt → PowerSt) : Body := { b with kpr := { b.kpr with pwr := f b.kpr.pwr } }

/-- Change the start sequence. -/
def modStart (b : Body) (f : StartSt → StartSt) : Body := { b with kpr := { b.kpr with start := f b.kpr.start } }

/-- Change the board. -/
def modBrd (b : Body) (f : Brd → Brd) : Body := { b with brd := f b.brd }

/-! ### Outputs of CN-H (R375) -/

/-- Rails that the present power state powers (Table 14-6). -/
def poweredRails (b : Body) : List Nat :=
  match b.kpr.pwr.st with
  | .clear | .haze => List.range 11
  | .dusk => [4, 5, 6, 7, 8, 9, 10]
  | .night => [10]

/-- Does the input, as last read, lie outside 40 to 60 V? -/
def inputOff (b : Body) : Bool :=
  let v := b.brd.volt / 65536
  v != 0 && decide (v < 4000 ∨ 6000 < v)

/-- `ALERT_N` low. -/
def alertLow (b : Body) : Bool :=
  !b.kpr.pwr.off && (b.kpr.pwr.hold != 0 || inputOff b || (List.range 4).any (fun d => decide (3 ≤ thrStep b d)) ||
    b.brd.crit || b.brd.lowFlow || b.brd.inletHi || b.brd.cold)

/-- Does EXTEST take effect: in HOLD, in NIGHT, or with PERST_N low (R378)? -/
def extestOn (b : Body) : Bool := b.kpr.pwr.hold != 0 || b.kpr.pwr.st == .night || b.brd.perst

/-- The outputs: as the module drives them, or from the boundary cells while EXTEST is in effect; without power nothing is driven but
what the hot-swap hardware holds low. -/
def pinsNow (b : Body) : CnhPins :=
  let r := b.brd
  let cell := r.bcells.getLsbD
  let on (c v : Bool) : Option Bool := if c then some v else none
  if b.kpr.pwr.off then ⟨false, r.thermTrip, r.faultN, some false, some false, none, none⟩
  else if r.ir = 0 ∧ extestOn b then ⟨!cell 11, !cell 12, !cell 13, on (cell 16) (cell 14), on (cell 16) (cell 15), on (cell 16) (cell 1), on (cell 10) (cell 9)⟩
  else ⟨r.alertN, r.thermTrip, r.faultN, some r.pwrgd, some b.kpr.start.offOk, some true, none⟩

/-- Drive PWRGD and ALERT_N as the state says, and the pins with them. -/
def pinSync (b : Body) : Body :=
  let b := modBrd b fun r =>
    { r with pwrgd := !b.kpr.pwr.off && !((poweredRails b).any fun n => fget r.railBad n), alertN := alertLow b }
  modBrd b fun r => { r with pins := pinsNow b }

/-- Run a command that may change what CN-H shows. -/
def runPin (f : Env → Body → Body) (s : State) : Out := runCmd (fun e b => pinSync (f e b)) s

/-! ### What a module reset leaves (Table 13-5) -/

/-- Generation records that survive the context that wrote them: a target whose snapshot had started copying is INVALID (R291). -/
def stashGens (b : Body) : Body :=
  let recs := b.ctx.slot.filterMap fun c =>
    let l := c.2.led
    let g := match l.snap with
      | some s => fmod l.gens (genOfStep s.step) fun g => { g with st := .invalid }
      | none => l.gens
    if g.any (·.2.st != .empty) then some (c.2.id.job, g) else none
  let old := b.ctx.genRecs.filter fun r => !(recs.any (·.1 == r.1))
  { b with ctx := { b.ctx with genRecs := old ++ recs } }

/-- Every context ends with the module reset: the slots become FREE, their generations advance (R258). -/
def dropContexts (b : Body) : Body :=
  let ss := liveSlots b
  let b := ss.foldl advGen b
  { b with ctx := { b.ctx with slot := [], freed := b.ctx.freed ++ ss, jobs := [], faultq := [], evq := [] } }

/-- A stack after a module reset: `SPARE` takes effect, a retrain in progress is over, the error log is empty. -/
def Stack.cold (x : Stack) : Stack :=
  { x with spareIn := x.spare, ch := x.ch.filter fun c => c.2 != 1, retryAt := [], log := default }

/-- The memories after a module reset. -/
def MemSt.cold (m : MemSt) : MemSt :=
  { m with
    stack := fmapVals m.stack fun _ x => x.cold
    tb := { m.tb with liningIn := m.tb.lining, log := default }
    str := fmapVals m.str fun _ x => { x with fb := [], cache := [], pinned := [], fbres := 32, fbresIn := 32, cacheOff := false, log := default }
    snd := { m.snd with next := 0, skipped := [], again := [], first := [] }
    mrg := { (default : Margin) with status := if m.mrg.busy then 2 else 0 }
    d2d := fmapVals m.d2d fun _ x => { (default : D2d) with replay := x.replay, spares := x.spares }
    bad := m.bad.filter fun x => !(x.2.map (·.strat)).getD false
    held := [] }

/-- A Griand port after a module reset: flash keeps its lane-spare map, its counters go on. -/
def Port.cold (p : Port) : Port :=
  { (default : Port) with axis := 3, failLane := p.failLane, failTwo := p.failTwo, fecCw := p.fecCw, replay := p.replay, downs := p.downs }

/-- The fabric side after a module reset: the plan record, the tags and the partners' copies stay. -/
def FabSt.cold (f : FabSt) : FabSt :=
  { (default : FabSt) with
    plan := f.plan, range := f.range, fdTray := f.fdTray, fdPwr := f.fdPwr, fdTrayWr := f.fdTrayWr, fdPwrWr := f.fdPwrWr, discard := f.discard
    port := fmapVals f.port fun _ p => p.cold
    sent := f.sent, partner := f.partner, sqCnt := f.sqCnt, hbTick := f.hbTick }

/-- The keeper after a module reset; start phase 2 begins. -/
def Kpr.cold (k : Kpr) : Kpr :=
  { k with
    histSel := 0, running := []
    pwr :=
      { (default : PowerSt) with
        noAuto := k.pwr.noAuto, idle := k.pwr.idle, lastIssue := k.pwr.lastIssue, clocksOff := true, unlocked := true, busy := k.pwr.busy }
    start := { k.start with phase := 2, full := false, orderly := false, why := 0, offOk := false }
    fuse := { k.fuse with armed := false }
    mbox := default
    fw := { k.fw with act := 0, armUntil := none, byScaffold := none, attempts := 0 } }

/-- The Module column of Table 13-5, but for what a start takes again in its phases. -/
def moduleCold (e : Env) (b : Body) : Body :=
  let b := dropContexts (stashGens b)
  { b with
    panel := fmapVals b.panel fun _ p => { p.cold with ownedAt := e.tick }
    die := fmapVals b.die fun _ x => x.cold e.clk.tick
    hub := { b.hub with neg := 0, seen := [] }
    mem := b.mem.cold
    host := { (default : HostSt) with bytes := b.host.bytes, dbDrop := b.host.dbDrop }
    fab := b.fab.cold
    kpr := b.kpr.cold
    brd := { b.brd with thr := [], minStep := 0, pLimit := 3200 }
    dir := { b.dir with
      errSum := b.dir.errSum.filter fun x => decide (x.1 < 0x8000)
      errMask := b.dir.errMask.filter fun x => decide (x.1 < 0x8000)
      errNew := b.dir.errNew.filter fun x => decide (x.1 < 0x8000)
      regq := []
      acc := [] } }

/-- Memory contents and what names them are gone; every page waits for its initialisation (R350). -/
def memBlank (b : Body) : Body :=
  { b with
    mem := { b.mem with bytes := [], poison := [], spoison := [], bad := [], initAt := some 0, initEarly := [], lost := [],
                        str := fmapVals b.mem.str fun _ x => x.cold }
    fab := { b.fab with partner := [] }
    ctx := { b.ctx with genRecs := [] } }

/-! ### HOLD (R355) -/

/-- The report that ends an escalation to a module reset (Table 12-15), stage 3; the other stages have none here. -/
def stageEnd (e : Env) (b : Body) (result : Nat) : Body :=
  if b.kpr.stage ≠ 3 then { b with kpr := { b.kpr with stage := 0 } }
  else moduleEvent e { b with kpr := { b.kpr with stage := 0 } } 0x08 result 3 0 0 0

/-- The module enters HOLD: the dies stay in reset, nothing runs but the keeper. Outside a start (a die reset or a retrain that ends
in HOLD) what the H-die has recorded of straps, level and links stays (R10, R11, R14, R17). -/
def enterHold (e : Env) (b : Body) (cause detail : Nat) : Body :=
  let ph := b.kpr.start.phase
  let lock := b.kpr.pwr.unlocked
  let b := if ph = 0 then
      let b' := moduleCold e b
      let b := { b' with hub := b.hub, mem := { b'.mem with d2d := fmapVals b.mem.d2d fun _ x => { x with up := false, run := 0 } } }
      modStart (modPwr b fun p => { p with unlocked := lock }) fun s => { s with phase := 0 }
    else b
  let b := { b with
    die := fmapVals b.die fun _ x => { x with inReset := true, npl := 0 }
    fab := { b.fab with port := fmapVals b.fab.port fun _ p => p.cold } }
  let b := modPwr b fun p => { p with hold := cause, holdDetail := detail, busy := false, clocksOff := true }
  stageEnd e (raiseIbi b (0xA0 + cause) 0) 1

/-- A retrain of a die-to-die port that a command asked for has ended short of full width: HOLD with cause D2D_TRAIN (R14). -/
def retrainHold (e : Env) (b b' : Body) (seq : Nat) : Body :=
  match b.host.holders.find? fun h => h.seq == some seq && h.act == 6 && h.group / 65536 == 6 with
  | none => b'
  | some h =>
    let n := h.group % 65536
    if b'.host.holders.any (fun x => x.seq == some seq) || (fget b'.mem.d2d n).up then b' else enterHold e b' 0x02 (portDie n)

/-- COMMAND_COMPLETION: the ring, the command's number, and what an activity of SCAFFOLD RUN has found. -/
def execCommandCompletion (r : RingRef) (seq : Nat) (out : RunOut) (s : State) : Out :=
  runCmd (fun e b => retrainHold e b (commandCompletion e b r seq out) seq) s

/-! ### The start sequence (Table 13-6) -/

/-- Is the test window met: Zenith locked, every rail within ±3% (R353)? -/
def windowOk (b : Body) : Bool := !b.kpr.pwr.unlocked && !((List.range 11).any fun n => fget b.brd.railBad n)

/-- Does phase 3 choose the full test (R352)? A start after a power-on also asks for an orderly shutdown. -/
def wantsFull (b : Body) (pwr : Bool) : Bool :=
  let s := b.kpr.start
  s.newestFull != 1 || decide (s.bistWin ≤ b.kpr.wv.hours - s.newestHours) || s.flagForce || (pwr && !s.orderly)

/-- Phases 2 and 3 end by themselves once their conditions hold: Zenith is locked and PERST_N is high; the test window is met. -/
def startGo (b : Body) : Body :=
  let b := if b.kpr.start.phase = 2 ∧ !b.kpr.pwr.unlocked ∧ !b.brd.perst ∧ b.kpr.pwr.hold = 0 then
      modPwr (modStart b fun s => { s with phase := 3 }) fun p => { p with clocksOff := false }
    else b
  if b.kpr.start.phase = 3 ∧ windowOk b ∧ b.kpr.pwr.hold = 0 then
    modStart b fun s => { s with phase := 4, full := wantsFull b s.fromPwr }
  else b

/-- CLEAR (phase 9): the start is over. -/
def reachClear (e : Env) (b : Body) : Body :=
  let b := modStart b fun s => { s with phase := 0 }
  stageEnd e (modPwr b fun p => { p with st := .clear, was := none, busy := false, lastIssue := e.clk.tick }) 0

/-- The sideband of a C-die did not come up: both ends of its hub link say so (R14, Table 8-16). -/
def sidebandDown (b : Body) (d : Nat) : Body :=
  [12 + d, otherEnd (12 + d)].foldl (fun b n => d2dSet b n fun x => { x with up := false, cause := 2 }) b

/-- Phase 4: straps, die-to-die training, protocol level (R8 to R16). Where several C-dies fail at once the spec names no order: bad
straps come before a link, and the lowest die is named (DESIGN CHOICE, log entry 74). -/
def startTrain (e : Env) (b : Body) (o : PhaseOut) : Body :=
  let none' : StrapRead := ⟨0, 0, 0, 0, false⟩
  let xs := (List.range 4).map fun d => (d, o.straps.getD d none')
  let b := xs.foldl (fun b x => seeStraps b x.1 x.2) b
  match xs.find? fun x => x.2.side && strapCause x.1 x.2 != 0 with
  | some x => enterHold e b 0x01 x.1
  | none =>
    match xs.find? fun x => !x.2.side with
    | some _ =>
      let ds := (xs.filter fun x => !x.2.side).map (·.1)
      enterHold e (ds.foldl sidebandDown b) 0x02 (ds.headD 0)
    | none =>
      let bad := o.links.find? (linkBad b)
      let b := trainLinks e b (List.range 16) o.links
      match bad with
      | some t => enterHold e b 0x02 (portDie t.port.val)
      | none =>
        let b := xs.foldl (fun b x => dieOut e b x.1 x.2) { b with hub := { b.hub with neg := nplOf b } }
        modStart b fun s => { s with phase := 5 }

/-- Phases 6 and 7: memory training with map-outs, then initialisation; phase 8 begins. -/
def startMemory (e : Env) (b : Body) (o : PhaseOut) : Body :=
  let b := (List.range 4).foldl (fun b d => retrainWindow e b d o.chans o.lanes) b
  modStart (retrainTierB e b o.pkgs) fun s => { s with phase := 8 }

/-- Phase 8: a port that has not answered is DOWN. -/
def startFabric (e : Env) (b : Body) : Body :=
  let late (p : Port) : Bool := (p.st == 0 && p.cause == 0) || p.hello
  let b := (List.range 6).foldl (fun b n =>
    if late (fget b.fab.port n) then modPort b n fun p => { p with st := 0, cause := 1, hello := false } else b) b
  reachClear e (fabOutcome b)

/-- START_PHASE_COMPLETE. -/
def startPhase (e : Env) (b : Body) (o : PhaseOut) : Body :=
  if b.kpr.pwr.hold ≠ 0 ∨ b.kpr.pwr.off ∨ b.kpr.pwr.stopped then b
  else match b.kpr.start.phase with
    | 2 | 3 => startGo b
    | 4 => startTrain e b o
    | 6 => startMemory e b o
    | 8 => startFabric e b
    | _ => b

/-! ### Tests (R352, R353) -/

/-- `WHY` of a window refusal: 1 clock, 2 rail, 3 both. -/
def whyCode (clock : Bool) (rail : Option (Fin 11)) : Nat := b2n clock + 2 * b2n rail.isSome

/-- The window is not met: HOLD with cause BIST_WINDOW, its reason and its rail. -/
def holdWindow (e : Env) (b : Body) (clock : Bool) (rail : Option (Fin 11)) : Body :=
  enterHold e (modStart b fun s => { s with why := whyCode clock rail }) 0x06 ((rail.map (·.val)).getD 0xF)

/-- The window is not met within 10 s at phase 3. -/
def windowTimeout (e : Env) (b : Body) (clock : Bool) (rail : Option (Fin 11)) : Body :=
  if b.kpr.start.phase = 3 ∧ b.kpr.pwr.hold = 0 ∧ !b.kpr.pwr.off then holdWindow e b clock rail else b

/-- The window is lost during a test. -/
def windowLost (e : Env) (b : Body) (clock : Bool) (rail : Option (Fin 11)) : Body :=
  if b.kpr.start.phase = 5 ∧ b.kpr.pwr.hold = 0 ∧ !b.kpr.pwr.off then
    holdWindow e (modStart b fun s => { s with lastRes := 3 }) clock rail
  else b

/-- The result of a test goes to flash; a full test is the newest one from then on, with the operating hours. -/
def recordTest (b : Body) (full : Bool) (res : Nat) : Body :=
  modStart b fun s =>
    if full then { s with lastRes := res, newestFull := res, newestHours := b.kpr.wv.hours } else { s with lastRes := res }

/-- Every failing unit of a test has a BIST_FAIL entry. -/
def bistFails (e : Env) (b : Body) (units : List (Nat × Nat)) : Body := units.foldl (fun b u => histAdd e b u.1 u.2 0x0C 0 none 0xFF 0 0) b

/-- A full test makes soft repairs hard (R204, R352). -/
def hardenAll (e : Env) (b : Body) : Body := (List.range 8).foldl (fun b s => (hardenStack e b s).2) b

/-- The test of phase 5 ends. -/
def startTestDone (e : Env) (b : Body) (t : TestOut) : Body :=
  if b.kpr.start.phase ≠ 5 ∨ b.kpr.pwr.hold ≠ 0 ∨ b.kpr.pwr.off ∨ b.kpr.pwr.stopped then b
  else
    let full := b.kpr.start.full
    match t with
    | .pass =>
      let b := histAdd e (recordTest b full 1) 11 0 0x0D 0 none 0xFF 0 0
      modStart (if full then hardenAll e b else b) fun s => { s with phase := 6 }
    | .fail us d => enterHold e (bistFails e (recordTest b full 2) us) 0x05 d.val
    | .fuse => enterHold e (recordTest b full 2) 0x08 0
    | .refused c r => windowLost e b c r

/-! ### Firmware at phase 1 (R369) -/

/-- May the ROM boot a slot: a valid image at or above the fused minimum? -/
def bootable (b : Body) (n : Nat) : Bool :=
  let s := fget b.kpr.fw.slot n
  s.valid && decide (b.kpr.fuse.fwmin ≤ s.svn)

/-- An image reaches keeper-ready: phase 1 ends, or an activation's restart. -/
def keeperReady (b : Body) : Body :=
  if b.kpr.fw.act = 2 then fwReady b
  else if b.kpr.start.phase = 1 ∧ b.kpr.pwr.hold = 0 ∧ !b.kpr.pwr.off ∧ bootable b b.kpr.fw.active then
    startGo (modStart (fwRanges (modFw b fun f => { f with bootFail := 0, attempts := 0 })) fun s => { s with phase := 2 })
  else b

/-- A boot attempt fails: the third switches to the other slot; the third of that slot, or no valid image there, is HOLD. -/
def bootTimeout (e : Env) (b : Body) : Body :=
  if b.kpr.start.phase ≠ 1 ∨ b.kpr.pwr.hold ≠ 0 ∨ b.kpr.pwr.off then b
  else
    let n := b.kpr.fw.bootFail + 1
    if n < 3 then modFw b fun f => { f with bootFail := n }
    else if b.kpr.fw.attempts ≠ 0 then enterHold e (modFw b fun f => { f with bootFail := 3 }) 0x07 0
    else
      let b := modFw b fun f => { f with active := 1 - f.active, bootFail := 0, attempts := 1 }
      if bootable b b.kpr.fw.active then b else enterHold e b 0x07 0

/-! ### The resets -/

/-- Every context, LIVE or HALTED, faults with a cause; Squall goes out before the module resets (Table 12-2). -/
def resetLive (e : Env) (b : Body) (cause : Nat) : Body :=
  (liveSlots b).foldl (fun b s =>
    let id := (ctxAt b s).id
    if !id.resetting then resetContext e b (ctxFault s cause 12 0) else b) b

/-- The thermal flags and the coolant temperatures read 0 until the next reading (Tables 14-14, 14-15). -/
def Brd.thermBlank (r : Brd) : Brd :=
  { r with fast := false, fastTick := 0, crit := false, critOk := none, lowFlow := false, flowCnt := 0, cold := false, inletHi := false
           inlet := 0, outlet := 0 }

/-- A module reset (R348): `cmd` when a keeper command or an escalation asks for it. It ends HOLD, and wakes the module from NIGHT. -/
def moduleReset (e : Env) (b : Body) (cmd : Bool) : Body :=
  if b.kpr.pwr.off then b
  else
    let night := b.kpr.pwr.st == .night
    let boot := b.kpr.pwr.hold == 7 || (b.kpr.start.phase == 1 && b.kpr.pwr.hold == 0)
    let b := swatchStop e b fun _ _ => true
    let b := if cmd then resetLive e b 0x14 else b
    let b := moduleCold e b
    let b := modBrd (if night then memBlank b else b) Brd.thermBlank
    modStart b fun s => { s with phase := if boot then 1 else 2, fromPwr := false }

/-- Power is lost (R374, R379, R382, R392): contexts are gone, no Squall is sent, the cause goes to flash. An RWP field written less
than 100 ms before may come back with its value of before (Table 15-2): the model keeps the written value (DESIGN CHOICE, log entry
74). -/
def powerLoss (e : Env) (b : Body) (cause : Nat) (rail : Option Nat) : Body :=
  if b.kpr.pwr.off then b
  else
    let orderly := b.kpr.start.ordFlash && b.kpr.start.offOk
    let b := memBlank (moduleCold e b)
    let b := modPwr (modStart b fun s => { s with phase := 0, ordFlash := orderly }) fun p => { p with off := true, busy := false }
    modBrd b fun r => { r with lastOffCause := cause, lastOffRail := rail, fast := false }

/-- What a power-on reset leaves (Table 13-5): what flash and fuses hold, and the host's memory. `PNL_STATE.SEQMM` counts from 0 again,
as Table 2-13 says of it, though Table 13-5 names its register among those reloaded from flash (DESIGN CHOICE, log entry 74). -/
def powerOnBody (e : Env) (b : Body) (straps : Nat) : Body :=
  let ord := b.kpr.start.ordFlash
  let b := memBlank (moduleCold e b)
  let b := { b with
    panel := fmapVals b.panel fun _ p => { p with seqmm := 0 }
    ctx := { b.ctx with genAdv := [], nextFresh := 0, freed := [], stale := 0 }
    mem := { b.mem with
      stack := fmapVals b.mem.stack fun _ x =>
        { x with ch := x.ch.filter (fun c => c.2 == 3), ce := 0, ue := 0, log := default, ceRows := [], ceSeen := [], ceTicks := [], trainTemp := [] }
      tb := { b.mem.tb with failed := [], ce := 0, ue := 0, linkCe := 0, ceSeen := [], ueTicks := [], drops := 0, log := default, temp := [] }
      str := fmapVals b.mem.str fun _ x => { x with log := default, ceSeen := [] }
      snd := { b.mem.snd with complete := 0, incomplete := 0, sweep := 0 }
      mrg := default
      d2d := fmapVals b.mem.d2d fun _ x => { (default : D2d) with spares := x.spares } }
    host := { b.host with dbDrop := 0 }
    fab := { b.fab with
      plan := none, fdTray := 0, fdPwr := 0, fdTrayWr := false, fdPwrWr := false, discard := 0, sqCnt := 0, hbTick := 0, sent := []
      port := fmapVals b.fab.port fun _ p => { p with fecCw := 0, replay := 0, downs := 0 } }
    kpr := { b.kpr with
      ev := [], evOvf := 0, stage := 0
      i3c := { (default : I3cSt) with hotJoin := true, askTags := true, mrl := 64, mwl := 64 } }
    brd := { (default : Brd) with
      inputOn := true, perst := b.brd.perst, mateOpen := b.brd.mateOpen, pLimit := 3200, ir := 1, slotId := straps
      lastOffRail := b.brd.lastOffRail, lastOffCause := b.brd.lastOffCause }
    dir := default }
  let b := modPwr b fun p => { p with off := false, busy := false, lastIssue := 0 }
  pinSync (modStart b fun s => { s with phase := 1, fromPwr := true, orderly := ord, ordFlash := false })

/-- A power-on reset: the power-on count advances, the tick counter starts from zero (R3). -/
def powerOn (s : State) (straps : Nat) : State :=
  { s with clk := ⟨0, 0, 0⟩, pwrOn := s.pwrOn + 1, body := powerOnBody ⟨⟨0, 0, 0⟩, s.pwrOn + 1⟩ s.body straps }

/-! ### The events -/

/-- POWER_ON_RESET: the input rises through the turn-on threshold; SLOT3 to SLOT0 are sampled (R375). -/
def execPowerOnReset (straps : Fin 16) (s : State) : Out := .next (powerOn s straps.val)

/-- KEEPER_READY. -/
def execKeeperReady (s : State) : Out := runPin (fun _ b => keeperReady b) s

/-- BOOT_ATTEMPT_TIMEOUT. -/
def execBootAttemptTimeout (s : State) : Out := runPin bootTimeout s

/-- START_PHASE_COMPLETE. -/
def execStartPhaseComplete (o : PhaseOut) (s : State) : Out := runPin (fun e b => startPhase e b o) s

/-- START_TEST_DONE. -/
def execStartTestDone (t : TestOut) (s : State) : Out := runPin (fun e b => startTestDone e b t) s

/-- BIST_WINDOW_TIMEOUT. -/
def execBistWindowTimeout (clock : Bool) (rail : Option (Fin 11)) (s : State) : Out := runPin (fun e b => windowTimeout e b clock rail) s

/-- BIST_WINDOW_LOST. -/
def execBistWindowLost (clock : Bool) (rail : Option (Fin 11)) (s : State) : Out := runPin (fun e b => windowLost e b clock rail) s

/-- PERST_N is asserted: a module reset in CLEAR, HAZE and DUSK, with no Squall; phase 1 of a start goes on (R384). -/
def perstAssert (e : Env) (b : Body) : Body :=
  let p := b.kpr.pwr
  let b := if p.off ∨ p.hold ≠ 0 ∨ p.st = .night ∨ b.kpr.start.phase = 1 then b else moduleReset e b false
  modBrd b fun r => { r with perst := true }

/-- PERST_N_ASSERT. -/
def execPerstNAssert (s : State) : Out := runPin perstAssert s

/-- PERST_N_DEASSERT. -/
def execPerstNDeassert (s : State) : Out := runPin (fun _ b => startGo (modBrd b fun r => { r with perst := false })) s

end Sys2Proof.Machine
end

