-- ==== Sys2Proof/Machine/Power.lean ====
section
/-! DEFINITION. Power states and their requests (R343 to R347, Tables 13-1 to 13-3), automatic HAZE, orderly shutdown (R354). -/

namespace Sys2Proof.Machine

/-- Has a panel a thread in RUN, WAIT or KILLING, or an engine, Hod slot or rotation release that is busy (R345)? -/
def Panel.active (cyc : Nat) (p : Panel) : Bool :=
  (p.seq.thr.any fun t => t.2.st == .run || t.2.st == .wait || t.2.st == .killing) || p.rotUntil != 0 || !p.hod.isEmpty ||
    !p.loadw.isEmpty || !p.pass.isEmpty || !p.chain.isEmpty || !p.fill.isEmpty || decide (cyc < p.skimBusy) || !p.ldt.isEmpty

/-- Is the C domain of every die idle (R345)? A built-in test, and a swatch run that the host asked for, keep it in use. -/
def quiet (e : Env) (b : Body) : Bool :=
  !(b.panel.any fun x => x.2.active e.cyc) && !(b.host.holders.any fun h => h.act == 1 || (h.act == 8 && h.host))

/-- Entry to HAZE: spare and idle-window swatch runs stop with ABORT. -/
def hazeEnter (e : Env) (b : Body) : Body :=
  modPwr (swatchStop e b fun _ r => r.seq.isNone) fun p => { p with st := .haze, was := some .clear, hazeWait := false }

/-- Is some LIVE context no shadow? -/
def liveOther (b : Body) : Bool := b.ctx.slot.any fun c => c.2.id.st == .live && c.2.con.role != 2

/-- Is some context HALTED? -/
def someHalted (b : Body) : Bool := b.ctx.slot.any fun c => c.2.id.st == .halted

/-- Shadowing ends on entry to DUSK or NIGHT, at either end; a LIVE shadow is reset, and its panels are done with (R342, R346). -/
def shadowsEnd (e : Env) (b : Body) : Body :=
  let b := (liveSlots b).foldl (fun b s =>
    let c := ctxAt b s
    if c.con.active then endContrail e b s 3
    else if c.id.st = .live ∧ c.con.role = 2 then raise b (ctxFault s 0x16 12 3) else b) b
  let b := applyFaults e b
  (liveSlots b).foldl (fun b s => ((ctxAt b s).id.scrubs).foldl (fun b k => scrubDone e b s k) b) b

/-- Entry to DUSK (R346), in its order: shadowing ends, the module's own scaffolds are free, ports enter Drizzle, the C-dies lose
their power. -/
def duskEnter (e : Env) (b : Body) : Body :=
  let was := b.kpr.pwr.st
  let b := swatchStop e (shadowsEnd e b) fun _ _ => true
  let b := (List.range 4).foldl (fun b d => dieDrop e (dieQuiesce e b d) d) b
  let b := releaseWhere b fun h => !h.host
  let b := { b with fab := { b.fab with port := fmapVals b.fab.port fun _ p => if p.st = 0 then p else { p with drz := true, lanes := 1 } } }
  let b := (List.range 4).foldl (dieCold e) b
  modPwr b fun p => { p with st := .dusk, was := some was, busy := true, goal := 2, result := 0 }

/-- Is a page one of some C-die's? -/
def dieOwned (n : Nat) : Bool := (List.range 4).any fun d => dieOwns d n

/-- Entry to NIGHT (R344, R354): everything but the keeper is off, and the error counters and summaries of C-die pages are lost
(Table 13-5, R402). `forced`: every context first faults with cause MODULE_RESET and is
destroyed. -/
def nightEnter (e : Env) (b : Body) (forced : Bool) : Body :=
  let old := b.kpr.pwr
  let b := if forced then destroyAll e b 0x14 else shadowsEnd e b
  let b := swatchStop e b fun _ _ => true
  let k := b.kpr
  let b := memBlank (moduleCold e b)
  let st := k.start
  { b with
    mem := { b.mem with d2d := fmapVals b.mem.d2d fun n x => if n < 12 then { x with replay := 0 } else x }
    dir := { b.dir with
      errSum := b.dir.errSum.filter fun x => !dieOwned x.1
      errNew := b.dir.errNew.filter fun x => !dieOwned x.1
      errMask := b.dir.errMask.filter fun x => !dieOwned x.1 }
    kpr := { b.kpr with
      fuse := k.fuse, mbox := k.mbox, histSel := k.histSel, start := { st with phase := 0 }
      pwr := { old with st := .night, was := some old.st, busy := true, goal := 3, result := 0, hazeWait := false, clocksOff := true, unlocked := true } } }

/-- The wake from DUSK: a die reset of every C-die (R346). -/
def duskWake (e : Env) (b : Body) : Body :=
  modPwr { b with die := fmapVals b.die fun _ x => { x with resetTick := e.clk.tick } } fun p => { p with busy := true, goal := 0, result := 0 }

/-- The wake from NIGHT: a module reset (R347). -/
def nightWake (e : Env) (b : Body) : Body := moduleReset e (modPwr b fun p => { p with busy := true, goal := 0 }) false

/-- The refusal of a request for DUSK (2) or NIGHT (3); 0 when there is none (Table 13-2). -/
def powerRefusal (b : Body) (t : Nat) (force : Bool) : Nat :=
  if hostHolds b then 3
  else if t = 3 ∧ force then 0
  else if liveOther b || (t == 3 && someHalted b) then 1
  else if !b.fab.partner.isEmpty then 2
  else 0

/-- Set `RESULT`. -/
def setResult (b : Body) (r : Nat) : Body := modPwr b fun p => { p with result := r }

/-- A request for a power state (R344). While a transition or a start runs it is ignored; a state that Table 13-1 does not reach from
the present one is ignored too. -/
def powerRequest (e : Env) (b : Body) (t : Nat) : Body :=
  let p := b.kpr.pwr
  if p.off ∨ p.busy then b
  else if p.hold ≠ 0 then setResult b 4
  else if b.kpr.start.phase ≠ 0 then b
  else if p.st.code = t then setResult b 5
  else match t with
    | 0 =>
      match p.st with
      | .haze => modPwr (leaveHaze e b) fun p => { p with was := some .haze, busy := true, goal := 0, result := 0 }
      | .dusk => duskWake e b
      | .night => if b.brd.crit then modPwr b fun p => { p with busy := true, goal := 0, result := 0 } else nightWake e b
      | .clear => b
    | 1 =>
      if p.st ≠ .clear then b
      else if hostHolds b then setResult b 3
      else
        let b := modPwr b fun p => { p with busy := true, goal := 1, result := 0, hazeWait := true }
        if quiet e b then hazeEnter e b else b
    | 2 =>
      if p.st = .night then b
      else
        let r := powerRefusal b 2 p.force
        if r = 0 then duskEnter e b else setResult b r
    | _ =>
      let r := powerRefusal b 3 p.force
      if r = 0 then nightEnter e b p.force else setResult b r

/-- The RW and RWP fields of a write of `KPR_PWR`. -/
def pwrFields (b : Body) (v : Nat) : Body :=
  modPwr b fun p =>
    { p with target := fld v 29 28, force := bit v 27, noAuto := !bit v 26, idle := if v % 65536 = 0 then p.idle else v % 65536 }

/-- A write of `KPR_PWR`. -/
def pwrWrite (e : Env) (b : Body) (v : Nat) : Body :=
  if b.kpr.pwr.off then b
  else
    let b := pwrFields b v
    if bit v 31 then powerRequest e b (fld v 29 28) else b

/-- The register value of a request: `REQ` 1 and `TARGET` t. -/
def reqWord (w : BitVec 32) (t : Nat) : Nat := w.toNat % 2 ^ 28 + t * 2 ^ 28 + 2 ^ 31

/-- A transition finishes (R343). A request for HAZE that still waits goes on waiting; a wake from DUSK waits for its die resets. -/
def transitionDone (e : Env) (b : Body) : Body :=
  let p := b.kpr.pwr
  let done (b : Body) : Body := modPwr b fun p => { p with busy := false, was := none }
  if !p.busy ∨ p.off ∨ p.hold ≠ 0 ∨ b.kpr.start.phase ≠ 0 then b
  else match p.goal with
    | 0 =>
      match p.st with
      | .dusk =>
        if b.die.any fun d => d.2.inReset then b
        else
          let b := { b with fab := { b.fab with port := fmapVals b.fab.port fun _ p =>
            if p.drz then { p with drz := false, lanes := if p.failLane.isSome then 7 else 8 } else p } }
          done (modPwr b fun p => { p with st := .clear, lastIssue := e.clk.tick })
      | .night => b
      | _ => done b
    | 1 => if p.hazeWait then (if quiet e b then done (hazeEnter e b) else b) else done b
    | _ => done b

/-- No bundle has issued for `IDLE` ticks and the module is quiet (R345). -/
def autoHaze (e : Env) (b : Body) : Body :=
  let p := b.kpr.pwr
  if p.off ∨ p.busy ∨ p.hold ≠ 0 ∨ b.kpr.start.phase ≠ 0 ∨ p.st ≠ .clear ∨ p.noAuto ∨ e.tick < p.lastIssue.toNat + p.idle ∨ !quiet e b then b
  else hazeEnter e (modPwr b fun p => { p with busy := true, goal := 1 })

/-- POWER_REQUEST_CLEAR: a write of `KPR_PWR` with `REQ` 1 and `TARGET` CLEAR. -/
def execPowerRequestClear (w : BitVec 32) (s : State) : Out := runPin (fun e b => pwrWrite e b (reqWord w 0)) s

/-- POWER_REQUEST_HAZE. -/
def execPowerRequestHaze (w : BitVec 32) (s : State) : Out := runPin (fun e b => pwrWrite e b (reqWord w 1)) s

/-- POWER_REQUEST_DUSK. -/
def execPowerRequestDusk (w : BitVec 32) (s : State) : Out := runPin (fun e b => pwrWrite e b (reqWord w 2)) s

/-- POWER_REQUEST_NIGHT. -/
def execPowerRequestNight (w : BitVec 32) (s : State) : Out := runPin (fun e b => pwrWrite e b (reqWord w 3)) s

/-- AUTO_HAZE. -/
def execAutoHaze (s : State) : Out := runPin autoHaze s

/-- POWER_TRANSITION_COMPLETE. -/
def execPowerTransitionComplete (s : State) : Out := runPin transitionDone s

end Sys2Proof.Machine
end

