-- ==== Sys2Proof/Machine/Recover.lean ====
section
/-! DEFINITION. Recovery of a stuck module (R330, Table 12-15), the Plumb limits (R318, R319), and failures of the clock and of
die-to-die links (R15, R24, R212, R351). -/

namespace Sys2Proof.Machine

/-! ### Stages 2 and 3 (Table 12-15) -/

/-- Set the recovery stage: 3 while a module reset that the keeper has entered runs, 4 when it has stopped before stage 3 and waits. -/
def setStage (b : Body) (n : Nat) : Body := { b with kpr := { b.kpr with stage := n } }

/-- Stage 3: a module reset, or with `AUTOMOD` 0 one report and no more. -/
def stageModule (e : Env) (b : Body) : Body :=
  if b.kpr.stage = 3 then b
  else if !b.kpr.noAutoMod then moduleReset e (setStage b 3) true
  else if b.kpr.stage = 4 then b
  else moduleEvent e (setStage b 4) 0x08 2 3 0 0 0

/-- Stage 2: a die reset, or with `AUTODIE` 0 a report. -/
def stageDie (e : Env) (b : Body) (d : Nat) : Body :=
  if !b.kpr.noAutoDie then dieReset e b d else moduleEvent e b 0x07 2 d 0 0 0

/-! ### A die reset ends -/

/-- May the reset of a die end now: the die is in reset, no start runs, and in DUSK its power is back? -/
def dieEnds (b : Body) (d : Nat) : Bool :=
  let p := b.kpr.pwr
  (fget b.die d).inReset && decide (b.kpr.start.phase = 0) && decide (p.hold = 0) && !p.off && p.st != .night &&
    (p.st != .dusk || (p.busy && decide (p.goal = 0)))

/-- DIE_RESET_COMPLETE: the straps and the level are taken again, the ports train, the panels are scrubbed (R8 to R17, R52). -/
def dieEnd (e : Env) (b : Body) (d : Nat) (ok : Bool) (x : StrapRead) (links : List LinkTrain) : Body :=
  if !dieEnds b d then b
  else
    let b := seeStraps b d x
    if !ok then stageModule e (moduleEvent e b 0x07 1 d 0 0 0)
    else if x.side && strapCause d x != 0 then enterHold e (moduleEvent e b 0x07 1 d 0 0 0) 0x01 d
    else
      let ns := [3 * d, 3 * d + 1, 3 * d + 2]
      if !x.side then enterHold e (sidebandDown (moduleEvent e b 0x07 1 d 0 0 0) d) 0x02 d
      else if links.any (linkBad b) then enterHold e (trainLinks e (moduleEvent e b 0x07 1 d 0 0 0) (ns ++ ns.map otherEnd) links) 0x02 d
      else
      let b := trainLinks e (dieOut e b d x) (ns ++ ns.map otherEnd) links
      moduleEvent e (dieScrubbed e b d) 0x07 0 d 0 0 0

/-- DIE_RESET_COMPLETE. -/
def execDieResetComplete (d : Fin 4) (ok : Bool) (x : StrapRead) (links : List LinkTrain) (s : State) : Out :=
  runPin (fun e b => dieEnd e b d.val ok x links) s

/-! ### Polls -/

/-- One die answers a poll or does not; the second silence in a row enters stage 2. -/
def pollDie (e : Env) (silent : List Nat) (b : Body) (d : Nat) : Body :=
  let x := fget b.die d
  if x.inReset then b
  else if !(silent.contains d) then modDie b d fun x => { x with noAnswer := 0 }
  else
    let b := modDie b d fun x => { x with noAnswer := min (x.noAnswer + 1) 3 }
    if x.noAnswer = 1 then stageDie e b d else b

/-- The keeper's poll: the dies that do not answer, and whether the H-die does not. -/
def keeperPoll (e : Env) (b : Body) (silent : List Nat) (hub : Bool) : Body :=
  let p := b.kpr.pwr
  if p.off ∨ p.hold ≠ 0 ∨ p.st = .night then b
  else if hub ∨ p.stopped then stageModule e b
  else if b.kpr.start.phase ≠ 0 ∨ p.st = .dusk then b
  else (List.range 4).foldl (pollDie e silent) b

/-- KEEPER_POLL. -/
def execKeeperPoll (silent : List (Fin 4)) (hub : Bool) (s : State) : Out :=
  runPin (fun e b => keeperPoll e b (silent.map (·.val)) hub) s

/-- A context reset has not ended within `CTXTO` × 1,000 ticks: the dies it waits for enter stage 2. -/
def resetTimeout (e : Env) (b : Body) (slot : Nat) : Body :=
  let id := (ctxAt b slot).id
  if !id.resetting ∨ e.tick < id.resetTick.toNat + 1000 * b.kpr.ctxto then b
  else ((id.scrubs.map (· / 9)).eraseDups).foldl (stageDie e) b

/-- CONTEXT_RESET_TIMEOUT. -/
def execContextResetTimeout (slot : Fin 4096) (s : State) : Out := runPin (fun e b => resetTimeout e b slot.val) s

/-! ### The Plumb limits -/

/-- `DETAIL` of WAIT_LIMIT: the opcode of the SYN slot and the token or event it names (Table 12-3); a tag wait has no SYN slot. -/
def waitDetail : WaitOn → Nat × Nat
  | .tok k _ => (0x01, k)
  | .tokMask _ => (0x02, 0)
  | .ev v => (0x06, v)
  | .evClear v => (0x07, v)
  | .seal _ => (0x08, 0)
  | .fence _ _ => (0x09, 0)
  | .rotate => (0x0A, 0)
  | .phase _ k => (0x0E, k % 64)
  | .tags _ => (0, 0)

/-- Is a wait a tag wait? -/
def WaitOn.isTags : WaitOn → Bool
  | .tags _ => true
  | _ => false

/-- The threads of a context whose wait has reached its limit, in the order of R318: die, logical panel, thread, wait. -/
def limitWaits (e : Env) (b : Body) (slot : Nat) : List (Nat × Nat × Nat × Wait) :=
  (List.range 4).flatMap fun d => (List.range 8).flatMap fun lp =>
    match physOf b d lp with
    | none => []
    | some pp =>
      let p := panelAt b (pkey d pp)
      (List.range 16).filterMap fun th =>
        let t := p.thread th
        match t.st, t.wait with
        | .wait, some w =>
          if t.slot = slot ∧ !w.met ∧ w.lim ≠ 0 ∧ w.tick + w.lim ≤ (panelTick e.clk).toNat then some (d, lp, th, w) else none
        | _, _ => none

/-- A wait of a context reaches its limit. -/
def waitLimit (e : Env) (b : Body) (slot : Nat) : Body :=
  match limitWaits e b slot with
  | [] => b
  | (d, lp, th, w) :: _ =>
    let (opc, arg) := waitDetail w.on
    raise b
      { slot := slot, cause := 0x0F, th := some (th, (physOf b d lp).getD 0, lp), die := some d, slotc := if w.on.isTags then 6 else 5,
        baddr := some w.baddr, unit := 16, oper := opc, origin := none, detail := opc * 2 ^ 26 + arg }

/-- WAIT_LIMIT. -/
def execWaitLimit (slot : Fin 4096) (s : State) : Out := runCmd (fun e b => waitLimit e b slot.val) s

/-- The step-progress interval of a context reaches its limit (R319). -/
def stepLimit (e : Env) (b : Body) (slot : Nat) : Body :=
  let c := ctxAt b slot
  match c.plumb.startTick with
  | some t => if c.id.st = .live ∧ t.toNat + c.plumb.limit ≤ e.tick then raise b (ctxFault slot 0x10 16 0) else b
  | none => b

/-- STEP_LIMIT. -/
def execStepLimit (slot : Fin 4096) (s : State) : Out := runCmd (fun e b => stepLimit e b slot.val) s

/-! ### Links and clocks -/

/-- A die-to-die frame fails its CRC (R15, R212): it is replayed; eight consecutive failed replays fail the link and stop the module. -/
def d2dFail (b : Body) (n : Nat) (again : Bool) : Body :=
  let x := fget b.mem.d2d n
  if !x.up then b
  else
    let run := if again then x.run + 1 else 0
    if 8 ≤ run then
      let down (x : D2d) : D2d := { x with up := false, run := 0 }
      let b := d2dSet (d2dSet b n down) (otherEnd n) down
      modPwr (faultAll b 0x02 14) fun p => { p with stopped := true }
    else d2dSet b n fun x => { x with run := run, replay := satAdd 0xFFFFFFFF x.replay 1 }

/-- D2D_CRC_FAIL: the port, and whether the frame is one whose last replay failed. -/
def execD2dCrcFail (port : Fin 16) (again : Bool) (s : State) : Out := runPin (fun _ b => d2dFail b port.val again) s

/-- Zenith loses lock (R24): the C, N, D and M domains stop, every live context faults, until a module reset. -/
def lockLoss (b : Body) : Body :=
  let p := b.kpr.pwr
  if p.off ∨ p.hold ≠ 0 ∨ p.st = .night ∨ p.unlocked then b
  else modPwr (faultAll b 0x01 13) fun p => { p with unlocked := true, clocksOff := true, stopped := true }

/-- ZENITH_LOCK_LOSS. -/
def execZenithLockLoss (s : State) : Out := runPin (fun _ b => lockLoss b) s

/-- Zenith locks (R351): start phase 2 goes on; a module that R24 has stopped stays so. -/
def zenithLocks (b : Body) : Body :=
  let p := b.kpr.pwr
  if p.off ∨ (p.st = .night ∧ b.kpr.start.phase = 0) then b else startGo (modPwr b fun p => { p with unlocked := false })

/-- ZENITH_LOCK. -/
def execZenithLock (s : State) : Out := runPin (fun _ b => zenithLocks b) s

/-- Zenith has not locked 100 ms into start phase 2. -/
def lockTimeout (e : Env) (b : Body) : Body :=
  let p := b.kpr.pwr
  if p.off ∨ p.hold ≠ 0 ∨ b.kpr.start.phase ≠ 2 ∨ !p.unlocked ∨ b.brd.perst then b else enterHold e b 0x04 0

/-- ZENITH_LOCK_TIMEOUT. -/
def execZenithLockTimeout (s : State) : Out := runPin lockTimeout s

end Sys2Proof.Machine
end

