-- ==== Sys2Proof/Machine/Mailbox.lean ====
section
/-! DEFINITION. The keeper mailbox (R368): the plan record (R223), images (R337, R370, R371), fuses and the debug seal (R362), resets
(R348), orderly shutdown (R354). -/

namespace Sys2Proof.Machine

/-! ### The registers -/

/-- Change the mailbox. -/
def modMbox (b : Body) (f : MboxSt → MboxSt) : Body := { b with kpr := { b.kpr with mbox := f b.kpr.mbox } }

/-- Change the fuses. -/
def modFuse (b : Body) (f : FuseSt → FuseSt) : Body := { b with kpr := { b.kpr with fuse := f b.kpr.fuse } }

/-- An operation completes with a status of Table 13-14. -/
def mbEnd (b : Body) (status : Nat) : Body := modMbox b fun m => { m with busy := false, status := status }

/-- Bytes of the data window. -/
def mbWindow (b : Body) (n : Nat) : List (BitVec 8) := cellGetMany hostBg b.kpr.mbox.win 0 n

/-! ### Images (R370) -/

/-- What a target names: 0 the inactive firmware slot, 0x10 + n swatch slot n. -/
inductive ImgTgt where
  | fw
  | sw (n : Nat)
  deriving DecidableEq, Repr

/-- The target of an image operation. -/
def imgTgt (t : Nat) : Option ImgTgt := if t = 0 then some .fw else if 0x10 ≤ t ∧ t < 0x20 then some (.sw (t - 0x10)) else none

/-- Bytes put into a flash slot at an offset; a gap before them holds zeros. -/
def flashPut (l : List (BitVec 8)) (off : Nat) (d : List (BitVec 8)) : List (BitVec 8) :=
  l.take off ++ List.replicate (off - l.length) 0 ++ d ++ l.drop (off + d.length)

/-- IMG_CHUNK: `ARG` holds the offset in KiB and the length; the slot is no longer valid. A swatch slot holds 256 KiB. -/
def imgChunk (b : Body) (t : Nat) : Body :=
  let a := b.kpr.mbox.arg.toNat
  let off := 1024 * fld a 31 11
  let n := fld a 10 0
  let d := mbWindow b n
  if n = 0 ∨ 1024 < n then mbEnd b 1
  else match imgTgt t with
    | none => mbEnd b 1
    | some .fw =>
      let s := fwOther b
      mbEnd (modFw b fun f => { f with slot := fmod f.slot s fun x => { x with bytes := flashPut x.bytes off d, valid := false } }) 0
    | some (.sw k) =>
      if 262144 < off + n then mbEnd b 1
      else mbEnd { b with kpr := { b.kpr with swatch := fmod b.kpr.swatch k fun x => { x with bytes := flashPut x.bytes off d, valid := false } } } 0

/-- IMG_COMMIT of the inactive firmware slot. -/
def commitFw (b : Body) : Body :=
  let s := fwOther b
  let d := (fget b.kpr.fw.slot s).bytes
  let svn := bytesAt d 8 1
  let set (v : Bool) (b : Body) : Body := modFw b fun f => { f with slot := fmod f.slot s fun x => { x with valid := v, svn := svn, ranges := imageRanges d } }
  if !imageOkFw d then mbEnd (set false b) 2
  else if svn < b.kpr.fuse.fwmin then mbEnd (set false b) 3
  else mbEnd (set true b) 0

/-- IMG_COMMIT of a swatch slot (R337). -/
def commitSw (b : Body) (k : Nat) : Body :=
  let d := (fget b.kpr.swatch k).bytes
  let set (v : Bool) (b : Body) : Body := { b with kpr := { b.kpr with swatch := fmod b.kpr.swatch k fun x => { x with valid := v } } }
  if !(swWhole d) || !(swSigned b d) then mbEnd (set false b) 2
  else if swOld b k d then mbEnd (set false b) 3
  else mbEnd (set true b) 0

/-- IMG_COMMIT. -/
def imgCommit (b : Body) (t : Nat) : Body :=
  match imgTgt t with
  | none => mbEnd b 1
  | some .fw => commitFw b
  | some (.sw k) => commitSw b k

/-- FW_ACTIVATE (R371): it takes the module scaffold first; the operation stays in progress until the activation ends. -/
def fwActivate (e : Env) (b : Body) : Body :=
  match tryGroup b { group := grpKey 0 0, act := 9, host := true, seq := none, arg := 0 } with
  | none => mbEnd b 8
  | some held =>
    if fwRefusal b ≠ 0 then mbEnd b (fwRefusal b)
    else fwArm e (modMbox held fun m => { m with busy := true }) (b.kpr.mbox.arg.toNat % 65536) none

/-! ### Fuses (R362) -/

/-- May a fuse be written: the module is CLEAR and every context FREE? -/
def fuseable (b : Body) : Bool :=
  b.kpr.pwr.st == .clear && !b.kpr.pwr.busy && decide (b.kpr.start.phase = 0) && (b.ctx.slot.all fun c => c.2.id.st == .free)

/-- OPKEY_FUSE: a digest that is fused stays as it is. -/
def opkeyFuse (b : Body) : Body :=
  if !fuseable b then mbEnd b 4
  else mbEnd (modFuse b fun f => { f with opkey := f.opkey.or (some (mbWindow b 48)) }) 0

/-- FWMIN_FUSE raises the minimum to the active image's security version. -/
def fwminFuse (b : Body) : Body :=
  if !fuseable b then mbEnd b 4
  else mbEnd (modFuse b fun f => { f with fwmin := max f.fwmin (fget b.kpr.fw.slot b.kpr.fw.active).svn }) 0

/-- SEAL_ARM. -/
def sealArm (e : Env) (b : Body) : Body :=
  if b.kpr.mbox.arg.toNat = 0x5EA1 then mbEnd (modFuse b fun f => { f with armed := true, armTick := e.clk.tick }) 0
  else mbEnd (modFuse b fun f => { f with armed := false }) 7

/-- Is the seal armed, and its 1,000,000 ticks not over? -/
def armedNow (e : Env) (b : Body) : Bool := b.kpr.fuse.armed && decide (e.tick < b.kpr.fuse.armTick.toNat + 1000000)

/-- SEAL_BLOW. -/
def sealBlow (e : Env) (b : Body) : Body :=
  if !armedNow e b ∨ b.kpr.mbox.arg.toNat ≠ 0xA15E then mbEnd (modFuse b fun f => { f with armed := false }) 7
  else if !fuseable b then mbEnd b 4
  else mbEnd (modFuse b fun f => { f with sealed := true, armed := false }) 0

/-- The arm window passes. -/
def sealExpire (e : Env) (b : Body) : Body :=
  if b.kpr.fuse.armed ∧ !armedNow e b then modFuse b fun f => { f with armed := false } else b

/-! ### Resets (R348) and shutdown (R354) -/

/-- RESET with a target: in HOLD every one begins the start sequence again. -/
def mbReset (e : Env) (b : Body) (t : Nat) : Body :=
  if 4 < t then mbEnd b 1
  else if t = 0 ∨ b.kpr.pwr.hold ≠ 0 then moduleReset e b true
  else if b.kpr.pwr.st = .dusk ∨ b.kpr.pwr.st = .night ∨ b.kpr.start.phase ≠ 0 then mbEnd b 4
  else mbEnd (dieReset e b (t - 1)) 0

/-- QUICK of the shutdown in progress. -/
def quickOff (b : Body) : Bool := bit b.kpr.mbox.arg.toNat 0

/-- The last steps of a shutdown: the orderly flag in flash, `OFFOK`. -/
def shutdownEnd (b : Body) : Body := mbEnd (modStart b fun s => { s with ordFlash := true, offOk := true }) 0

/-- SHUTDOWN begins: refused with STATE, or the module enters NIGHT. A QUICK one is then complete. -/
def shutdownBegin (e : Env) (b : Body) : Body :=
  if !(b.ctx.slot.all fun c => c.2.id.st == .free) || hostHolds b || b.kpr.start.phase != 0 then mbEnd b 4
  else
    let b := modMbox (nightEnter e b false) fun m => { m with busy := true }
    if quickOff b then shutdownEnd b else b

/-- The full test of a shutdown ends: its result and the operating hours go to flash, failing units to the history. A refused test
writes no pass record. -/
def shutdownTest (e : Env) (b : Body) (t : TestOut) : Body :=
  match t with
  | .pass => hardenAll e (histAdd e (recordTest b true 1) 11 0 0x0D 0 none 0xFF 0 0)
  | .fail us _ => bistFails e (recordTest b true 2) us
  | .fuse => recordTest b true 2
  | .refused c r => modStart b fun s => { s with lastRes := 3, why := whyCode c r }

/-- Is a shutdown waiting for its test? -/
def shutdownRuns (b : Body) : Bool := b.kpr.mbox.busy && decide (b.kpr.mbox.op = 0x0A)

/-! ### GO -/

/-- An operation starts. In HOLD only RESET, IMG_CHUNK and IMG_COMMIT are accepted (R355). -/
def mbOp (e : Env) (b : Body) (op t : Nat) : Body :=
  if b.kpr.pwr.hold ≠ 0 ∧ op ≠ 2 ∧ op ≠ 3 ∧ op ≠ 9 then mbEnd b 4
  else match op with
    | 1 => mbEnd (planLoad b (mbWindow b 304)) 0
    | 2 => imgChunk b t
    | 3 => imgCommit b t
    | 4 => fwActivate e b
    | 5 => opkeyFuse b
    | 6 => fwminFuse b
    | 7 => sealArm e b
    | 8 => sealBlow e b
    | 9 => mbReset e b t
    | 10 => shutdownBegin e b
    | _ => mbEnd b 1

/-- A write of `KPR_MBCMD` with `GO` 1: ignored while an operation is in progress. -/
def mbGo (e : Env) (b : Body) (op t : Nat) : Body :=
  if b.kpr.mbox.busy ∨ b.kpr.pwr.off ∨ b.kpr.start.phase = 1 ∧ b.kpr.pwr.hold = 0 then b
  else mbOp e (modMbox b fun m => { m with op := op, tgt := t, status := 0 }) op t

/-- A write of `KPR_MBCMD`. -/
def mbcmdWrite (e : Env) (b : Body) (v : Nat) : Body :=
  if bit v 31 then mbGo e b (fld v 23 16) (fld v 15 8) else modMbox b fun m => { m with op := fld v 23 16, tgt := fld v 15 8 }

/-- SHUTDOWN with the end of its full test. -/
def shutdownAll (e : Env) (b : Body) (t : TestOut) : Body :=
  let b := mbGo e b 10 0
  if shutdownRuns b then shutdownEnd (shutdownTest e b t) else b

/-! ### The rows -/

/-- PLAN_LOAD. -/
def execPlanLoad (s : State) : Out := runPin (fun e b => mbGo e b 1 0) s

/-- IMG_CHUNK. -/
def execImgChunk (tgt : BitVec 8) (s : State) : Out := runPin (fun e b => mbGo e b 2 tgt.toNat) s

/-- IMG_COMMIT. -/
def execImgCommit (tgt : BitVec 8) (s : State) : Out := runPin (fun e b => mbGo e b 3 tgt.toNat) s

/-- FW_ACTIVATE. -/
def execFwActivate (s : State) : Out := runPin (fun e b => mbGo e b 4 0) s

/-- OPKEY_FUSE. -/
def execOpkeyFuse (s : State) : Out := runPin (fun e b => mbGo e b 5 0) s

/-- FWMIN_FUSE. -/
def execFwminFuse (s : State) : Out := runPin (fun e b => mbGo e b 6 0) s

/-- SEAL_ARM. -/
def execSealArm (s : State) : Out := runPin (fun e b => mbGo e b 7 0) s

/-- SEAL_ARM_EXPIRY. -/
def execSealArmExpiry (s : State) : Out := runPin sealExpire s

/-- SEAL_BLOW. -/
def execSealBlow (s : State) : Out := runPin (fun e b => mbGo e b 8 0) s

/-- MAILBOX_RESET_MODULE. -/
def execMailboxResetModule (s : State) : Out := runPin (fun e b => mbGo e b 9 0) s

/-- MAILBOX_RESET_DIE. -/
def execMailboxResetDie (d : Fin 4) (s : State) : Out := runPin (fun e b => mbGo e b 9 (d.val + 1)) s

/-- SHUTDOWN: the end of its full test. -/
def execShutdown (t : TestOut) (s : State) : Out := runPin (fun e b => shutdownAll e b t) s

end Sys2Proof.Machine
end

