-- ==== Sys2Proof/Machine/RegWrite.lean ====
section
/-! DEFINITION. Register writes and accesses from outside (R394 to R402): what a write of each page does, who may write what, 64-bit
pairs, malformed accesses. -/

namespace Sys2Proof.Machine

/-! ### Writes by page -/

/-- A new value when it lies within its limits, else the old one. -/
def keepIf (ok : Bool) (new old : Nat) : Nat := if ok then new else old

/-- A write of a keeper register. -/
def kprWrite (e : Env) (b : Body) (o v : Nat) : Body :=
  let k := b.kpr
  if o = 0x40 then
    { b with kpr := { k with ctxto := keepIf (fld v 31 16 != 0) (fld v 31 16) k.ctxto, noAutoMod := !(bit v 1), noAutoDie := !(bit v 0) } }
  else if o = 0x44 then
    { b with kpr := { k with hbPeriod := keepIf (decide (100 ≤ fld v 31 16)) (fld v 31 16) k.hbPeriod
                             hbMiss := keepIf (decide (2 ≤ fld v 7 0)) (fld v 7 0) k.hbMiss } }
  else if o = 0x48 then (if bit v 15 then { b with kpr := { k with ev := [], evOvf := 0 } } else b)
  else if o = 0x4C then { b with kpr := { k with histSel := BitVec.ofNat 32 v &&& 0x800FFFFF#32 } }
  else if o = 0x80 then pwrWrite e b v
  else if o = 0x84 then modStart b fun s => { s with flagForce := bit v 14 }
  else if o = 0x88 then modStart b fun s => { s with bistWin := v % 65536 }
  else if o = 0xC0 then mbcmdWrite e b v
  else if o = 0xC4 then modMbox b fun m => { m with arg := BitVec.ofNat 32 v }
  else if 0xC00 ≤ o then modMbox b fun m => { m with win := cellSetMany hostBg m.win (o - 0xC00) (le 4 v) }
  else b

/-- A write of a host-page register: the bases of the admin ring are writable while it is disabled. -/
def hstWrite (b : Body) (o v : Nat) : Body :=
  let a := b.host.ar
  let set (a : AdminRing) : Body := { b with host := { b.host with ar := a } }
  let low (w : BitVec 64) : BitVec 64 := BitVec.ofNat 64 (hi32 w.toNat * 2 ^ 32 + v % 2 ^ 32 / 64 * 64)
  let high (w : BitVec 64) : BitVec 64 := BitVec.ofNat 64 (v % 2 ^ 32 * 2 ^ 32 + lo32 w.toNat)
  if o = 0x40 then arctlWrite b v
  else if a.en then b
  else match o with
    | 0x44 => set { a with base := low a.base }
    | 0x48 => set { a with base := high a.base }
    | 0x4C => set { a with cpl := low a.cpl }
    | 0x50 => set { a with cpl := high a.cpl }
    | _ => b

/-- A write of a memory error log's status. -/
def logWrite (l : MemLog) (v : Nat) : MemLog := if bit v 15 then { recs := [], ovf := 0 } else l

/-- A write of an HBM register. -/
def hbmWrite (b : Body) (s o v : Nat) : Body :=
  if o = 0x40 then modStack b s fun x =>
    { x with chThresh := keepIf (decide (1 ≤ fld v 23 16 ∧ fld v 23 16 ≤ 128)) (fld v 23 16) x.chThresh
             ceRow := keepIf (fld v 15 8 != 0) (fld v 15 8) x.ceRow
             spare := keepIf (decide (fld v 2 0 ≤ 4)) (fld v 2 0) x.spare }
  else if o = 0xF0 then modStack b s fun x => { x with log := logWrite x.log v }
  else b

/-- A write of a Tier B register. -/
def tbWrite (b : Body) (o v : Nat) : Body :=
  if o = 0x40 then modTb b fun x => { x with lining := keepIf (decide (fld v 10 0 ≤ 1024)) (fld v 10 0) x.lining }
  else if o = 0xF0 then modTb b fun x => { x with log := logWrite x.log v }
  else b

/-- A write of a stratum register. -/
def strWrite (b : Body) (d o v : Nat) : Body :=
  if o = 0x40 then
    fbSync (modStr b d fun x =>
      { x with fbres := keepIf (decide (fld v 23 16 ≤ 64 ∧ fld v 23 16 + x.pinned.length ≤ 128)) (fld v 23 16) x.fbres
               cacheOff := !(bit v 0), cache := if bit v 0 then x.cache else [] }) d
  else if o = 0xF0 then modStr b d fun x => { x with log := logWrite x.log v }
  else b

/-- A write of a C-die register. -/
def dieWrite (b : Body) (d o v : Nat) : Body :=
  if o = 0x4C then modDie b d fun x => { x with interval := v % 65536 }
  else if o = 0x54 then modDie b d fun x => { x with need := v % 64 }
  else if o = 0x58 then modDie b d fun x =>
    { x with ceil := keepIf (fld v 7 0 == 0 || decide (40 ≤ fld v 7 0 ∧ fld v 7 0 ≤ 105)) (fld v 7 0) x.ceil }
  else b

/-- A write of `PNL_FMCTL` (R335): a panel that serves no logical panel is retired at once. -/
def pnlWrite (e : Env) (b : Body) (k o v : Nat) : Body :=
  if o = 0xA4 then
    let st := (panelAt b k).st
    let b := modPanel b k fun p => { p with retire := bit v 31 || p.st == .retired, classOff := 63 - v % 64 }
    if bit v 31 ∧ (st = .spare ∨ st = .standby) then retireNow e b k else b
  else b

/-- A write of a board register. -/
def brdWrite (b : Body) (o v : Nat) : Body :=
  if o = 0x80 then
    { b with brd := { b.brd with
      minStep := keepIf (decide (fld v 15 13 ≤ 4)) (fld v 15 13) b.brd.minStep
      pLimit := keepIf (decide (1000 ≤ fld v 11 0 ∧ fld v 11 0 ≤ 3200)) (fld v 11 0) b.brd.pLimit } }
  else b

/-- A write of a Sander register. -/
def sndWrite (b : Body) (o v : Nat) : Body :=
  if o = 0x40 then { b with mem := { b.mem with snd := { b.mem.snd with period := fld v 31 16, tierB := bit v 2, strat := bit v 1, tierA := bit v 0 } } }
  else b

/-- A 32-bit write to a page. Reserved registers and RO fields discard it. -/
def pageWrite (e : Env) (b : Body) (p : Pg) (o v : Nat) : Body :=
  match p with
  | .msix n =>
    sendPending { b with host := { b.host with vtable := fset b.host.vtable (n * 1024 + o / 4) (BitVec.ofNat 32 (vecWord (n * 1024 + o / 4) v)) } }
  | .pba => b
  | .ctx s => ctxWrite e b s o v
  | _ =>
    if o < 0x40 then headerWrite b p o v
    else match p with
      | .kpr => kprWrite e b o v
      | .hst => hstWrite b o v
      | .brd => brdWrite b o v
      | .snd => sndWrite b o v
      | .mrg => if o = 0x40 then marginCtl b v else b
      | .tb => tbWrite b o v
      | .hbm s => hbmWrite b s o v
      | .die d => dieWrite b d o v
      | .str d => strWrite b d o v
      | .pnl k => pnlWrite e b k o v
      | _ => b

/-! ### Requesters (R68, R367, R397) -/

/-- The capture word of a requester. -/
def reqNum : Req → Nat
  | .pcie => 0
  | .i3c => 1
  | .thread p th => 2 + 16 * pkey p.die.val p.pp.val + th.val

/-- Does the I3C target reach a page without regard to the power state: the keeper page always, in HOLD the pages of R355? -/
def i3cPage (b : Body) (p : Pg) : Bool :=
  p == .kpr || (b.kpr.pwr.hold != 0 && (match p with | .hub | .d2d _ => true | _ => false))

/-- May a requester write a page now? A thread writes its own context's page. -/
def mayWrite (b : Body) (r : Req) (p : Pg) : Bool :=
  match r with
  | .pcie => served b p
  | .i3c => (p == .kpr && !b.kpr.pwr.off) || (p == .fab && served b p)
  | .thread q th =>
    let t := (panelAt b (pkey q.die.val q.pp.val)).thread th.val
    t.st != .free && p == .ctx t.slot && served b p

/-- A requester's place in the order of R395. -/
def reqOrd : Req → Nat
  | .thread p th => 16 * pkey p.die.val p.pp.val + th.val
  | .pcie => 2 ^ 20
  | .i3c => 2 ^ 20 + 1

/-- A 4-byte write by a requester is received (R395, R398): a write to a writable `_LO` is held, and one to its `_HI` commits
it with its own. -/
def reqPut (b : Body) (r : Req) (off v : Nat) : Body :=
  let a := accOf b (reqNum r)
  let b := noteWrite b (reqNum r)
  match pageAt (off / 4096) with
  | none => b
  | some p =>
    if !mayWrite b r p then b
    else
      let o := off % 4096
      if p = .hst ∧ isLo p o then modAcc b (reqNum r) fun a => { a with heldOff := some off, heldVal := BitVec.ofNat 32 v }
      else
        let b := if p = .hst ∧ isHi p o ∧ a.heldOff = some (off - 4) then regPut b ⟨reqOrd r, off - 4, a.heldVal.toNat⟩ else b
        regPut b ⟨reqOrd r, off, v⟩

/-- The failure-domain tags (R226): each register takes one I3C write per power-on. -/
def fdWrite (b : Body) (o v : Nat) : Body :=
  if !served b .fab then b
  else match o with
    | 0x4C => if b.fab.fdTrayWr then b else { b with fab := { b.fab with fdTray := BitVec.ofNat 32 v, fdTrayWr := true } }
    | 0x50 => if b.fab.fdPwrWr then b else { b with fab := { b.fab with fdPwr := BitVec.ofNat 32 v, fdPwrWr := true } }
    | _ => b

/-- A received write takes effect, when its page still serves its registers. -/
def regApply (e : Env) (b : Body) (x : RegW) : Body :=
  match pageAt (x.off / 4096) with
  | none => b
  | some p =>
    if x.ord = reqOrd .i3c then
      if b.kpr.pwr.off then b
      else if p = .fab then fdWrite b (x.off % 4096) x.val
      else pageWrite e b p (x.off % 4096) x.val
    else if served b p then pageWrite e b p (x.off % 4096) x.val
    else b

/-- The K cycle ends: the writes it received take effect in order, and the next one has set no summary bit (R395). -/
def regFlush (e : Env) (b : Body) : Body :=
  let q := b.dir.regq
  let b := { b with dir := { b.dir with regq := [] } }
  let b := if q.isEmpty then b else pinSync (q.foldl (regApply e) b)
  { b with dir := { b.dir with errNew := [] } }

/-- A 4-byte read by a requester. -/
def reqReadAll (e : Env) (b : Body) (r : Req) (off : Nat) : Nat × Body :=
  let (v, b') := reqRead e b (reqNum r) off
  match r, pageAt (off / 4096) with
  | .i3c, some p => if i3cPage b p && !b.kpr.pwr.off then (pageRead e b p (off % 4096), b') else (v, b')
  | _, _ => (v, b')

/-- The value a read has returned is kept for its requester. -/
def keepRead (x : Nat × Body) (r : Req) : Body := modAcc x.2 (reqNum r) fun a => { a with lastRead := le 4 x.1 }

/-- A host write of a register that has a row of its own: the row is the write taking effect. -/
def pcieWrite (e : Env) (b : Body) (p : Pg) (o v : Nat) : Body :=
  let b := noteWrite b (reqNum .pcie)
  if served b p then pageWrite e b p o v else b

/-! ### The rows -/

/-- The same by offset. -/
def pcieWriteAt (e : Env) (b : Body) (off v : Nat) : Body :=
  match pageAt (off / 4096) with
  | none => noteWrite b (reqNum .pcie)
  | some p => pcieWrite e b p (off % 4096) v

/-- HAZLOGSTAT_CLR. -/
def execHazlogstatClr (slot : Fin 4096) (s : State) : Out := runPin (fun e b => pcieWrite e b (.ctx slot.val) 0x204 (2 ^ 15)) s

/-- ILLSTAT_CLR. -/
def execIllstatClr (slot : Fin 4096) (s : State) : Out := runPin (fun e b => pcieWrite e b (.ctx slot.val) 0x20C (2 ^ 15)) s

/-- STRIPSTAT_CLR. -/
def execStripstatClr (slot : Fin 4096) (s : State) : Out := runPin (fun e b => pcieWrite e b (.ctx slot.val) 0x214 (2 ^ 15)) s

/-- FAULTSTAT_CLR. -/
def execFaultstatClr (slot : Fin 4096) (s : State) : Out := runPin (fun e b => pcieWrite e b (.ctx slot.val) 0x368 (2 ^ 15)) s

/-- CLRCNT: a write of `CTX_NUMCTL` with bit 31 set. -/
def execClrcnt (slot : Fin 4096) (w : BitVec 32) (s : State) : Out :=
  runPin (fun e b => pcieWrite e b (.ctx slot.val) 0x280 (w.toNat % 2 ^ 31 + 2 ^ 31)) s

/-- The page of a memory error log. -/
def logPg : LogPage → Pg
  | .hbm s => .hbm s.val
  | .tierB => .tb
  | .stratum d => .str d.val

/-- MEM_LOGSTAT_CLR. -/
def execMemLogstatClr (pg : LogPage) (s : State) : Out := runPin (fun e b => pcieWrite e b (logPg pg) 0xF0 (2 ^ 15)) s

/-- KPR_EVSTAT_CLR. -/
def execKprEvstatClr (s : State) : Out := runPin (fun e b => pcieWrite e b .kpr 0x48 (2 ^ 15)) s

/-- PNL_FMCTL_RETIRE: a write of `PNL_FMCTL` with bit 31 set. -/
def execPnlFmctlRetire (p : PhysRef) (w : BitVec 32) (s : State) : Out :=
  runPin (fun e b => pcieWrite e b (.pnl (pkey p.die.val p.pp.val)) 0xA4 (w.toNat % 2 ^ 31 + 2 ^ 31)) s

/-- ERRTEST: a write of 1 to `PG_CTRL.ERRTEST` of a page. -/
def execErrtest (page : Fin 65536) (s : State) : Out := runPin (fun e b => pcieWriteAt e b (4096 * page.val + 0x1C) (2 ^ 31)) s

/-- ERRSUM_CLEAR. -/
def execErrsumClear (page : Fin 65536) (w : BitVec 32) (s : State) : Out :=
  runPin (fun e b => pcieWriteAt e b (4096 * page.val + 0x24) w.toNat) s

/-- ADMIN_RING_ENABLE: a write of `HST_ARCTL` with `EN` 1. -/
def execAdminRingEnable (w : BitVec 32) (s : State) : Out := runPin (fun e b => pcieWrite e b .hst 0x40 (w.toNat % 2 ^ 31 + 2 ^ 31)) s

/-- ADMIN_RING_DISABLE: a write of `HST_ARCTL` with `EN` 0. -/
def execAdminRingDisable (w : BitVec 32) (s : State) : Out := runPin (fun e b => pcieWrite e b .hst 0x40 (w.toNat % 2 ^ 31)) s

/-- MARGIN_START: a write of `MRG_CTL` with `START` 1. -/
def execMarginStart (w : BitVec 32) (s : State) : Out := runPin (fun e b => pcieWrite e b .mrg 0x40 (w.toNat % 2 ^ 31 + 2 ^ 31)) s

/-- CONTRAIL_ROLE_WRITE: a write of `CTX_CONTRAIL`. -/
def execContrailRoleWrite (slot : Fin 4096) (w : BitVec 32) (s : State) : Out :=
  runPin (fun e b => pcieWrite e b (.ctx slot.val) 0x358 w.toNat) s

/-- PAIR_LO_READ. -/
def execPairLoRead (r : Req) (off : Fin 268435456) (s : State) : Out := runBody (fun e b => keepRead (reqReadAll e b r off.val) r) s

/-- PAIR_HI_READ. -/
def execPairHiRead (r : Req) (off : Fin 268435456) (s : State) : Out := runBody (fun e b => keepRead (reqReadAll e b r off.val) r) s

/-- PAIR_LO_WRITE. -/
def execPairLoWrite (r : Req) (off : Fin 268435456) (v : BitVec 32) (s : State) : Out := runCmd (fun _ b => reqPut b r off.val v.toNat) s

/-- PAIR_HI_WRITE. -/
def execPairHiWrite (r : Req) (off : Fin 268435456) (v : BitVec 32) (s : State) : Out := runCmd (fun _ b => reqPut b r off.val v.toNat) s

/-- REGISTER_WRITE. -/
def execRegisterWrite (r : Req) (off : Fin 268435456) (v : BitVec 32) (s : State) : Out := runCmd (fun _ b => reqPut b r off.val v.toNat) s

/-- Is a BAR0 access malformed (R394)? -/
def malformed (off len : Nat) : Bool := !(len == 4 && off % 4 == 0) && !(len == 8 && off % 8 == 0)

/-- A malformed access is counted; a read returns zeros, a write is discarded. -/
def badAccess (b : Body) (write : Bool) (off len : Nat) : Body :=
  if !malformed off len ∨ b.kpr.pwr.off ∨ b.kpr.pwr.hold ≠ 0 ∨ b.kpr.pwr.st = .night then b
  else
    let b := noteWrite { b with dir := { b.dir with badAcc := satAdd 0xFFFFFFFF b.dir.badAcc 1 } } 0
    if write then b else modAcc b 0 fun a => { a with lastRead := List.replicate len 0 }

/-- MALFORMED_ACCESS. -/
def execMalformedAccess (write : Bool) (off : Fin 268435456) (len : Nat) (s : State) : Out :=
  runPin (fun _ b => badAccess b write off.val len) s

end Sys2Proof.Machine
end

