-- ==== Sys2Proof/Machine/Board.lean ====
section
/-! DEFINITION. Input power, rails, sensors, throttling and the boundary scan (spec 14). -/

namespace Sys2Proof.Machine

/-! ### Input power and rails (R374, R379, R382, R392) -/

/-- The input goes away: hardware releases FAULT_N and THERMTRIP_N. -/
def inputGone (b : Body) : Body := modBrd b fun r => { r with inputOn := false, faultN := false, thermTrip := false }

/-- The input falls below turn-off: cause 5 after an orderly shutdown, else 1. -/
def undervoltage (e : Env) (b : Body) : Body := inputGone (powerLoss e b (if b.kpr.start.offOk then 5 else 1) none)

/-- INPUT_UNDERVOLTAGE. -/
def execInputUndervoltage (s : State) : Out := runPin undervoltage s

/-- The input is too high: off until it falls below 60.5 V. -/
def overvoltage (e : Env) (b : Body) : Body := modBrd (powerLoss e b 2 none) fun r => { r with inputOn := false, ovHold := true }

/-- INPUT_OVERVOLTAGE. -/
def execInputOvervoltage (s : State) : Out := runPin overvoltage s

/-- OVERVOLTAGE_RESTART: a power-on reset; the straps read as before. -/
def execOvervoltageRestart (s : State) : Out := .next (if s.body.brd.ovHold then powerOn s s.body.brd.slotId else s)

/-- PRSNT_N opens: the hot-swap controller turns the input off. -/
def presenceOpen (e : Env) (b : Body) : Body := modBrd (inputGone (powerLoss e b 6 none)) fun r => { r with prsntOpen := true }

/-- PRSNT_N_OPEN. -/
def execPrsntNOpen (s : State) : Out := runPin presenceOpen s

/-- A powered rail fails. With rail 10 gone nothing is written to flash, and FAULT_N stays released. -/
def railFault (e : Env) (b : Body) (n : Nat) : Body :=
  if b.kpr.pwr.off ∨ !((poweredRails b).contains n) then b
  else if n = 10 then powerLoss e b b.brd.lastOffCause b.brd.lastOffRail
  else modBrd (powerLoss e b 3 (some n)) fun r => { r with faultN := true }

/-- RAIL_FAULT. -/
def execRailFault (rail : Fin 11) (s : State) : Out := runPin (fun e b => railFault e b rail.val) s

/-- A thermal trip. -/
def thermalTrip (e : Env) (b : Body) : Body :=
  if b.kpr.pwr.off then b else modBrd (powerLoss e b 4 none) fun r => { r with thermTrip := true }

/-- THERMAL_TRIP. -/
def execThermalTrip (s : State) : Out := runPin thermalTrip s

/-- FAST (R390): the input current exceeds 90 A. -/
def fastOn (e : Env) (b : Body) : Body := if b.kpr.pwr.off then b else modBrd b fun r => { r with fast := true, fastTick := e.clk.tick }

/-- FAST. -/
def execFast (s : State) : Out := runPin fastOn s

/-- FAST has been in force for 1 ms. -/
def fastOff (e : Env) (b : Body) : Body :=
  if b.brd.fast ∧ b.brd.fastTick.toNat + 1000 ≤ e.tick then modBrd b fun r => { r with fast := false } else b

/-- FAST_EXPIRY. -/
def execFastExpiry (s : State) : Out := runPin fastOff s

/-- The mate loop (R376): while it is open every port is DOWN with cause NO_ANSWER. -/
def mateLoop (b : Body) (closed : Bool) : Body :=
  let b := modBrd b fun r => { r with mateOpen := !closed }
  if closed then b
  else fabOutcome ((List.range 6).foldl (fun b n => modPort (portDown b n 1) n fun p => { p with cause := 1 }) b)

/-- MATE_LOOP_CHANGE. -/
def execMateLoopChange (closed : Bool) (s : State) : Out := runPin (fun _ b => mateLoop b closed) s

/-! ### Throttle causes (R389, Table 14-10). Temperatures in 1/16 °C. -/

/-- One cause of one die at a reading: a step up at the limit, a step down once ten readings in a row lie below the release value. -/
def causeStep (t : Thr) (c : Nat) (v limit rel : Int) : Thr :=
  let s := fget t.step c
  if limit ≤ v then { step := fset t.step c (min (s + 1) 4), below := fset t.below c 0 }
  else if v < rel then
    let n := min (fget t.below c + 1) 10
    { step := fset t.step c (if n = 10 then s - 1 else s), below := fset t.below c n }
  else { t with below := fset t.below c 0 }

/-- The hottest stack of a C-die. -/
def stackMax (b : Body) (d : Nat) : Int := max (fget b.brd.stackTemp (2 * d)) (fget b.brd.stackTemp (2 * d + 1))

/-- Limit of the DIE cause. -/
def dieLimit (b : Body) (d : Nat) : Int :=
  let c := (fget b.die d).ceil
  16 * (if c = 0 then 105 else (c : Int))

/-- The causes of one C-die at a reading; a die in reset holds none. -/
def dieCauses (b : Body) (d : Nat) : Body :=
  if (fget b.die d).inReset then b
  else
    let t := fget b.brd.thr d
    let t := causeStep t 1 (fget b.brd.dieTemp d) (dieLimit b d) (dieLimit b d - 80)
    let t := causeStep t 2 (stackMax b d) 1520 1440
    let t := causeStep t 3 (fget b.brd.dieTemp 4) 1680 1600
    let t := causeStep t 4 b.brd.outlet 912 864
    let t := causeStep t 5 (b.brd.power % 65536 : Nat) b.brd.pLimit (b.brd.pLimit - 100)
    modBrd b fun r => { r with thr := fset r.thr d t }

/-! ### Coolant (R386) -/

/-- Ten times the least flow of the inlet's band, in L/min. -/
def leastFlow (inlet : Int) : Int := if inlet ≤ 480 then 20 else if inlet ≤ 560 then 25 else if inlet ≤ 640 then 32 else 40

/-- Does the estimate lie below the least flow? -/
def flowLow (power : Nat) (inlet outlet : Int) : Bool :=
  decide (1000 ≤ power) && decide (inlet < outlet) && decide (12 * (power : Int) < 5 * leastFlow inlet * (outlet - inlet))

/-- The coolant flags: LOWFLOW changes after ten readings in a row that speak against it. -/
def coolFlags (r : Brd) : Brd :=
  let low := flowLow (r.power % 65536) r.inlet r.outlet
  let n := if low = r.lowFlow then 0 else r.flowCnt + 1
  { r with
    lowFlow := if 10 ≤ n then low else r.lowFlow
    flowCnt := if 10 ≤ n then 0 else n
    cold := decide (r.inlet < 320)
    inletHi := decide (720 < r.inlet) }

/-! ### Critical levels (R391) -/

/-- The values that have a critical level: value, release value, critical level. INLET has no release value: its critical level stands
for it. -/
def critValues (b : Body) : List (Int × Int × Int) :=
  ((List.range 4).map fun d => (fget b.brd.dieTemp d, dieLimit b d - 80, 1840)) ++
  ((List.range 8).map fun s => (fget b.brd.stackTemp s, 1440, 1680)) ++
  [(fget b.brd.dieTemp 4, 1600, 1840), (b.brd.outlet, 864, 1040), (b.brd.inlet, 800, 800)]

/-- A value is critical: NIGHT, as a request with `FORCE` 1 enters it. -/
def critEnter (e : Env) (b : Body) : Body :=
  let b := modBrd b fun r => { r with crit := true, critOk := none }
  if b.kpr.pwr.hold ≠ 0 ∨ b.kpr.pwr.st = .night then b else nightEnter e b true

/-- Every critical value has stayed below its release value for 1 s: a held request for CLEAR goes on. -/
def critLeave (e : Env) (b : Body) : Body :=
  let b := modBrd b fun r => { r with crit := false, critOk := none }
  let p := b.kpr.pwr
  if p.busy ∧ p.goal = 0 ∧ p.st = .night ∧ b.kpr.start.phase = 0 then nightWake e b else b

/-- The critical levels at a reading. -/
def critCheck (e : Env) (b : Body) : Body :=
  let vs := critValues b
  if vs.any fun x => decide (x.2.2 ≤ x.1) then (if b.brd.crit then modBrd b fun r => { r with critOk := none } else critEnter e b)
  else if !b.brd.crit then b
  else if vs.all fun x => decide (x.1 < x.2.1) then
    match b.brd.critOk with
    | none => modBrd b fun r => { r with critOk := some e.clk.tick }
    | some t => if t.toNat + 1000000 ≤ e.tick then critLeave e b else b
  else modBrd b fun r => { r with critOk := none }

/-! ### A reading -/

/-- The registers of a reading. -/
def takeSensors (b : Body) (x : Sensors) : Body :=
  let pw := min x.power 65535
  modBrd b fun r =>
    { r with
      volt := x.volt % 65536 * 65536 + x.cur % 65536
      power := max (r.power / 65536) pw * 65536 + pw
      rail := x.rails.zipIdx.foldl (fun m y => fset (fset m y.2 y.1.1) (16 + y.2) y.1.2) r.rail
      railBad := (List.range 11).foldl (fun m n => fset m n (x.bad.contains n)) r.railBad
      dieTemp := x.dies.zipIdx.foldl (fun m y => fset m y.2 y.1) r.dieTemp
      inlet := x.inlet
      outlet := x.outlet }

/-- `THR_TIME` counts the 100 ticks of a reading at which some C-die is above step 0. -/
def thrTimeUp (b : Body) : Body :=
  if (List.range 4).any fun d => thrStep b d != 0 then modBrd b fun r => { r with thrTime := satAdd 0x9FFFFFFFF r.thrTime 1 } else b

/-- SENSOR_READING. -/
def sensorReading (e : Env) (b : Body) (x : Sensors) : Body :=
  if b.kpr.pwr.off then b
  else
    let b := modBrd (takeSensors b x) coolFlags
    let b := thrTimeUp ((List.range 4).foldl dieCauses b)
    startGo (critCheck e b)

/-- SENSOR_READING. -/
def execSensorReading (x : Sensors) (s : State) : Out := runPin (fun e b => sensorReading e b x) s

/-! ### Boundary scan (R378, Table 14-4) -/

/-- What `IDCODE` returns. -/
def tapIdcode : BitVec 64 := 0x174325AD

/-- The boundary register as the pins stand. MATE_A is driven high; the levels of the I3C pins come from outside (a free value). -/
def boundaryCells (b : Body) : BitVec 64 :=
  let r := b.brd
  let i3c := (Config.freeByte b.free).toNat
  let cells : List Bool :=
    [!r.mateOpen, true, bit r.slotId 3, bit r.slotId 2, bit r.slotId 1, bit r.slotId 0, !r.perst, bit i3c 0, bit i3c 1, bit i3c 2, bit i3c 3,
     !r.alertN, !r.thermTrip, !r.faultN, r.pwrgd, b.kpr.start.offOk, true]
  BitVec.ofNat 64 ((cells.zipIdx.map fun c => b2n c.1 * 2 ^ c.2).sum)

/-- Load an instruction and pass through its data register. -/
def tapRun (b : Body) (ir : Nat) (out : BitVec 64) : Body :=
  if b.kpr.pwr.off then b else modBrd b fun r => { r with ir := ir, tapOut := out }

/-- Sample the pins and shift new cells in. -/
def tapSample (b : Body) (ir : Nat) (cells : BitVec 17) : Body :=
  if b.kpr.pwr.off then b
  else
    let out := boundaryCells b
    modBrd { b with free := b.free + 1 } fun r => { r with ir := ir, tapOut := out, bcells := cells.setWidth 64 }

/-- EXTEST: elsewhere it acts as BYPASS. -/
def execExtest (cells : BitVec 17) (s : State) : Out :=
  runPin (fun _ b => if extestOn b then tapSample b 0x00 cells else tapRun b 0x00 0) s

/-- IDCODE. -/
def execIdcode (s : State) : Out := runPin (fun _ b => tapRun b 0x01 tapIdcode) s

/-- SAMPLE_PRELOAD. -/
def execSamplePreload (cells : BitVec 17) (s : State) : Out := runPin (fun _ b => tapSample b 0x02 cells) s

/-- BYPASS: one bit that captures 0. -/
def execBypass (s : State) : Out := runPin (fun _ b => tapRun b 0xFF 0) s

/-- TEST_LOGIC_RESET: IDCODE is loaded. -/
def execTestLogicReset (s : State) : Out := runPin (fun _ b => tapRun b 0x01 b.brd.tapOut) s

end Sys2Proof.Machine
end

