-- ==== Sys2Proof/Machine/Cycle.lean ====
section
/-! DEFINITION. The passing of time: one C cycle of the machine, the register writes that take effect with each K cycle (R395),
and the row that passes cycles before a bundle issues. -/

namespace Sys2Proof.Machine

/-- Does a K cycle end with this C time? It lasts 8 C times; while Zenith is unlocked the K domain runs from the reference, 100 cycles in
a tick (R23). -/
def kEnds (e : Env) (b : Body) : Bool := if b.kpr.pwr.unlocked then e.clk.sub % 18 == 17 else e.clk.sub % 8 == 7

/-- A C cycle with the end of a K cycle when it is its last. With the clocks stopped only the register writes go on. -/
def cycleAll (e : Env) (b : Body) : Body :=
  let b := if clocksRun b then cycleBody e b else b
  if kEnds e b then applyFaults e (regFlush e b) else b

/-- One cycle of the machine. -/
def tickCycle (s : State) : State :=
  { s with clk := s.clk.next (cRuns s.body), body := errSync s.body (cycleAll s.env s.body) }

/-- `n` cycles. -/
def tickN : Nat → State → State
  | 0, s => s
  | n + 1, s => tickN n (tickCycle s)

/-- BUNDLE_ISSUE: `n` cycles pass, then the owner of the current roller position of the panel issues the bundle at its pc
(R30, R61, R63). -/
def execBundleIssue (p : PanelRef) (n : Nat) (s : State) : Out := runBody (bundleIssue p.die.val p.lp.val) (tickN n s)

end Sys2Proof.Machine
end

