-- ==== Sys2Proof/Machine/I3c.lean ====
section
/-! DEFINITION. The I3C target (R364 to R367): common command codes, private transfers, the failure-domain tags (R226). -/

namespace Sys2Proof.Machine

/-- Change the target. -/
def modI3c (b : Body) (f : I3cSt → I3cSt) : Body := { b with kpr := { b.kpr with i3c := f b.kpr.i3c } }

/-- The target accepts, and answers with bytes when it has some. -/
def i3cOk (b : Body) (d : Option (List (BitVec 8))) : Body := modI3c b fun x => { x with reply := d, nack := false }

/-- The target does not acknowledge. -/
def i3cNack (b : Body) : Body := modI3c b fun x => { x with reply := none, nack := true }

/-- Run something when the target has power, and an address when that is needed; else it does not acknowledge. -/
def i3cWhen (b : Body) (addressed : Bool) (f : Body → Body) : Body :=
  if b.kpr.pwr.off then b else if addressed && b.kpr.i3c.dyn.isNone then i3cNack b else f b

/-- ENTDAA: a target without an address takes one; after a power-on reset it then asks for the tags (R366). -/
def entdaa (b : Body) (a : Nat) : Body :=
  if b.kpr.i3c.dyn.isSome then i3cNack b
  else
    let ask := b.kpr.i3c.askTags
    let b := i3cOk (modI3c b fun x => { x with dyn := some a, hotJoin := false, askTags := false }) none
    if ask then raiseIbi b 0xB0 0 else b

/-- ENTDAA. -/
def execEntdaa (addr : BitVec 7) (s : State) : Out := runPin (fun _ b => i3cWhen b false fun b => entdaa b addr.toNat) s

/-- SETNEWDA. -/
def execSetnewda (addr : BitVec 7) (s : State) : Out :=
  runPin (fun _ b => i3cWhen b true fun b => i3cOk (modI3c b fun x => { x with dyn := some addr.toNat }) none) s

/-- RSTDAA. -/
def execRstdaa (s : State) : Out := runPin (fun _ b => i3cWhen b false fun b => i3cOk (modI3c b fun x => { x with dyn := none }) none) s

/-- The provisioned identity (R364). -/
def provisioned (b : Body) : Nat := 0x2D6 * 2 ^ 33 + b.kpr.fuse.identity.toNat % 2 ^ 28 * 16 + b.brd.slotId % 16

/-- GETPID: six bytes, the most significant first. -/
def execGetpid (s : State) : Out := runPin (fun _ b => i3cWhen b true fun b => i3cOk b (some (le 6 (provisioned b)).reverse)) s

/-- GETBCR. -/
def execGetbcr (s : State) : Out := runPin (fun _ b => i3cWhen b true fun b => i3cOk b (some [0x06])) s

/-- GETDCR. -/
def execGetdcr (s : State) : Out := runPin (fun _ b => i3cWhen b true fun b => i3cOk b (some [0x00])) s

/-- GETSTATUS: two bytes; bit 5 reports a protocol error since the last time it was read. -/
def execGetstatus (s : State) : Out :=
  runPin (fun _ b => i3cWhen b true fun b =>
    i3cOk (modI3c b fun x => { x with protErr := false }) (some [0, BitVec.ofNat 8 (32 * b2n b.kpr.i3c.protErr)])) s

/-- Enable or disable in-band interrupts (bit 0) and Hot-Join (bit 3). -/
def i3cEvents (b : Body) (ev : Nat) (on : Bool) : Body :=
  i3cOk (modI3c b fun x =>
    { x with evOff := if bit ev 0 then !on else x.evOff, hotJoin := if bit ev 3 then on && x.dyn.isNone else x.hotJoin }) none

/-- ENEC. -/
def execEnec (ev : BitVec 8) (s : State) : Out := runPin (fun _ b => i3cWhen b false fun b => i3cEvents b ev.toNat true) s

/-- DISEC. -/
def execDisec (ev : BitVec 8) (s : State) : Out := runPin (fun _ b => i3cWhen b false fun b => i3cEvents b ev.toNat false) s

/-- SETMRL: at most 64. -/
def execSetmrl (len : BitVec 16) (s : State) : Out :=
  runPin (fun _ b => i3cWhen b false fun b => i3cOk (modI3c b fun x => { x with mrl := min len.toNat 64 }) none) s

/-- GETMRL: the length, and the size of an interrupt's payload. -/
def execGetmrl (s : State) : Out :=
  runPin (fun _ b => i3cWhen b true fun b => i3cOk b (some ((le 2 b.kpr.i3c.mrl).reverse ++ [5]))) s

/-- SETMWL: at most 64. -/
def execSetmwl (len : BitVec 16) (s : State) : Out :=
  runPin (fun _ b => i3cWhen b false fun b => i3cOk (modI3c b fun x => { x with mwl := min len.toNat 64 }) none) s

/-- GETMWL. -/
def execGetmwl (s : State) : Out := runPin (fun _ b => i3cWhen b true fun b => i3cOk b (some (le 2 b.kpr.i3c.mwl).reverse)) s

/-- RSTACT (R365): action 0x01 is a module reset in every power state, and ends HOLD; every other action is not acknowledged. -/
def rstact (e : Env) (b : Body) (a : Nat) : Body := if a = 0x01 then moduleReset e (i3cOk b none) true else i3cNack b

/-- RSTACT. -/
def execRstact (action : BitVec 8) (s : State) : Out := runPin (fun e b => i3cWhen b false fun b => rstact e b action.toNat) s

/-! ### Private transfers (R367) -/

/-- Does the keeper take private transfers: not while it restarts or starts? -/
def i3cServes (b : Body) : Bool := b.kpr.fw.act != 2 && !(b.kpr.start.phase == 1 && b.kpr.pwr.hold == 0)

/-- One word of a private write is received. -/
def i3cWord (b : Body) (off v : Nat) : Body := reqPut b .i3c off v

/-- The words of a private write. -/
def i3cWords : Nat → Body → Nat → List (BitVec 8) → Body
  | 0, b, _, _ => b
  | n + 1, b, off, d => i3cWords n (i3cWord b off (bytesAt d 0 4)) (off + 4) (d.drop 4)

/-- A private write: the offset, then 32-bit words. A transfer that is no whole number of words is a protocol error. -/
def privateWrite (b : Body) (d : List (BitVec 8)) : Body :=
  if !i3cServes b then i3cNack b
  else
    let d := d.take b.kpr.i3c.mwl
    let b := i3cOk b none
    let b := if d.length % 4 ≠ 0 ∨ d.isEmpty then modI3c b fun x => { x with protErr := true } else b
    if d.length < 4 then b
    else
      let off := bytesAt d 0 4 / 4 * 4
      let n := d.length / 4 - 1
      i3cWords n (modI3c b fun x => { x with off := off }) off (d.drop 4)

/-- I3C_PRIVATE_WRITE. -/
def execI3cPrivateWrite (data : List (BitVec 8)) (s : State) : Out := runPin (fun _ b => i3cWhen b true fun b => privateWrite b data) s

/-- The words of a private read. -/
def i3cReads (e : Env) : Nat → Body → Nat → List (BitVec 8) × Body
  | 0, b, _ => ([], b)
  | n + 1, b, off =>
    let x := reqReadAll e b .i3c off
    let y := i3cReads e n (keepRead x .i3c) (off + 4)
    (le 4 x.1 ++ y.1, y.2)

/-- A private read of `n` bytes from the written offset onward. -/
def privateRead (e : Env) (b : Body) (n : Nat) : Body :=
  if !i3cServes b then i3cNack b
  else
    let n := min n b.kpr.i3c.mrl
    let y := i3cReads e ((n + 3) / 4) b b.kpr.i3c.off
    i3cOk y.2 (some (y.1.take n))

/-- I3C_PRIVATE_READ. -/
def execI3cPrivateRead (n : Nat) (s : State) : Out := runBody (fun e b => i3cWhen b true fun b => privateRead e b n) s

/-- FD_TAG_WRITE: the tray controller writes both tag registers (R226). -/
def tagWrite (b : Body) (tray pwr : Nat) : Body :=
  if !i3cServes b then i3cNack b else fdWrite (fdWrite (i3cOk b none) 0x4C tray) 0x50 pwr

/-- FD_TAG_WRITE. -/
def execFdTagWrite (tray pwr : BitVec 32) (s : State) : Out := runPin (fun _ b => i3cWhen b true fun b => tagWrite b tray.toNat pwr.toNat) s

end Sys2Proof.Machine
end

