-- ==== Sys2Proof/Machine/Slots.lean ====
section
/-! DEFINITION. The slot rows (spec 03 Tables 3-6 to 3-11): thread `t` issues, in its owned position, a bundle whose only slot
is the word `w` with the row's opcode. -/

namespace Sys2Proof.Machine

/-- SCL_NOP: The SCL no-operation (R68). -/
def execSclNop (t : ThreadRef) (w : BitVec 32) (s : State) : Out := runSlotRow 0 0x00 planSclNop t w.toNat s

/-- ADD: rd receives rs1 plus rs2 modulo 2^64 (R68). -/
def execAdd (t : ThreadRef) (w : BitVec 32) (s : State) : Out := runSlotRow 0 0x01 planAdd t w.toNat s

/-- SUB: rd receives rs1 minus rs2 modulo 2^64 (R68). -/
def execSub (t : ThreadRef) (w : BitVec 32) (s : State) : Out := runSlotRow 0 0x02 planSub t w.toNat s

/-- AND: rd receives rs1 AND rs2 (R68). -/
def execAndOp (t : ThreadRef) (w : BitVec 32) (s : State) : Out := runSlotRow 0 0x03 planAnd t w.toNat s

/-- OR: rd receives rs1 OR rs2 (R68). -/
def execOrOp (t : ThreadRef) (w : BitVec 32) (s : State) : Out := runSlotRow 0 0x04 planOr t w.toNat s

/-- XOR: rd receives rs1 XOR rs2 (R68). -/
def execXorOp (t : ThreadRef) (w : BitVec 32) (s : State) : Out := runSlotRow 0 0x05 planXor t w.toNat s

/-- SHL: rd receives rs1 shifted left by rs2[5:0] (R68). -/
def execShl (t : ThreadRef) (w : BitVec 32) (s : State) : Out := runSlotRow 0 0x06 planShl t w.toNat s

/-- SHR: rd receives rs1 shifted right logically by rs2[5:0] (R68). -/
def execShr (t : ThreadRef) (w : BitVec 32) (s : State) : Out := runSlotRow 0 0x07 planShr t w.toNat s

/-- SRA: rd receives rs1 shifted right arithmetically by rs2[5:0] (R68). -/
def execSra (t : ThreadRef) (w : BitVec 32) (s : State) : Out := runSlotRow 0 0x08 planSra t w.toNat s

/-- MUL: rd receives the low 64 bits of rs1 times rs2, with a latency of 3 cycles (R68). -/
def execMul (t : ThreadRef) (w : BitVec 32) (s : State) : Out := runSlotRow 0 0x09 planMul t w.toNat s

/-- ADDI: rd receives rs1 plus the sign-extended IMM16 (R68). -/
def execAddi (t : ThreadRef) (w : BitVec 32) (s : State) : Out := runSlotRow 0 0x10 planAddi t w.toNat s

/-- ANDI: rd receives rs1 AND the zero-extended IMM16 (R68). -/
def execAndi (t : ThreadRef) (w : BitVec 32) (s : State) : Out := runSlotRow 0 0x11 planAndi t w.toNat s

/-- LUI: rd receives the sign-extended IMM16 shifted left by 16 (R68). -/
def execLui (t : ThreadRef) (w : BitVec 32) (s : State) : Out := runSlotRow 0 0x12 planLui t w.toNat s

/-- SHLI: rd receives rs1 shifted left by IMM16[5:0] (R68). -/
def execShli (t : ThreadRef) (w : BitVec 32) (s : State) : Out := runSlotRow 0 0x13 planShli t w.toNat s

/-- ORI: rd receives rs1 OR the zero-extended IMM16 (R68). -/
def execOri (t : ThreadRef) (w : BitVec 32) (s : State) : Out := runSlotRow 0 0x14 planOri t w.toNat s

/-- CMP: pd receives the comparison of rs1 and rs2 under COND (R68). -/
def execCmp (t : ThreadRef) (w : BitVec 32) (s : State) : Out := runSlotRow 0 0x18 planCmp t w.toNat s

/-- SCL_LD: rd receives a 64-bit word of the thread's data-cache share, or the load is skipped with DC_MISS and poisons rd (R87). -/
def execSclLd (t : ThreadRef) (w : BitVec 32) (s : State) : Out := runSlotRow 0 0x20 planLd t w.toNat s

/-- SCL_ST: A 64-bit word is stored to the thread's data-cache share (R87). -/
def execSclSt (t : ThreadRef) (w : BitVec 32) (s : State) : Out := runSlotRow 0 0x21 planSt t w.toNat s

/-- LDSP: rd receives 8 bytes of scratchpad read in cycle issue + 2 (R68). -/
def execLdsp (t : ThreadRef) (w : BitVec 32) (s : State) : Out := runSlotRow 0 0x22 planLdsp t w.toNat s

/-- STSP: 8 bytes are written to the scratchpad as a masked line write completing in cycle issue + 2 (R68). -/
def execStsp (t : ThreadRef) (w : BitVec 32) (s : State) : Out := runSlotRow 0 0x23 planStsp t w.toNat s

/-- DFILL: Lines of the data-cache share are filled from memory under a token, writing back displaced dirty lines (R87). -/
def execDfill (t : ThreadRef) (w : BitVec 32) (s : State) : Out := runSlotRow 0 0x24 planDfill t w.toNat s

/-- DWB: Data-cache lines are written back to memory under a token (R87). -/
def execDwb (t : ThreadRef) (w : BitVec 32) (s : State) : Out := runSlotRow 0 0x25 planDwb t w.toNat s

/-- MOVA: A line register receives the low 17 bits of rs1 plus the immediate (R68). -/
def execMova (t : ThreadRef) (w : BitVec 32) (s : State) : Out := runSlotRow 0 0x28 planMova t w.toNat s

/-- TICK: rd receives the tick counter as the panel sees it at issue (R68). -/
def execTick (t : ThreadRef) (w : BitVec 32) (s : State) : Out := runSlotRow 0 0x2A planTick t w.toNat s

/-- CSRR: rd receives a register sampled at a fixed cycle after issue from a permitted page (R68). -/
def execCsrr (t : ThreadRef) (w : BitVec 32) (s : State) : Out := runSlotRow 0 0x2B planCsrr t w.toNat s

/-- CSRW: A register of the context's own page is written, taking effect at issue + 64 (R68). -/
def execCsrw (t : ThreadRef) (w : BitVec 32) (s : State) : Out := runSlotRow 0 0x2C planCsrw t w.toNat s

/-- BR: A predicated relative branch taken at no cycle cost (R81). -/
def execBr (t : ThreadRef) (w : BitVec 32) (s : State) : Out := runSlotRow 0 0x30 planBr t w.toNat s

/-- CALL: A predicated relative branch that also writes the return address to s31 (R68). -/
def execCall (t : ThreadRef) (w : BitVec 32) (s : State) : Out := runSlotRow 0 0x31 planCall t w.toNat s

/-- JR: A predicated branch to the address in rs1 (R68). -/
def execJr (t : ThreadRef) (w : BitVec 32) (s : State) : Out := runSlotRow 0 0x32 planJr t w.toNat s

/-- LOOP: A hardware loop is entered with the count held in a register (R82). -/
def execLoop (t : ThreadRef) (w : BitVec 32) (s : State) : Out := runSlotRow 0 0x34 planLoop t w.toNat s

/-- LOOPI: A hardware loop is entered with an immediate count (R82). -/
def execLoopi (t : ThreadRef) (w : BitVec 32) (s : State) : Out := runSlotRow 0 0x35 planLoopi t w.toNat s

/-- EXITIF: The innermost loop is left without a decrement when the predicate holds (R84). -/
def execExitif (t : ThreadRef) (w : BitVec 32) (s : State) : Out := runSlotRow 0 0x36 planExitif t w.toNat s

/-- VEC_NOP: The VEC no-operation (R69). -/
def execVecNop (t : ThreadRef) (w : BitVec 64) (s : State) : Out := runSlotRow 1 0x00 planVecNop t w.toNat s

/-- CHAIN: A Skim chain streams its operands through up to eight stages and writes the results back to the scratchpad (R152). -/
def execChain (t : ThreadRef) (w : BitVec 64) (s : State) : Out := runSlotRow 1 0x01 planChain t w.toNat s

/-- CHAINH: A Skim chain takes its first source from a Hod slot and may empty the slot at its last read (R160). -/
def execChainh (t : ThreadRef) (w : BitVec 64) (s : State) : Out := runSlotRow 1 0x02 planChainh t w.toNat s

/-- FILL: Skim writes a scalar bit pattern to N rows of binary32 (R157). -/
def execFill (t : ThreadRef) (w : BitVec 64) (s : State) : Out := runSlotRow 1 0x03 planFill t w.toNat s

/-- MAT_NOP: The MAT no-operation (R70). -/
def execMatNop (t : ThreadRef) (w : BitVec 64) (s : State) : Out := runSlotRow 2 0x00 planMatNop t w.toNat s

/-- LOADW: The loader fills a latch set, including its checksum strip, from a stationary tile (R99). -/
def execLoadw (t : ThreadRef) (w : BitVec 64) (s : State) : Out := runSlotRow 2 0x01 planLoadw t w.toNat s

/-- PASS: Trowel streams rows against a latch set, updates the partial-sum region and optionally drains it into Hod (R102). -/
def execPass (t : ThreadRef) (w : BitVec 64) (s : State) : Out := runSlotRow 2 0x02 planPass t w.toNat s

/-- LDX_NOP: The LDX no-operation (R71). -/
def execLdxNop (t : ThreadRef) (w : BitVec 64) (s : State) : Out := runSlotRow 3 0x00 planLdxNop t w.toNat s

/-- LDX_LD: A load from memory to scratchpad lines is issued under a token (R73). -/
def execLdxLd (t : ThreadRef) (w : BitVec 64) (s : State) : Out := runSlotRow 3 0x01 planLdxLd t w.toNat s

/-- LDT: A load is issued through Mitre, which transposes the tiles into Trowel row layout (R162). -/
def execLdt (t : ThreadRef) (w : BitVec 64) (s : State) : Out := runSlotRow 3 0x02 planLdt t w.toNat s

/-- LDK: A kept tensor is loaded and unpacked from its keep format (R169). -/
def execLdk (t : ThreadRef) (w : BitVec 64) (s : State) : Out := runSlotRow 3 0x03 planLdk t w.toNat s

/-- FGET: A far get from a peer is issued after its peer id is resolved in the active route set (R231). -/
def execFget (t : ThreadRef) (w : BitVec 64) (s : State) : Out := runSlotRow 3 0x04 planFget t w.toNat s

/-- STX_NOP: The STX no-operation (R72). -/
def execStxNop (t : ThreadRef) (w : BitVec 64) (s : State) : Out := runSlotRow 4 0x00 planStxNop t w.toNat s

/-- STX_ST: Scratchpad lines are stored to memory under a token (R73). -/
def execStxSt (t : ThreadRef) (w : BitVec 64) (s : State) : Out := runSlotRow 4 0x01 planStxSt t w.toNat s

/-- STC: Lines are stored with conversion to a target format (R119). -/
def execStc (t : ThreadRef) (w : BitVec 64) (s : State) : Out := runSlotRow 4 0x02 planStc t w.toNat s

/-- STK: Lines are stored packed into a keep format (R169). -/
def execStk (t : ThreadRef) (w : BitVec 64) (s : State) : Out := runSlotRow 4 0x03 planStk t w.toNat s

/-- FPUT: A far put is issued to a peer, or to every member of a group entry (R231). -/
def execFput (t : ThreadRef) (w : BitVec 64) (s : State) : Out := runSlotRow 4 0x04 planFput t w.toNat s

/-- SYN_NOP: The SYN no-operation (R75). -/
def execSynNop (t : ThreadRef) (w : BitVec 32) (s : State) : Out := runSlotRow 5 0x00 planSynNop t w.toNat s

/-- WAIT: The thread waits until a token is at or below N (R76). -/
def execWait (t : ThreadRef) (w : BitVec 32) (s : State) : Out := runSlotRow 5 0x01 planWait t w.toNat s

/-- WAITM: The thread waits until every masked token is 0 (R75). -/
def execWaitm (t : ThreadRef) (w : BitVec 32) (s : State) : Out := runSlotRow 5 0x02 planWaitm t w.toNat s

/-- EVSET: A context event is set (R77). -/
def execEvset (t : ThreadRef) (w : BitVec 32) (s : State) : Out := runSlotRow 5 0x04 planEvset t w.toNat s

/-- EVCLR: A context event is cleared (R77). -/
def execEvclr (t : ThreadRef) (w : BitVec 32) (s : State) : Out := runSlotRow 5 0x05 planEvclr t w.toNat s

/-- EVWAIT: The thread waits until an event is set (R75). -/
def execEvwait (t : ThreadRef) (w : BitVec 32) (s : State) : Out := runSlotRow 5 0x06 planEvwait t w.toNat s

/-- EVWAITC: The thread waits until an event is set, then clears it (R77). -/
def execEvwaitc (t : ThreadRef) (w : BitVec 32) (s : State) : Out := runSlotRow 5 0x07 planEvwaitc t w.toNat s

/-- SEALWAIT: The thread waits until step S − K is sealed (R78). -/
def execSealwait (t : ThreadRef) (w : BitVec 32) (s : State) : Out := runSlotRow 5 0x08 planSealwait t w.toNat s

/-- FENCE_COPY: The thread waits until the snapshot has copied the named range (R79). -/
def execFenceCopy (t : ThreadRef) (w : BitVec 32) (s : State) : Out := runSlotRow 5 0x09 planFenceCopy t w.toNat s

/-- ROTATE: The thread reaches a rotation point and waits (R53). -/
def execRotate (t : ThreadRef) (w : BitVec 32) (s : State) : Out := runSlotRow 5 0x0A planRotate t w.toNat s

/-- TESTOVF: A predicate receives the step overflow flag (R80). -/
def execTestovf (t : ThreadRef) (w : BitVec 32) (s : State) : Out := runSlotRow 5 0x0C planTestovf t w.toNat s

/-- TESTTOK: A predicate receives whether a token is zero (R75). -/
def execTesttok (t : ThreadRef) (w : BitVec 32) (s : State) : Out := runSlotRow 5 0x0D planTesttok t w.toNat s

/-- PHASE: The thread reaches phase token K and waits for the job agreement (R240). -/
def execPhase (t : ThreadRef) (w : BitVec 32) (s : State) : Out := runSlotRow 5 0x0E planPhase t w.toNat s

/-- IFILL: An instruction residency entry is refilled from a region under a token (R86). -/
def execIfill (t : ThreadRef) (w : BitVec 32) (s : State) : Out := runSlotRow 5 0x10 planIfill t w.toNat s

end Sys2Proof.Machine
end

