-- ==== Sys2Proof/Machine/Dispatch.lean ====
section
/-! DEFINITION. The dispatch of commands to their meanings: one arm per constructor. -/

namespace Sys2Proof.Machine

def exec (i : Instr) (s : State) : Host.Outcome State Fault Refusal :=
  match i with
  | .powerOnReset straps => Sys2Proof.Machine.execPowerOnReset straps s
  | .inputUndervoltage => Sys2Proof.Machine.execInputUndervoltage s
  | .inputOvervoltage => Sys2Proof.Machine.execInputOvervoltage s
  | .prsntNOpen => Sys2Proof.Machine.execPrsntNOpen s
  | .railFault rail => Sys2Proof.Machine.execRailFault rail s
  | .thermalTrip => Sys2Proof.Machine.execThermalTrip s
  | .fast => Sys2Proof.Machine.execFast s
  | .fastExpiry => Sys2Proof.Machine.execFastExpiry s
  | .sensorReading x => Sys2Proof.Machine.execSensorReading x s
  | .mateLoopChange closed => Sys2Proof.Machine.execMateLoopChange closed s
  | .perstNAssert => Sys2Proof.Machine.execPerstNAssert s
  | .perstNDeassert => Sys2Proof.Machine.execPerstNDeassert s
  | .functionLevelReset => Sys2Proof.Machine.execFunctionLevelReset s
  | .zenithLockLoss => Sys2Proof.Machine.execZenithLockLoss s
  | .zenithLockTimeout => Sys2Proof.Machine.execZenithLockTimeout s
  | .d2dCrcFail port again => Sys2Proof.Machine.execD2dCrcFail port again s
  | .bistWindowTimeout clock rail => Sys2Proof.Machine.execBistWindowTimeout clock rail s
  | .bistWindowLost clock rail => Sys2Proof.Machine.execBistWindowLost clock rail s
  | .startTestDone t => Sys2Proof.Machine.execStartTestDone t s
  | .bootAttemptTimeout => Sys2Proof.Machine.execBootAttemptTimeout s
  | .bundleIssue p n => Sys2Proof.Machine.execBundleIssue p n s
  | .threadResume t => Sys2Proof.Machine.execThreadResume t s
  | .sclNop t w => Sys2Proof.Machine.execSclNop t w s
  | .add t w => Sys2Proof.Machine.execAdd t w s
  | .sub t w => Sys2Proof.Machine.execSub t w s
  | .andOp t w => Sys2Proof.Machine.execAndOp t w s
  | .orOp t w => Sys2Proof.Machine.execOrOp t w s
  | .xorOp t w => Sys2Proof.Machine.execXorOp t w s
  | .shl t w => Sys2Proof.Machine.execShl t w s
  | .shr t w => Sys2Proof.Machine.execShr t w s
  | .sra t w => Sys2Proof.Machine.execSra t w s
  | .mul t w => Sys2Proof.Machine.execMul t w s
  | .addi t w => Sys2Proof.Machine.execAddi t w s
  | .andi t w => Sys2Proof.Machine.execAndi t w s
  | .lui t w => Sys2Proof.Machine.execLui t w s
  | .shli t w => Sys2Proof.Machine.execShli t w s
  | .ori t w => Sys2Proof.Machine.execOri t w s
  | .cmp t w => Sys2Proof.Machine.execCmp t w s
  | .sclLd t w => Sys2Proof.Machine.execSclLd t w s
  | .sclSt t w => Sys2Proof.Machine.execSclSt t w s
  | .ldsp t w => Sys2Proof.Machine.execLdsp t w s
  | .stsp t w => Sys2Proof.Machine.execStsp t w s
  | .dfill t w => Sys2Proof.Machine.execDfill t w s
  | .dwb t w => Sys2Proof.Machine.execDwb t w s
  | .mova t w => Sys2Proof.Machine.execMova t w s
  | .tick t w => Sys2Proof.Machine.execTick t w s
  | .csrr t w => Sys2Proof.Machine.execCsrr t w s
  | .csrw t w => Sys2Proof.Machine.execCsrw t w s
  | .br t w => Sys2Proof.Machine.execBr t w s
  | .call t w => Sys2Proof.Machine.execCall t w s
  | .jr t w => Sys2Proof.Machine.execJr t w s
  | .loop t w => Sys2Proof.Machine.execLoop t w s
  | .loopi t w => Sys2Proof.Machine.execLoopi t w s
  | .exitif t w => Sys2Proof.Machine.execExitif t w s
  | .vecNop t w => Sys2Proof.Machine.execVecNop t w s
  | .chain t w => Sys2Proof.Machine.execChain t w s
  | .chainh t w => Sys2Proof.Machine.execChainh t w s
  | .fill t w => Sys2Proof.Machine.execFill t w s
  | .matNop t w => Sys2Proof.Machine.execMatNop t w s
  | .loadw t w => Sys2Proof.Machine.execLoadw t w s
  | .pass t w => Sys2Proof.Machine.execPass t w s
  | .ldxNop t w => Sys2Proof.Machine.execLdxNop t w s
  | .ldxLd t w => Sys2Proof.Machine.execLdxLd t w s
  | .ldt t w => Sys2Proof.Machine.execLdt t w s
  | .ldk t w => Sys2Proof.Machine.execLdk t w s
  | .fget t w => Sys2Proof.Machine.execFget t w s
  | .stxNop t w => Sys2Proof.Machine.execStxNop t w s
  | .stxSt t w => Sys2Proof.Machine.execStxSt t w s
  | .stc t w => Sys2Proof.Machine.execStc t w s
  | .stk t w => Sys2Proof.Machine.execStk t w s
  | .fput t w => Sys2Proof.Machine.execFput t w s
  | .synNop t w => Sys2Proof.Machine.execSynNop t w s
  | .wait t w => Sys2Proof.Machine.execWait t w s
  | .waitm t w => Sys2Proof.Machine.execWaitm t w s
  | .evset t w => Sys2Proof.Machine.execEvset t w s
  | .evclr t w => Sys2Proof.Machine.execEvclr t w s
  | .evwait t w => Sys2Proof.Machine.execEvwait t w s
  | .evwaitc t w => Sys2Proof.Machine.execEvwaitc t w s
  | .sealwait t w => Sys2Proof.Machine.execSealwait t w s
  | .fenceCopy t w => Sys2Proof.Machine.execFenceCopy t w s
  | .rotate t w => Sys2Proof.Machine.execRotate t w s
  | .testovf t w => Sys2Proof.Machine.execTestovf t w s
  | .testtok t w => Sys2Proof.Machine.execTesttok t w s
  | .phase t w => Sys2Proof.Machine.execPhase t w s
  | .ifill t w => Sys2Proof.Machine.execIfill t w s
  | .arrivalWrite p uid j => Sys2Proof.Machine.execArrivalWrite p uid j s
  | .storeAck p uid j => Sys2Proof.Machine.execStoreAck p uid j s
  | .mitreTileArrival p => Sys2Proof.Machine.execMitreTileArrival p s
  | .rotationRelease p => Sys2Proof.Machine.execRotationRelease p s
  | .rotationQuiesceEnd p => Sys2Proof.Machine.execRotationQuiesceEnd p s
  | .seqMismatch p => Sys2Proof.Machine.execSeqMismatch p s
  | .quarantineTest p => Sys2Proof.Machine.execQuarantineTest p s
  | .quarantineTestDone p pass => Sys2Proof.Machine.execQuarantineTestDone p pass s
  | .contextScrubDone slot p => Sys2Proof.Machine.execContextScrubDone slot p s
  | .doorbell page off len v => Sys2Proof.Machine.execDoorbell page off len v s
  | .commandStart r => Sys2Proof.Machine.execCommandStart r s
  | .commandCompletion r seq out => Sys2Proof.Machine.execCommandCompletion r seq out s
  | .interruptModerationTimer slot r => Sys2Proof.Machine.execInterruptModerationTimer slot r s
  | .nopCmd r w => Sys2Proof.Machine.execNopCmd r w s
  | .eventSet r w => Sys2Proof.Machine.execEventSet r w s
  | .eventClear r w => Sys2Proof.Machine.execEventClear r w s
  | .fence r w => Sys2Proof.Machine.execFence r w s
  | .copy r w => Sys2Proof.Machine.execCopy r w s
  | .progLoad r w => Sys2Proof.Machine.execProgLoad r w s
  | .launch r w => Sys2Proof.Machine.execLaunch r w s
  | .launchDone slot seq => Sys2Proof.Machine.execLaunchDone slot seq s
  | .gather r w => Sys2Proof.Machine.execGather r w s
  | .gatherRetain r w => Sys2Proof.Machine.execGatherRetain r w s
  | .gatherReuse r w => Sys2Proof.Machine.execGatherReuse r w s
  | .retainFree r w => Sys2Proof.Machine.execRetainFree r w s
  | .scatter r w => Sys2Proof.Machine.execScatter r w s
  | .allreduce r w => Sys2Proof.Machine.execAllreduce r w s
  | .reduceScatter r w => Sys2Proof.Machine.execReduceScatter r w s
  | .routeLoad r w => Sys2Proof.Machine.execRouteLoad r w s
  | .redraw r w => Sys2Proof.Machine.execRedraw r w s
  | .tagRelease r w => Sys2Proof.Machine.execTagRelease r w s
  | .stepOpen r w => Sys2Proof.Machine.execStepOpen r w s
  | .stepClose r w => Sys2Proof.Machine.execStepClose r w s
  | .stateDeclareAdd r w => Sys2Proof.Machine.execStateDeclareAdd r w s
  | .stateDeclareRemove r w => Sys2Proof.Machine.execStateDeclareRemove r w s
  | .queryDescriptor r w => Sys2Proof.Machine.execQueryDescriptor r w s
  | .queryGroup r w => Sys2Proof.Machine.execQueryGroup r w s
  | .queryHandles r w => Sys2Proof.Machine.execQueryHandles r w s
  | .ctxCreate r w => Sys2Proof.Machine.execCtxCreate r w s
  | .ctxDestroy r w => Sys2Proof.Machine.execCtxDestroy r w s
  | .ctxReset r w => Sys2Proof.Machine.execCtxReset r w s
  | .ctxResume r w => Sys2Proof.Machine.execCtxResume r w s
  | .replayEnd slot => Sys2Proof.Machine.execReplayEnd slot s
  | .memMap r w => Sys2Proof.Machine.execMemMap r w s
  | .memUnmap r w => Sys2Proof.Machine.execMemUnmap r w s
  | .scaffoldAcquire r w => Sys2Proof.Machine.execScaffoldAcquire r w s
  | .scaffoldRelease r w => Sys2Proof.Machine.execScaffoldRelease r w s
  | .builtInTest r w => Sys2Proof.Machine.execBuiltInTest r w s
  | .scrub r w => Sys2Proof.Machine.execScrub r w s
  | .undercoatCopy r w => Sys2Proof.Machine.execUndercoatCopy r w s
  | .postPackageRepair r w => Sys2Proof.Machine.execPostPackageRepair r w s
  | .retrain r w => Sys2Proof.Machine.execRetrain r w s
  | .weathervaneMeasurement r w => Sys2Proof.Machine.execWeathervaneMeasurement r w s
  | .swatchRun r w => Sys2Proof.Machine.execSwatchRun r w s
  | .firmwareActivation r w => Sys2Proof.Machine.execFirmwareActivation r w s
  | .buddySet r w => Sys2Proof.Machine.execBuddySet r w s
  | .rollback r w => Sys2Proof.Machine.execRollback r w s
  | .restoreLocal r w => Sys2Proof.Machine.execRestoreLocal r w s
  | .restoreBuddy r w => Sys2Proof.Machine.execRestoreBuddy r w s
  | .restoreHost r w => Sys2Proof.Machine.execRestoreHost r w s
  | .readout r w => Sys2Proof.Machine.execReadout r w s
  | .adminRingEnable w => Sys2Proof.Machine.execAdminRingEnable w s
  | .adminRingDisable w => Sys2Proof.Machine.execAdminRingDisable w s
  | .snapshotStart slot => Sys2Proof.Machine.execSnapshotStart slot s
  | .snapshotScaffoldRetry slot stack => Sys2Proof.Machine.execSnapshotScaffoldRetry slot stack s
  | .chunkComplete slot stack => Sys2Proof.Machine.execChunkComplete slot stack s
  | .snapshotComplete slot => Sys2Proof.Machine.execSnapshotComplete slot s
  | .heldWriteRelease slot k => Sys2Proof.Machine.execHeldWriteRelease slot k s
  | .liningChunkReceive x => Sys2Proof.Machine.execLiningChunkReceive x s
  | .buddyAck x unit m => Sys2Proof.Machine.execBuddyAck x unit m s
  | .sealReport slot step => Sys2Proof.Machine.execSealReport slot step s
  | .sealReportArrival x step peer clean => Sys2Proof.Machine.execSealReportArrival x step peer clean s
  | .sealDecision x step sealed => Sys2Proof.Machine.execSealDecision x step sealed s
  | .sanderSegment found => Sys2Proof.Machine.execSanderSegment found s
  | .channelRetrain stack ch => Sys2Proof.Machine.execChannelRetrain stack ch s
  | .channelRetrainRetry stack ch => Sys2Proof.Machine.execChannelRetrainRetry stack ch s
  | .channelRetrainDone stack ch pass => Sys2Proof.Machine.execChannelRetrainDone stack ch pass s
  | .channelFail stack ch => Sys2Proof.Machine.execChannelFail stack ch s
  | .tierBPackageFail pkg => Sys2Proof.Machine.execTierBPackageFail pkg s
  | .memoryTempRead hbms pkgs => Sys2Proof.Machine.execMemoryTempRead hbms pkgs s
  | .marginStart w => Sys2Proof.Machine.execMarginStart w s
  | .marginDone lanes => Sys2Proof.Machine.execMarginDone lanes s
  | .portTrainingComplete port t => Sys2Proof.Machine.execPortTrainingComplete port t s
  | .horizonAnswer port a => Sys2Proof.Machine.execHorizonAnswer port a s
  | .horizonTimeout port => Sys2Proof.Machine.execHorizonTimeout port s
  | .griandFlitFail port again cw => Sys2Proof.Machine.execGriandFlitFail port again cw s
  | .portLivenessTimeout port => Sys2Proof.Machine.execPortLivenessTimeout port s
  | .portRetrainRetry port => Sys2Proof.Machine.execPortRetrainRetry port s
  | .discoveryRequest len value requester => Sys2Proof.Machine.execDiscoveryRequest len value requester s
  | .packetArrival port h p => Sys2Proof.Machine.execPacketArrival port h p s
  | .receiptAck seq => Sys2Proof.Machine.execReceiptAck seq s
  | .completionAck seq refused data poison => Sys2Proof.Machine.execCompletionAck seq refused data poison s
  | .retransmitTimer seq => Sys2Proof.Machine.execRetransmitTimer seq s
  | .phaseReport x step k peer said => Sys2Proof.Machine.execPhaseReport x step k peer said s
  | .phaseAgreement x step k said => Sys2Proof.Machine.execPhaseAgreement x step k said s
  | .cumulusContribution x c => Sys2Proof.Machine.execCumulusContribution x c s
  | .cumulusChunk x c => Sys2Proof.Machine.execCumulusChunk x c s
  | .heartbeatSend => Sys2Proof.Machine.execHeartbeatSend s
  | .heartbeatArrival x => Sys2Proof.Machine.execHeartbeatArrival x s
  | .heartbeatMiss src plane => Sys2Proof.Machine.execHeartbeatMiss src plane s
  | .squallReceive x => Sys2Proof.Machine.execSquallReceive x s
  | .waitLimit slot => Sys2Proof.Machine.execWaitLimit slot s
  | .stepLimit slot => Sys2Proof.Machine.execStepLimit slot s
  | .keeperPoll silent hub => Sys2Proof.Machine.execKeeperPoll silent hub s
  | .contextResetTimeout slot => Sys2Proof.Machine.execContextResetTimeout slot s
  | .operatingHour xs => Sys2Proof.Machine.execOperatingHour xs s
  | .spareSwatch p => Sys2Proof.Machine.execSpareSwatch p s
  | .idleSwatch p => Sys2Proof.Machine.execIdleSwatch p s
  | .swatchBandMiss p => Sys2Proof.Machine.execSwatchBandMiss p s
  | .swatchResult p r => Sys2Proof.Machine.execSwatchResult p r s
  | .contrailRoleWrite slot w => Sys2Proof.Machine.execContrailRoleWrite slot w s
  | .shadowMirrorLine x m => Sys2Proof.Machine.execShadowMirrorLine x m s
  | .contrailDigest x step digest => Sys2Proof.Machine.execContrailDigest x step digest s
  | .contrailResult x step same => Sys2Proof.Machine.execContrailResult x step same s
  | .powerRequestClear w => Sys2Proof.Machine.execPowerRequestClear w s
  | .powerRequestHaze w => Sys2Proof.Machine.execPowerRequestHaze w s
  | .powerRequestDusk w => Sys2Proof.Machine.execPowerRequestDusk w s
  | .powerRequestNight w => Sys2Proof.Machine.execPowerRequestNight w s
  | .autoHaze => Sys2Proof.Machine.execAutoHaze s
  | .planLoad => Sys2Proof.Machine.execPlanLoad s
  | .imgChunk tgt => Sys2Proof.Machine.execImgChunk tgt s
  | .imgCommit tgt => Sys2Proof.Machine.execImgCommit tgt s
  | .fwActivate => Sys2Proof.Machine.execFwActivate s
  | .fwActivationPoint => Sys2Proof.Machine.execFwActivationPoint s
  | .fwActivationTimeout => Sys2Proof.Machine.execFwActivationTimeout s
  | .fwRevert => Sys2Proof.Machine.execFwRevert s
  | .opkeyFuse => Sys2Proof.Machine.execOpkeyFuse s
  | .fwminFuse => Sys2Proof.Machine.execFwminFuse s
  | .sealArm => Sys2Proof.Machine.execSealArm s
  | .sealArmExpiry => Sys2Proof.Machine.execSealArmExpiry s
  | .sealBlow => Sys2Proof.Machine.execSealBlow s
  | .mailboxResetModule => Sys2Proof.Machine.execMailboxResetModule s
  | .mailboxResetDie d => Sys2Proof.Machine.execMailboxResetDie d s
  | .shutdown t => Sys2Proof.Machine.execShutdown t s
  | .entdaa addr => Sys2Proof.Machine.execEntdaa addr s
  | .setnewda addr => Sys2Proof.Machine.execSetnewda addr s
  | .rstdaa => Sys2Proof.Machine.execRstdaa s
  | .getpid => Sys2Proof.Machine.execGetpid s
  | .getbcr => Sys2Proof.Machine.execGetbcr s
  | .getdcr => Sys2Proof.Machine.execGetdcr s
  | .getstatus => Sys2Proof.Machine.execGetstatus s
  | .enec ev => Sys2Proof.Machine.execEnec ev s
  | .disec ev => Sys2Proof.Machine.execDisec ev s
  | .setmrl len => Sys2Proof.Machine.execSetmrl len s
  | .getmrl => Sys2Proof.Machine.execGetmrl s
  | .setmwl len => Sys2Proof.Machine.execSetmwl len s
  | .getmwl => Sys2Proof.Machine.execGetmwl s
  | .rstact action => Sys2Proof.Machine.execRstact action s
  | .i3cPrivateWrite data => Sys2Proof.Machine.execI3cPrivateWrite data s
  | .i3cPrivateRead n => Sys2Proof.Machine.execI3cPrivateRead n s
  | .fdTagWrite tray pwr => Sys2Proof.Machine.execFdTagWrite tray pwr s
  | .extest cells => Sys2Proof.Machine.execExtest cells s
  | .idcode => Sys2Proof.Machine.execIdcode s
  | .samplePreload cells => Sys2Proof.Machine.execSamplePreload cells s
  | .bypass => Sys2Proof.Machine.execBypass s
  | .hazlogstatClr slot => Sys2Proof.Machine.execHazlogstatClr slot s
  | .illstatClr slot => Sys2Proof.Machine.execIllstatClr slot s
  | .stripstatClr slot => Sys2Proof.Machine.execStripstatClr slot s
  | .clrcnt slot w => Sys2Proof.Machine.execClrcnt slot w s
  | .memLogstatClr pg => Sys2Proof.Machine.execMemLogstatClr pg s
  | .kprEvstatClr => Sys2Proof.Machine.execKprEvstatClr s
  | .faultstatClr slot => Sys2Proof.Machine.execFaultstatClr slot s
  | .pnlFmctlRetire p w => Sys2Proof.Machine.execPnlFmctlRetire p w s
  | .errtest page => Sys2Proof.Machine.execErrtest page s
  | .errsumClear page w => Sys2Proof.Machine.execErrsumClear page w s
  | .pairLoRead r off => Sys2Proof.Machine.execPairLoRead r off s
  | .pairHiRead r off => Sys2Proof.Machine.execPairHiRead r off s
  | .pairLoWrite r off v => Sys2Proof.Machine.execPairLoWrite r off v s
  | .pairHiWrite r off v => Sys2Proof.Machine.execPairHiWrite r off v s
  | .malformedAccess write off len => Sys2Proof.Machine.execMalformedAccess write off len s
  | .registerWrite r off v => Sys2Proof.Machine.execRegisterWrite r off v s
  | .zenithLock => Sys2Proof.Machine.execZenithLock s
  | .keeperReady => Sys2Proof.Machine.execKeeperReady s
  | .startPhaseComplete o => Sys2Proof.Machine.execStartPhaseComplete o s
  | .dieResetComplete d ok x links => Sys2Proof.Machine.execDieResetComplete d ok x links s
  | .powerTransitionComplete => Sys2Proof.Machine.execPowerTransitionComplete s
  | .memoryInitialisation => Sys2Proof.Machine.execMemoryInitialisation s
  | .overvoltageRestart => Sys2Proof.Machine.execOvervoltageRestart s
  | .controllerAcknowledgement uid id => Sys2Proof.Machine.execControllerAcknowledgement uid id s
  | .idleFlit port => Sys2Proof.Machine.execIdleFlit port s
  | .testLogicReset => Sys2Proof.Machine.execTestLogicReset s

end Sys2Proof.Machine
end

