-- ==== Sys2Proof/Safety.lean ====
section
/-! DEFINITION. What counts as a safe state, and what statements say of a command's effect: the whole next state, apart from what
every command may change besides its own effect. -/

namespace Sys2Proof.Machine

/-- The clock is legal: fewer C cycles within the tick than a tick has. -/
def clockOk (s : State) : Prop := s.clk.sub < Config.cPerTick

/-- The host's and the module's memory are in their canonical form. -/
def memOk (s : State) : Prop :=
  Memory.wf hostBg s.body.host.bytes = true ∧ Memory.wf (memBg s.body.mem.lost) s.body.mem.bytes = true

/-- `t` is `s` with body `b`, apart from the error-summary bits that events set (R402) and CN-H's outputs, which follow from the
state (R375). -/
def Leaves (s t : State) (b : Body) : Prop :=
  t = { s with body := { b with
    dir := { b.dir with errSum := t.body.dir.errSum, errNew := t.body.dir.errNew }
    brd := { b.brd with pwrgd := t.body.brd.pwrgd, alertN := t.body.brd.alertN, pins := t.body.brd.pins } } }

/-- `t` is `s` with body `b`, apart from what reports change besides: the unit history with its summaries, the event log, in-band
interrupts and vectors raised or pending (R256, R331, R332, R366). -/
def Reported (s t : State) (b : Body) : Prop :=
  Leaves s t { b with
    kpr := { b.kpr with
      hist := t.body.kpr.hist, histHead := t.body.kpr.histHead, histCnt := t.body.kpr.histCnt, sums := t.body.kpr.sums, ev := t.body.kpr.ev
      evOvf := t.body.kpr.evOvf, i3c := { b.kpr.i3c with ibis := t.body.kpr.i3c.ibis } }
    host := { b.host with vectors := t.body.host.vectors, vpend := t.body.host.vpend } }

/-- A command answers a next state that leaves body `b`. -/
def Answers (o : Out) (s : State) (b : Body) : Prop := ∃ t, o = .next t ∧ Leaves s t b

/-- An access of the host that is no read: it ends its read capture and its held low word (R397, R398). -/
def touched (b : Body) : Body :=
  { b with dir := { b.dir with acc := fmod b.dir.acc 0 fun a => { a with capOff := none, heldOff := none } } }

/-! ### What a slot row leaves -/

/-- Thread `t`, on the physical panel with key `k`, owns the current roller position of a panel that runs, and may issue (R30, R61). -/
def MayIssue (s : State) (t : ThreadRef) (k : Nat) : Prop :=
  ∃ pp, physOf s.body t.die.val t.lp.val = some pp ∧ k = pkey t.die.val pp ∧
    panelRuns s.env s.body t.die.val (panelAt s.body k) = true ∧
    ownerNow s.env s.body t.die.val (panelAt s.body k) = some t.th.val ∧
    ((panelAt s.body k).thread t.th.val).st = .run ∧ ((panelAt s.body k).thread t.th.val).idle = 0

/-- The thread at its place. -/
def threadAt (s : State) (t : ThreadRef) (k : Nat) : Thread := (panelAt s.body k).thread t.th.val

/-- Where its bundle of one slot `sl` issues from. -/
def place (s : State) (t : ThreadRef) (k sl : Nat) : IC :=
  icOf s.env s.body k t.die.val t.lp.val t.th.val (threadAt s t k).pc (((threadAt s t k).pc + 2 + slotBits sl / 8) % 2 ^ 48)

/-- The instruction it issues. -/
def insAt (s : State) (t : ThreadRef) (k sl opc : Nat) : Ins := (place s t k sl).ins (s.body.uid + 1) sl opc

/-- A thread goes on at the bundle after its bundle of `n` bytes, or where the loops that end there send it (R83). -/
def goesOn (n : Nat) (q : Thread) : Thread :=
  let r := loopEnds q.pc ((q.pc + n) % 2 ^ 48) q.loops
  { q with pc := r.1, loops := r.2, idle := 0, wait := none }

/-- The results on their way with one more, which the current cycle's instruction makes and which becomes visible `lat` cycles on; they
stand in issue order (R63). -/
def lands (s : State) (lat : Nat) (d : Dest) (v : BitVec 64) (po : Bool) (q : Thread) : List Res :=
  (q.addRes ⟨s.clk.cyc, s.clk.cyc + lat, d, v, po⟩).res

/-- A command answers a next state in which thread `t` is changed by `x`, its panel besides by `p`, the rest of the module by
`rest`, and nothing else but the instruction count, the panel's last issue cycle and the module's last issue tick. -/
def Issued (o : Out) (s : State) (t : ThreadRef) (k : Nat) (x : Thread → Thread) (p : Panel → Panel) (rest : Body → Body) : Prop :=
  ∃ s', o = .next s' ∧
    threadAt s' t k = x (threadAt s t k) ∧
    (∀ th, th ≠ t.th.val → (panelAt s'.body k).thread th = (panelAt s.body k).thread th) ∧
    (let q := panelAt s.body k
     panelAt s'.body k = p { q with seq := { q.seq with lastIssue := some s.clk.cyc, thr := (panelAt s'.body k).seq.thr } }) ∧
    (∀ j, j ≠ k → panelAt s'.body j = panelAt s.body j) ∧
    Leaves s s' (rest { s.body with
      uid := s.body.uid + 1
      panel := s'.body.panel
      kpr := { s.body.kpr with pwr := { s.body.kpr.pwr with lastIssue := s.clk.tick } } })

/-- No case of Table 3-14 skips the slot `w` with opcode `opc`, whose plan is `plan` (R88, R89). -/
def Carried (plan : IC → Nat → Plan) (s : State) (t : ThreadRef) (k sl opc w : Nat) : Prop :=
  match plan (place s t k sl) (withOpc sl opc w) with
  | .go _ => True
  | .skip .. => False

/-- The thread's scalar registers `rs` carry no poison (R44). -/
def Clean (s : State) (t : ThreadRef) (k : Nat) (rs : List Nat) : Prop := ∀ r ∈ rs, ((threadAt s t k).sreg r).poison = false

/-- The thread can start a transfer of `n` 256-byte pieces under token `tok` (R73, R74). -/
def MayStart (s : State) (t : ThreadRef) (k n tok : Nat) : Prop :=
  n ≤ tagsFree (panelAt s.body k) ∧ (threadAt s t k).token tok ≤ 1022

/-- A thread that goes on after a slot that counts token `tok` up. -/
def goesOnUp (n tok : Nat) (q : Thread) : Thread := (goesOn n q).tokUp tok

/-- The panel with `n` more tags used, a load started on it, and its lines pending (R41, R73). -/
def loads (i : Ins) (lines : List Nat) (n : Nat) (op : LoadOp) (q : Panel) : Panel :=
  { (q.pend i lines).takeTags n with load := q.load ++ [op] }

/-- The panel with `n` more tags used and a store started on it. -/
def stores (n : Nat) (op : StoreOp) (q : Panel) : Panel := { q.takeTags n with store := q.store ++ [op] }

/-! ### What commands that are no slot leave -/

/-- The body with no cause waiting. -/
def unqueued (b : Body) : Body := { b with ctx := { b.ctx with faultq := [] } }

/-- The body with the causes `q` waiting. -/
def requeued (q : List FaultReq) (b : Body) : Body := { b with ctx := { b.ctx with faultq := q } }

/-- The slot rows of Tables 3-6 to 3-11 on thread `t`, with their slot and opcode: `w` is the word of a 32-bit slot, `v` of a 64-bit
one. -/
def slotRows (t : ThreadRef) (w : BitVec 32) (v : BitVec 64) : List (Instr × Nat × Nat) :=
  [(.sclNop t w, 0, 0x00), (.add t w, 0, 0x01), (.sub t w, 0, 0x02), (.andOp t w, 0, 0x03), (.orOp t w, 0, 0x04), (.xorOp t w, 0, 0x05),
   (.shl t w, 0, 0x06), (.shr t w, 0, 0x07), (.sra t w, 0, 0x08), (.mul t w, 0, 0x09), (.addi t w, 0, 0x10), (.andi t w, 0, 0x11),
   (.lui t w, 0, 0x12), (.shli t w, 0, 0x13), (.ori t w, 0, 0x14), (.cmp t w, 0, 0x18), (.sclLd t w, 0, 0x20), (.sclSt t w, 0, 0x21),
   (.ldsp t w, 0, 0x22), (.stsp t w, 0, 0x23), (.dfill t w, 0, 0x24), (.dwb t w, 0, 0x25), (.mova t w, 0, 0x28), (.tick t w, 0, 0x2A),
   (.csrr t w, 0, 0x2B), (.csrw t w, 0, 0x2C), (.br t w, 0, 0x30), (.call t w, 0, 0x31), (.jr t w, 0, 0x32), (.loop t w, 0, 0x34),
   (.loopi t w, 0, 0x35), (.exitif t w, 0, 0x36)] ++
  [(.vecNop t v, 1, 0x00), (.chain t v, 1, 0x01), (.chainh t v, 1, 0x02), (.fill t v, 1, 0x03), (.matNop t v, 2, 0x00),
   (.loadw t v, 2, 0x01), (.pass t v, 2, 0x02), (.ldxNop t v, 3, 0x00), (.ldxLd t v, 3, 0x01), (.ldt t v, 3, 0x02), (.ldk t v, 3, 0x03),
   (.fget t v, 3, 0x04), (.stxNop t v, 4, 0x00), (.stxSt t v, 4, 0x01), (.stc t v, 4, 0x02), (.stk t v, 4, 0x03), (.fput t v, 4, 0x04)] ++
  [(.synNop t w, 5, 0x00), (.wait t w, 5, 0x01), (.waitm t w, 5, 0x02), (.evset t w, 5, 0x04), (.evclr t w, 5, 0x05),
   (.evwait t w, 5, 0x06), (.evwaitc t w, 5, 0x07), (.sealwait t w, 5, 0x08), (.fenceCopy t w, 5, 0x09), (.rotate t w, 5, 0x0A),
   (.testovf t w, 5, 0x0C), (.testtok t w, 5, 0x0D), (.phase t w, 5, 0x0E), (.ifill t w, 5, 0x10)]

/-! ### Ring commands -/

/-- The context slot that a command on ring `r` concerns. -/
def wordSlot (r : RingRef) (w : BitVec 512) : Nat := (ringSlot r).getD (hdrField w 4 11 0)

/-- The command of opcode `opc` that `w` spells, as it starts on ring `r`. -/
def cmdOf (s : State) (r : RingRef) (w : BitVec 512) (opc : Nat) : Cmd :=
  ⟨s.env, r, wordSlot r (putBits w 0 8 opc), putBits w 0 8 opc, s.body.uid + 1⟩

/-- The body once a command is taken from its ring and, on a context ring, logged (R266, R282). -/
def begun (s : State) (r : RingRef) (w : BitVec 512) (opc : Nat) : Body :=
  let x := putBits w 0 8 opc
  let b := (takeEntry (unqueued s.body) r x).2
  if r = .admin then b else logCommand s.env b (wordSlot r x) (ringNum r) x

/-- The command `w` with opcode `opc`, of the kind `k`, starts now on ring `r` and is accepted: the start conditions hold (R266), its log
entry is with every buddy (R282), the ring takes the opcode (R270), the handle is current (R262), no reserved bit is set. -/
structure Starts (s : State) (r : RingRef) (w : BitVec 512) (opc : Nat) (k : CmdSpec) : Prop where
  may : mayStart s.env s.body r (putBits w 0 8 opc) = true
  logged : r = .admin ∨ buddyUnits s.body (wordSlot r (putBits w 0 8 opc)) = [] ∨ (ringAt s.body r).logAcks = some []
  ring : if r = .admin then k.adm ≠ 0 else k.adm = 0 ∨ k.adm = 3
  handle : if r = .admin ∧ 2 ≤ k.adm then hdrField w 4 31 0 = 0
    else hdrField w 4 31 0 ≠ 0 ∧ hdrField w 4 31 0 = handleOf s.env s.body (wordSlot r (putBits w 0 8 opc))
  clean : rsvdSet (putBits w 0 8 opc) k.fs = false ∧ (r = .admin → 2 ≤ k.adm → hdrField w 1 2 1 = 0)

/-- The body `b` that a command makes, once the causes it raises have taken effect; those of the current cycle stay queued (R310). -/
def settled (s : State) (b : Body) : Body := requeued s.body.ctx.faultq (applyFaults s.env b)

/-- A command that is no slot answers a next state in which it has had the effect `f`. -/
def Does (o : Out) (s : State) (f : Body → Body) : Prop := Answers o s (settled s (f (unqueued s.body)))

/-- A command answers a next state in which it has completed with status `st` and result `res`, with effect `f`. -/
def Ends (o : Out) (s : State) (r : RingRef) (w : BitVec 512) (opc st : Nat) (res : BitVec 32) (f : Body → Body) : Prop :=
  Answers o s (settled s (finish (f (begun s r w opc)) (cmdOf s r w opc) st res))

/-- A command answers a next state in which it is in flight, with effect `f` so far. -/
def Stays (o : Out) (s : State) (r : RingRef) (w : BitVec 512) (opc : Nat) (f : Body → Body) : Prop :=
  Answers o s (settled s (f (begun s r w opc)))

/-- The rows of ring commands (Table 10-10) for the word `w` at the head of ring `r`, each with the word it spells: its opcode, and the
sub-form where a row stands for one. -/
def cmdRows (r : RingRef) (w : BitVec 512) : List (Instr × BitVec 512) :=
  let o (c : Nat) (v : BitVec 512) : BitVec 512 := putBits v 0 8 c
  let f (k : Nat) : BitVec 512 := putBits w 128 8 k
  let run (a : Nat) : BitVec 512 := o 0x26 (putBits (putBits w 128 8 0) 136 8 a)
  [(.nopCmd r w, o 0x01 w), (.eventSet r w, o 0x02 (f 0)), (.eventClear r w, o 0x02 (f 1)), (.fence r w, o 0x03 w), (.copy r w, o 0x04 w),
   (.progLoad r w, o 0x05 w), (.launch r w, o 0x06 w), (.gather r w, o 0x07 (putBits w 128 2 0)),
   (.gatherRetain r w, o 0x07 (putBits w 128 2 1)), (.gatherReuse r w, o 0x07 (putBits w 128 2 2)),
   (.retainFree r w, o 0x07 (putBits w 128 2 3)), (.scatter r w, o 0x08 w), (.allreduce r w, o 0x09 (putBits w 128 1 0)),
   (.reduceScatter r w, o 0x09 (putBits w 128 1 1)), (.routeLoad r w, o 0x0A w), (.redraw r w, o 0x0B w), (.tagRelease r w, o 0x0C w)] ++
  [(.stepOpen r w, o 0x10 w), (.stepClose r w, o 0x11 w), (.stateDeclareAdd r w, o 0x12 (f 0)), (.stateDeclareRemove r w, o 0x12 (f 1)),
   (.queryDescriptor r w, o 0x1F (f 0)), (.queryGroup r w, o 0x1F (f 1)), (.queryHandles r w, o 0x1F (f 2)), (.ctxCreate r w, o 0x20 w),
   (.ctxDestroy r w, o 0x21 w), (.ctxReset r w, o 0x22 w), (.ctxResume r w, o 0x23 w), (.memMap r w, o 0x24 w), (.memUnmap r w, o 0x25 w)] ++
  [(.scaffoldAcquire r w, o 0x26 (f 1)), (.scaffoldRelease r w, o 0x26 (f 2)), (.builtInTest r w, run 1), (.scrub r w, run 2),
   (.undercoatCopy r w, run 4), (.postPackageRepair r w, run 5), (.retrain r w, run 6), (.weathervaneMeasurement r w, run 7),
   (.swatchRun r w, run 8), (.firmwareActivation r w, run 9), (.buddySet r w, o 0x28 w), (.rollback r w, o 0x29 w),
   (.restoreLocal r w, o 0x2A (f 0)), (.restoreBuddy r w, o 0x2A (f 1)), (.restoreHost r w, o 0x2A (f 2)), (.readout r w, o 0x2B w)]

/-! ### Frames of a job -/

/-- The body once the receipt of a packet has gone and the packet is noted (R232, R237). -/
def receipted (h : PktHdr) (b : Body) : Body :=
  { b with fab := { b.fab with sent := b.fab.sent ++ [.receipt h.src h.seq], seen := b.fab.seen ++ [(h.src, h.seq)] } }

/-- A packet comes by a port that takes it, or from this module itself, and is no duplicate (R225, R237). -/
def IsNew (s : State) (v : Via) : Prop := portTakes s.body v.port v.hdr.src = .yes ∧ (v.hdr.src, v.hdr.seq) ∉ s.body.fab.seen

/-- A new packet comes for context `slot`, which is of the packet's job, is in a state `need` and has pinned the level the packet carries
(R230, R234). -/
structure Arrives (s : State) (slot : Nat) (v : Via) (need : CtxId → Bool) : Prop where
  new : IsNew s v
  job : v.hdr.job ≠ 0 ∧ (ctxAt s.body slot).id.job = v.hdr.job
  need : need (ctxAt s.body slot).id = true
  level : jobLevel (ctxAt s.body slot) = (v.hdr.trn, v.hdr.col, v.hdr.ldg)

/-- What a frame of a job does that is not taken for context `slot`, which must be in a state `need`: nothing by a port that does not take it;
it is discarded and counted in Drizzle; one that came before has a receipt and nothing more; without a context of its job, or with another
level, it is discarded and counted besides its receipt, and another level faults the context (R225, R230, R234, R237, R253). -/
structure NotTaken (o : Out) (s : State) (slot : Nat) (v : Via) (need : CtxId → Bool) : Prop where
  none : portTakes s.body v.port v.hdr.src = .no → Answers o s s.body
  drizzle : portTakes s.body v.port v.hdr.src = .drop → Answers o s (fabDiscard s.body)
  again : portTakes s.body v.port v.hdr.src = .yes → (v.hdr.src, v.hdr.seq) ∈ s.body.fab.seen →
    Answers o s (sendFrame s.body (.receipt v.hdr.src v.hdr.seq))
  other : IsNew s v → v.hdr.job = 0 ∨ (ctxAt s.body slot).id.job ≠ v.hdr.job ∨ need (ctxAt s.body slot).id = false →
    Answers o s (fabDiscard (receipted v.hdr s.body))
  level : IsNew s v → v.hdr.job ≠ 0 → (ctxAt s.body slot).id.job = v.hdr.job → need (ctxAt s.body slot).id = true →
    jobLevel (ctxAt s.body slot) ≠ (v.hdr.trn, v.hdr.col, v.hdr.ldg) → Answers o s (settled s
      (raise (fabDiscard (receipted v.hdr (unqueued s.body))) (ctxFault slot 0x0B 8 v.hdr.trn)))

/-- A packet that is taken has the effect `f` besides its receipt. -/
def Takes (o : Out) (s : State) (v : Via) (f : Body → Body) : Prop := Answers o s (settled s (f (receipted v.hdr (unqueued s.body))))

end Sys2Proof.Machine
end

