-- ==== Sys2Proof/Certificates/Slice0/Obligations.lean ====
section
/-! DEFINITION. The statements for the provers: what the rules of the spec say of each command, of a step, and of reset. Vocabulary in
`Sys2Proof.Safety`. -/

open Sys2Proof Sys2Proof.Machine

/-- R49, R90, R113, R139, R203, R311, R331: a write of `CLR` 1 empties the log of a context page, a memory error log or the event log, and zeroes its
overflow count; `CLRCNT` zeroes the counters of numeric events, and the other fields of its register take the written values, which serve
at once only while no step is open. Nothing else of the module changes. -/
def Obligations.LogsAndCountersClear : Prop :=
  (∀ (s : State) (slot : Fin 4096), served s.body (.ctx slot.val) = true →
    Answers (exec (.hazlogstatClr slot) s) s
      (modCtx (touched s.body) slot.val fun c => { c with log := { c.log with haz := [], hazOvf := 0 } }) ∧
    Answers (exec (.illstatClr slot) s) s
      (modCtx (touched s.body) slot.val fun c => { c with log := { c.log with ill := [], illOvf := 0 } }) ∧
    Answers (exec (.stripstatClr slot) s) s
      (modCtx (touched s.body) slot.val fun c => { c with log := { c.log with strip := [], stripOvf := 0 } }) ∧
    Answers (exec (.faultstatClr slot) s) s
      (modCtx (touched s.body) slot.val fun c => { c with fault := [], faultOvf := 0 })) ∧
  (∀ (s : State) (slot : Fin 4096) (w : BitVec 32),
    served s.body (.ctx slot.val) = true →
    Answers (exec (.clrcnt slot w) s) s
      (modCtx (touched s.body) slot.val fun c => { c with num := { c.num with
        cnt := NumCounts.zero
        flagMask := fld w.toNat 11 8
        mxScale := bit w.toNat 0
        flagIn := if c.led.openStep.isSome then c.num.flagIn else fld w.toNat 11 8
        mxIn := if c.led.openStep.isSome then c.num.mxIn else bit w.toNat 0 } })) ∧
  (∀ (s : State),
    (∀ n : Fin 8, served s.body (.hbm n.val) = true →
      Answers (exec (.memLogstatClr (.hbm n)) s) s (modStack (touched s.body) n.val fun x => { x with log := { recs := [], ovf := 0 } })) ∧
    (served s.body .tb = true →
      Answers (exec (.memLogstatClr .tierB) s) s (modTb (touched s.body) fun x => { x with log := { recs := [], ovf := 0 } })) ∧
    (∀ d : Fin 4, served s.body (.str d.val) = true →
      Answers (exec (.memLogstatClr (.stratum d)) s) s (modStr (touched s.body) d.val fun x => { x with log := { recs := [], ovf := 0 } })) ∧
    (served s.body .kpr = true →
      Answers (exec .kprEvstatClr s) s
        { touched s.body with kpr := { (touched s.body).kpr with ev := [], evOvf := 0 } }))

/-- R335: `RETIRE` written 1 marks an ACTIVE panel, which leaves at its next rotation release; `CLASSOK` takes the written value. -/
def Obligations.RetireMarksPanel : Prop := ∀ (s : State) (p : PhysRef) (w : BitVec 32),
  let k := pkey p.die.val p.pp.val
  served s.body (.pnl k) = true → (panelAt s.body k).st = .active →
  Answers (exec (.pnlFmctlRetire p w) s) s
    (modPanel (touched s.body) k fun q => { q with retire := true, classOff := 63 - w.toNat % 64 })

/-- R399, R402, Table 15-7: `ERRTEST` sets `TEST` of the page's summary; a write of `PG_ERRSUM` clears the bits written 1, but
for those that hardware has set in the same K cycle (R395); nothing else changes. -/
def Obligations.ErrorSummaryTestAndClear : Prop := ∀ (s : State) (page : Fin 65536) (p : Pg) (w : BitVec 32),
  pageAt page.val = some p → (match p with | .msix _ | .pba => False | _ => True) → served s.body p = true →
  (∃ t, exec (.errtest page) s = .next t ∧ Leaves s t (touched s.body) ∧ bit (fget t.body.dir.errSum p.num) 31 = true) ∧
  (∃ t, exec (.errsumClear page w) s = .next t ∧ Leaves s t (touched s.body))

/-- R394, R395: a write of a register that is no low word of a writable pair is received, and waits for the end of the current K cycle behind
the writes that come before it in the order of threads, PCIe and I3C; a malformed access is counted once, and a malformed read returns
zeros, a malformed write changes nothing. -/
def Obligations.AccessesAreReceivedOrCounted : Prop :=
  (∀ (s : State) (r : Req) (off : Fin 268435456) (v : BitVec 32) (p : Pg),
    pageAt (off.val / 4096) = some p → mayWrite s.body r p = true → p ≠ .hst →
    let b := noteWrite s.body (reqNum r)
    Answers (exec (.registerWrite r off v) s) s
      { b with dir := { b.dir with
        regq := b.dir.regq.filter (fun y => decide (y.ord ≤ reqOrd r)) ++ [⟨reqOrd r, off.val, v.toNat⟩] ++
          b.dir.regq.filter (fun y => decide (reqOrd r < y.ord)) } }) ∧
  (∀ (s : State) (off : Fin 268435456) (len : Nat),
    malformed off.val len = true → s.body.kpr.pwr.off = false → s.body.kpr.pwr.hold = 0 → s.body.kpr.pwr.st ≠ .night →
    let b := touched { s.body with dir := { s.body.dir with badAcc := min (s.body.dir.badAcc + 1) 0xFFFFFFFF } }
    Answers (exec (.malformedAccess true off len) s) s b ∧
    Answers (exec (.malformedAccess false off len) s) s
      (modAcc b 0 fun a => { a with lastRead := List.replicate len 0 }))

/-- R398: a write of the low word of a writable pair is held; the next write of its high word by the same requester is received together with
it, and alone without a held low word; any other access of the requester discards a held low word. Only the admin ring's two bases,
`HST_ARCMD` and `HST_ARCPL`, are writable pairs, and only the PCIe function may write their page. -/
def Obligations.PairWritesGoTogether : Prop := ∀ (s : State) (off : Fin 268435456) (v : BitVec 32) (p : Pg),
  pageAt (off.val / 4096) = some p → served s.body p = true →
  let o := off.val % 4096
  let lo := p = .hst ∧ (o = 0x44 ∨ o = 0x4C)
  let hi := p = .hst ∧ (o = 0x48 ∨ o = 0x50)
  (lo → ∃ t, exec (.pairLoWrite .pcie off v) s = .next t ∧
    accOf t.body 0 = { accOf s.body 0 with capOff := none, heldOff := some off.val, heldVal := v } ∧
    Leaves s t { s.body with dir := { s.body.dir with acc := t.body.dir.acc } }) ∧
  (hi → (accOf s.body 0).heldOff = some (off.val - 4) → Answers (exec (.pairHiWrite .pcie off v) s) s
    (regPut (regPut (touched s.body) ⟨2 ^ 20, off.val - 4, (accOf s.body 0).heldVal.toNat⟩) ⟨2 ^ 20, off.val, v.toNat⟩)) ∧
  (hi → (accOf s.body 0).heldOff ≠ some (off.val - 4) → Answers (exec (.pairHiWrite .pcie off v) s) s
    (regPut (touched s.body) ⟨2 ^ 20, off.val, v.toNat⟩)) ∧
  (∀ c : Instr, c = .pairLoRead .pcie off ∨ c = .pairHiRead .pcie off ∨ (¬ lo ∧ c = .registerWrite .pcie off v) ∨ (¬ lo ∧ c = .pairLoWrite .pcie off v) →
    ∃ t, exec c s = .next t ∧ (accOf t.body 0).heldOff = none) ∧
  (∀ r, r ≠ .pcie → mayWrite s.body r .hst = false)

/-- R397: a read of a low word returns it and captures the high word of the same instant; a read of the high word that follows
returns the capture. -/
def Obligations.PairReadsShareAnInstant : Prop := ∀ (s : State) (off : Fin 268435456) (p : Pg),
  pageAt (off.val / 4096) = some p →
  (isLo p (off.val % 4096) = true → isHi p (off.val % 4096) = false →
    ∃ t, exec (.pairLoRead .pcie off) s = .next t ∧
      accOf t.body 0 = { accOf s.body 0 with capOff := some off.val, capVal := BitVec.ofNat 32 (regRead s.env s.body (off.val + 4))
                                             heldOff := none, lastRead := le 4 (regRead s.env s.body off.val) } ∧
      Leaves s t { s.body with dir := { s.body.dir with acc := t.body.dir.acc } }) ∧
  (isHi p (off.val % 4096) = true → isLo p (off.val % 4096) = false → (accOf s.body 0).capOff = some (off.val - 4) →
    ∃ t, exec (.pairHiRead .pcie off) s = .next t ∧
      accOf t.body 0 = { accOf s.body 0 with capOff := none, heldOff := none, lastRead := le 4 (accOf s.body 0).capVal.toNat } ∧
      Leaves s t { s.body with dir := { s.body.dir with acc := t.body.dir.acc } })

/-- R68: the register slots of the SCL slot. The result of the two source registers becomes visible in the cycle of issue plus the
latency, with the poison of the sources; the thread goes on; nothing else changes but the panel's last issue cycle. -/
def Obligations.ScalarRegisterSlots : Prop := ∀ (s : State) (t : ThreadRef) (k : Nat) (w : BitVec 32),
  MayIssue s t k → fld w.toNat 10 0 = 0 →
  ∀ c ∈ ([(.add t w, 1, fun x y => x + y), (.sub t w, 1, fun x y => x - y), (.andOp t w, 1, fun x y => x &&& y),
      (.orOp t w, 1, fun x y => x ||| y), (.xorOp t w, 1, fun x y => x ^^^ y), (.shl t w, 1, fun x y => x <<< (y.toNat % 64)),
      (.shr t w, 1, fun x y => x >>> (y.toNat % 64)), (.sra t w, 1, fun x y => x.sshiftRight (y.toNat % 64)),
      (.mul t w, 3, fun x y => x * y)] : List (Instr × Nat × (BitVec 64 → BitVec 64 → BitVec 64))),
  Issued (exec c.1 s) s t k (fun q =>
    let x := q.sreg (fld w.toNat 20 16)
    let y := q.sreg (fld w.toNat 15 11)
    { goesOn 6 q with
      res := lands s c.2.1 (.s (fld w.toNat 25 21)) (c.2.2 x.val y.val) (x.poison || y.poison) q }) id id

/-- R68: the immediate slots of the SCL slot: ADDI with the sign-extended, ANDI and ORI with the zero-extended immediate, SHLI by
its low six bits, LUI with the sign-extended immediate shifted left by 16 and no source. -/
def Obligations.ScalarImmediateSlots : Prop := ∀ (s : State) (t : ThreadRef) (k : Nat) (w : BitVec 32), MayIssue s t k →
  let imm := w.setWidth 16
  let result (f : BitVec 64 → BitVec 64) (q : Thread) : Thread :=
    let x := q.sreg (fld w.toNat 20 16)
    { goesOn 6 q with res := lands s 1 (.s (fld w.toNat 25 21)) (f x.val) x.poison q }
  Issued (exec (.addi t w) s) s t k (result fun x => x + imm.signExtend 64) id id ∧
  Issued (exec (.andi t w) s) s t k (result fun x => x &&& imm.setWidth 64) id id ∧
  Issued (exec (.ori t w) s) s t k (result fun x => x ||| imm.setWidth 64) id id ∧
  (fld w.toNat 15 6 = 0 → Issued (exec (.shli t w) s) s t k (result fun x => x <<< (fld w.toNat 5 0)) id id) ∧
  (fld w.toNat 20 16 = 0 → Issued (exec (.lui t w) s) s t k (result fun _ => imm.signExtend 64 <<< 16) id id)

/-- R68, R75, R80: the slots that write a predicate, a line register, or the tick counter as the panel sees it. -/
def Obligations.PredicateLineAndTickSlots : Prop := ∀ (s : State) (t : ThreadRef) (k : Nat) (w : BitVec 32), MayIssue s t k →
  let q0 := threadAt s t k
  let x := q0.sreg (fld w.toNat 20 16)
  let y := q0.sreg (fld w.toNat 15 11)
  let c := ctxAt s.body q0.slot
  let result (lat : Nat) (d : Dest) (v : BitVec 64) (po : Bool) (q : Thread) : Thread := { goesOn 6 q with res := lands s lat d v po q }
  let one (b : Bool) : BitVec 64 := if b then 1 else 0
  (fld w.toNat 22 21 = 0 → fld w.toNat 7 0 = 0 →
    (∀ cond ∈ ([(0, x.val == y.val), (1, x.val != y.val), (2, x.val.slt y.val), (3, y.val.sle x.val), (4, x.val.ult y.val),
        (5, y.val.ule x.val)] : List (Nat × Bool)),
      fld w.toNat 10 8 = cond.1 →
      Issued (exec (.cmp t w) s) s t k
        (result 1 (.p (fld w.toNat 25 23)) (one cond.2) (x.poison || y.poison)) id id)) ∧
  (fld w.toNat 25 25 = 0 → x.poison = false →
    Issued (exec (.mova t w) s) s t k
      (result 1 (.a (fld w.toNat 24 21)) (x.val + (w.setWidth 16).signExtend 64) false) id id) ∧
  (fld w.toNat 20 0 = 0 →
    Issued (exec (.tick t w) s) s t k
      (result 2 (.s (fld w.toNat 25 21)) (if s.clk.sub < 2 ∧ s.clk.tick ≠ 0 then s.clk.tick - 1 else s.clk.tick) false) id id) ∧
  (fld w.toNat 22 0 = 0 →
    Issued (exec (.testovf t w) s) s t k
      (result 1 (.p (fld w.toNat 25 23)) (one (c.led.openStep.isSome && c.num.flagSeen k s.clk.cyc)) false) id id) ∧
  (fld w.toNat 18 0 = 0 →
    Issued (exec (.testtok t w) s) s t k
      (result 1 (.p (fld w.toNat 25 23)) (one (q0.token (fld w.toNat 22 19) == 0)) false) id id)

/-- R68 to R75: the six no-operations only let the thread go on. -/
def Obligations.NoOperationSlots : Prop := ∀ (s : State) (t : ThreadRef) (k : Nat) (w : BitVec 32) (v : BitVec 64), MayIssue s t k →
  (fld w.toNat 25 0 = 0 →
    Issued (exec (.sclNop t w) s) s t k (goesOn 6) id id ∧ Issued (exec (.synNop t w) s) s t k (goesOn 6) id id) ∧
  (fld v.toNat 57 0 = 0 →
    Issued (exec (.vecNop t v) s) s t k (goesOn 10) id id ∧ Issued (exec (.matNop t v) s) s t k (goesOn 10) id id ∧
    Issued (exec (.ldxNop t v) s) s t k (goesOn 10) id id ∧ Issued (exec (.stxNop t v) s) s t k (goesOn 10) id id)

/-- R76 to R79, R53, R240, R77: a waiting slot puts its thread into WAIT on its condition from this cycle and tick, under the wait limit of
its context; PHASE counts its token besides; EVSET and EVCLR change one event of the thread's context at the end of the cycle, where a
set prevails over a clear; a panel sees the change after the transit from the panel that made it (Table 1-13). -/
def Obligations.WaitingAndEventSlots : Prop :=
  (∀ (s : State) (t : ThreadRef) (k : Nat) (w : BitVec 32), MayIssue s t k →
    let q0 := threadAt s t k
    let c := ctxAt s.body q0.slot
    let n (hi lo : Nat) : Nat := fld w.toNat hi lo
    let waits (on : WaitOn) (q : Thread) : Thread :=
      { goesOn 6 q with st := .wait, wait := some ⟨on, s.clk.cyc, s.clk.tick.toNat, false, c.set.waitLim, q.pc⟩ }
    (n 11 0 = 0 → Issued (exec (.wait t w) s) s t k (waits (.tok (n 25 22) (n 21 12))) id id) ∧
    (n 9 0 = 0 → Issued (exec (.waitm t w) s) s t k (waits (.tokMask (n 25 10))) id id) ∧
    (n 19 0 = 0 → Issued (exec (.evwait t w) s) s t k (waits (.ev (n 25 20))) id id ∧
      Issued (exec (.evwaitc t w) s) s t k (waits (.evClear (n 25 20))) id id) ∧
    (n 23 0 = 0 → n 25 24 ≠ 0 →
      Issued (exec (.sealwait t w) s) s t k (waits (.seal (c.led.openStep.getD (c.led.lastClosed + 1) - n 25 24))) id id) ∧
    (n 15 0 = 0 → Clean s t k [n 25 21, n 20 16] →
      Issued (exec (.fenceCopy t w) s) s t k
        (waits (.fence (q0.sreg (n 25 21)).val.toNat (q0.sreg (n 20 16)).val.toNat)) id id) ∧
    (n 25 0 = 0 → Issued (exec (.rotate t w) s) s t k (waits .rotate) id id) ∧
    (n 17 0 = 0 →
      Issued (exec (.phase t w) s) s t k (waits (.phase (c.led.openStep.getD 0) (n 25 18))) id fun b => phaseIssue b q0.slot (n 25 18))) ∧
  ((∀ (s : State) (t : ThreadRef) (k : Nat) (w : BitVec 32), MayIssue s t k → fld w.toNat 19 0 = 0 →
      let m : BitVec 64 := 1#64 <<< (fld w.toNat 25 20)
      let queue (set clr : BitVec 64) (b : Body) : Body :=
        { b with ctx := { b.ctx with evq := b.ctx.evq ++ [((threadAt s t k).slot, some k, set, clr)] } }
      Issued (exec (.evset t w) s) s t k (goesOn 6) id (queue m 0) ∧
      Issued (exec (.evclr t w) s) s t k (goesOn 6) id (queue 0 m)) ∧
    (∀ (e : Env) (b : Body) (slot : Nat), (ctxAt b slot).evLog = [] → (ctxAt b slot).evOld = (ctxAt b slot).ev →
      let mine := b.ctx.evq.filter (·.1 == slot)
      let set := mine.foldl (fun m q => m ||| q.2.2.1) 0
      let clr := mine.foldl (fun m q => m ||| q.2.2.2) 0
      let c := ctxAt (commitEvents e b) slot
      c.ev = ((ctxAt b slot).ev &&& ~~~clr) ||| set ∧
      ∀ j k t, mine.all (fun q => q.2.1 == some j) = true →
        c.evView k t = if e.cyc + panelTransit j k ≤ t then c.ev else (ctxAt b slot).ev))

/-- R81 to R85: a branch goes to its target when its condition holds and to the next bundle when it does not; CALL leaves the next
bundle's address in s31; a loop entry pushes the loop, or with count 0 goes past it; EXITIF leaves the innermost loop. -/
def Obligations.BranchAndLoopSlots : Prop := ∀ (s : State) (t : ThreadRef) (k : Nat) (w : BitVec 32), MayIssue s t k →
  let q0 := threadAt s t k
  let n (hi lo : Nat) : Nat := fld w.toNat hi lo
  let next := (q0.pc + 6) % 2 ^ 48
  let p := q0.preg (n 24 22)
  let holds : Prop := p.val ≠ w.getLsbD 25
  let jump (a : Nat) (l : List LoopEnt) (q : Thread) : Thread := { q with pc := a, loops := l, idle := 0, wait := none }
  let inside (a : Nat) : Prop := a % 2 = 0 ∧ ∀ l ∈ q0.loops.head?, l.first ≤ a ∧ a ≤ l.last ∧ ∀ x ∈ q0.loops, x.last ≠ q0.pc
  let rel := (BitVec.ofNat 48 q0.pc + ((w.setWidth 22).signExtend 48) * 2#48).toNat
  let reg := (q0.sreg (n 20 16)).val.toNat % 2 ^ 48
  let last := (q0.pc + 2 * n 15 0) % 2 ^ 48
  let enters (c : Nat) (i : Instr) : Prop :=
    next ≤ last → (∀ l ∈ q0.loops.head?, last ≤ l.last) →
      (c ≠ 0 → q0.loops.length < 4 → Issued (exec i s) s t k (jump next (⟨c, next, last⟩ :: q0.loops)) id id) ∧
      (c = 0 → ∀ a, afterBundle q0 last = some a → Issued (exec i s) s t k (jump a q0.loops) id id)
  (p.poison = false →
    (¬ holds → Issued (exec (.br t w) s) s t k (goesOn 6) id id ∧ Issued (exec (.call t w) s) s t k (goesOn 6) id id) ∧
    (holds → inside rel → Issued (exec (.br t w) s) s t k (jump rel q0.loops) id id ∧
      Issued (exec (.call t w) s) s t k
        (fun q => { jump rel q0.loops q with res := lands s 0 (.s 31) (BitVec.ofNat 64 next) false q }) id id) ∧
    (n 21 21 = 0 → n 15 0 = 0 →
      (¬ holds → Issued (exec (.jr t w) s) s t k (goesOn 6) id id) ∧
      (holds → (q0.sreg (n 20 16)).poison = false → inside reg → Issued (exec (.jr t w) s) s t k (jump reg q0.loops) id id)) ∧
    (n 21 0 = 0 → q0.loops ≠ [] →
      (¬ holds → Issued (exec (.exitif t w) s) s t k (goesOn 6) id id) ∧
      (holds → ∀ l r, q0.loops = l :: r →
        ∀ a, (if l.last = q0.pc then some next else afterBundle q0 l.last) = some a →
          let z := loopEnds q0.pc a r
          Issued (exec (.exitif t w) s) s t k (jump z.1 z.2) id id))) ∧
  (n 20 16 = 0 → (q0.sreg (n 25 21)).poison = false → enters ((q0.sreg (n 25 21)).val.toNat % 2 ^ 24) (.loop t w)) ∧
  enters (n 25 16) (.loopi t w)

/-- R87: a scalar load that hits gives the word and the poison of its cache line; a store that hits merges the word, marks the line
dirty and keeps its poison or the value's. -/
def Obligations.DataCacheSlots : Prop := ∀ (s : State) (t : ThreadRef) (k : Nat) (w : BitVec 32), MayIssue s t k →
  let q0 := threadAt s t k
  let x := q0.sreg (fld w.toNat 20 16)
  let r := fld w.toNat 25 21
  let a := (x.val + (w.setWidth 16).signExtend 64).toNat
  let place := a / 64 % (q0.dshare * 16)
  let l := fget q0.dline place
  x.poison = false → a % 8 = 0 → q0.dshare ≠ 0 → l.valid = true → l.addr = a / 64 →
  let c := fun b => cacheRead s.env b (k / 9) (k % 9) place q0.slot l.err (a % 64 / 4) (a % 64 / 4 + 2)
  Issued (exec (.sclLd t w) s) s t k (fun q =>
    { goesOn 6 q with
      res := lands s 4 (.s r) (l.data.extractLsb' (8 * (a % 64)) 64)
        (l.poison || l.err.ue.getLsbD (a % 64 / 4) || l.err.ue.getLsbD (a % 64 / 4 + 1)) q }) id (fun b => (c b).1) ∧
  Issued (exec (.sclSt t w) s) s t k (fun q =>
    let v := q0.sreg r
    { goesOn 6 q with
      dline := fset q.dline place { l with
        data := mergeLine l.data (v.val.setWidth 512 <<< (8 * (a % 64))) (0xFF#64 <<< (a % 64))
        dirty := true
        poison := l.poison || v.poison
        err := l.err.written (0xFF#64 <<< (a % 64)) } }) id id

/-- R68: LDSP reads and STSP writes 8 scratchpad bytes in cycle issue + 2, CSRR samples and CSRW writes a register in the K cycle
at its fixed distance from issue; the line of an STSP is pending from issue. -/
def Obligations.ScheduledScalarSlots : Prop := ∀ (s : State) (t : ThreadRef) (k : Nat) (w : BitVec 32), MayIssue s t k →
  let q0 := threadAt s t k
  let r := fld w.toNat 25 21
  let v := q0.sreg r
  let a := ((q0.sreg (fld w.toNat 20 16)).val + (w.setWidth 16).signExtend 64).toNat
  let i := insAt s t k 0
  let k8 (n : Nat) : Nat := s.clk.cyc + n - (s.clk.sub + n) % 8
  Clean s t k [fld w.toNat 20 16] →
  (Carried planLdsp s t k 0 0x22 w.toNat →
    Issued (exec (.ldsp t w) s) s t k (goesOn 6) (fun p => { p with scalar := p.scalar ++ [⟨i 0x22, s.clk.cyc + 2, .ldsp a r⟩] }) id) ∧
  (Carried planStsp s t k 0 0x23 w.toNat →
    Issued (exec (.stsp t w) s) s t k (goesOn 6) (fun p =>
      { p with
        pendq := p.pendq ++ [⟨a / 64, i 0x23⟩]
        wq := p.wq ++ [{ cyc := s.clk.cyc + 2, prio := 4, line := a / 64, mask := 0xFF#64 <<< (a % 64)
                         data := v.val.setWidth 512 <<< (8 * (a % 64)), poison := v.poison, last := true, ins := i 0x23 }] }) id) ∧
  (∀ c, csrLat (place s t k 0) a = some c → a % 4 = 0 →
    Issued (exec (.csrr t w) s) s t k (goesOn 6)
      (fun p => { p with scalar := p.scalar ++ [⟨i 0x2B, k8 c.1, .csrr a r (s.clk.cyc + c.2)⟩] }) id) ∧
  (a % 4 = 0 → a / 4096 = 0x8000 + q0.slot →
    Issued (exec (.csrw t w) s) s t k (goesOn 6)
      (fun p => { p with scalar := p.scalar ++ [⟨i 0x2C, k8 64, .csrw a (v.val.setWidth 32)⟩] }) id)

/-- R73, R74, R86, R169, R410: a load takes one tag for each 256 bytes, counts its token up, sets its destination lines pending and
starts with its lines and their memory-side bytes: LD of whole lines, LDK of the bytes of its keep format, IFILL of the residency
entry it names, which is not valid until the token counts down. -/
def Obligations.LoadsStart : Prop := ∀ (s : State) (t : ThreadRef) (k : Nat), MayIssue s t k →
  let q0 := threadAt s t k
  (∀ (w : BitVec 64), Clean s t k [fld w.toNat 57 53, fld w.toNat 12 8] →
    let n := fld w.toNat 40 31 + 1
    let l := q0.areg (fld w.toNat 52 49)
    let tok := fld w.toNat 44 41
    let addr := (q0.sreg (fld w.toNat 57 53)).val.toNat
    let str (full : Nat) := strideOf (fld w.toNat 12 8) (q0.sreg (fld w.toNat 12 8)) full
    (Carried planLdxLd s t k 3 0x01 w.toNat → MayStart s t k (tagsFor (64 * n)) tok →
      ∀ g, xlateAll s.body q0.slot false (rowRanges n 64 addr (str 1024)) = .ok g →
      let i := insAt s t k 3 0x01
      Issued (exec (.ldxLd t w) s) s t k (goesOnUp 10 tok)
        (loads i (span l n) (tagsFor (64 * n)) ⟨i, tok, tagsFor (64 * n), .ld, 0, plainLines l n (cutSegs n g 64), [], [], 0, false, []⟩) id) ∧
    (Carried planLdk s t k 3 0x03 w.toNat →
      let code := fld w.toNat 30 27
      let mx : Bool := decide (code = 3 ∨ code = 4)
      let b := ldkBytes code n
      let x2 := q0.sreg (fld w.toNat 57 53 + 1)
      (mx = true → x2.poison = false) → MayStart s t k (tagsFor (b.1 + b.2)) tok →
      ∀ g g2, xlateAll s.body q0.slot false (if 7 ≤ code then [(addr, b.1)] else
          rowRanges n (if mx then 16 else 64) addr (str (16 * if mx then 16 else 64))) = .ok g →
        xlateAll s.body q0.slot false (if mx then [(x2.val.toNat, b.2)] else []) = .ok g2 →
      let i := insAt s t k 3 0x03
      Issued (exec (.ldk t w) s) s t k (goesOnUp 10 tok)
        (loads i (span l n) (tagsFor (b.1 + b.2))
          ⟨i, tok, tagsFor (b.1 + b.2), .ldk code, 0, ldkLines code l n g g2, [], if 7 ≤ code then g else [], 0, false, []⟩) id)) ∧
  (∀ (w : BitVec 32), Clean s t k [fld w.toNat 25 21] → Carried planIfill s t k 5 0x10 w.toNat →
    let n := fld w.toNat 20 11 + 1
    let tok := fld w.toNat 10 7
    let en := fld w.toNat 6 5
    let addr := (q0.sreg (fld w.toNat 25 21)).val.toNat
    MayStart s t k (tagsFor (64 * n)) tok →
    ∀ g, xlateAll s.body q0.slot false [(addr, 64 * n)] = .ok g →
    let i := insAt s t k 5 0x10
    let todo := ((cutSegs n g 64).zip (List.range n)).map fun z => (⟨0, z.2, z.1, [], [z.2 / 4]⟩ : LdLine)
    Issued (exec (.ifill t w) s) s t k
      (fun q => { goesOnUp 6 tok q with ient := fset q.ient en ⟨false, addr, 64 * n, List.replicate (64 * n) 0, [], []⟩ })
      (fun p => { p.takeTags (tagsFor (64 * n)) with
        load := p.load ++ [⟨i, tok, tagsFor (64 * n), .ifill en, addr, todo, [], [], 0, false, []⟩] }) id)

/-- R71, R74, R164, R231: the start of a far get, and of a load through Mitre: tags and token taken, lines pending, packets or rows asked for. -/
def Obligations.FarGetAndMitreLoadStart : Prop :=
  (∀ (s : State) (t : ThreadRef) (k : Nat) (w : BitVec 64), MayIssue s t k →
    let q0 := threadAt s t k
    let n := fld w.toNat 40 31 + 1
    let l := q0.areg (fld w.toNat 52 49)
    let tok := fld w.toNat 44 41
    let peer := fld w.toNat 26 13
    let i := insAt s t k 3 0x04
    Clean s t k [fld w.toNat 57 53, fld w.toNat 12 8] → Carried planFget s t k 3 0x04 w.toNat → MayStart s t k (tagsFor (64 * n)) tok →
    ∀ e, peerEntry (ctxAt s.body q0.slot) peer = some e →
    Issued (exec (.fget t w) s) s t k (goesOnUp 10 tok)
      (loads i (span l n) (tagsFor (64 * n)) ⟨i, tok, tagsFor (64 * n), .fget peer, 0,
        (List.range n).map fun j => ⟨l + j, j, [], [], [j / 4]⟩, [], [], 0, false, []⟩)
      fun b => sendGets b i (entryUnit e) n (q0.sreg (fld w.toNat 57 53)).val.toNat
        (strideOf (fld w.toNat 12 8) (q0.sreg (fld w.toNat 12 8)) 1024)) ∧
  (∀ (s : State) (t : ThreadRef) (k : Nat) (w : BitVec 64), MayIssue s t k →
    let q0 := threadAt s t k
    let P := panelAt s.body k
    let st := (ctxAt s.body q0.slot).set
    let n := fld w.toNat 40 31 + 1
    let d := q0.areg (fld w.toNat 52 49)
    let tok := fld w.toNat 44 41
    let mode := fld w.toNat 30 27
    let z := mitreSize mode
    let tiles := n / z.2.2.2.2
    let pl := mitrePlace mode d
    let mx : Bool := st.mitreMx && decide (mode = 2 ∨ mode = 3)
    let addr := (q0.sreg (fld w.toNat 57 53)).val.toNat
    let x2 := q0.sreg (fld w.toNat 57 53 + 1)
    let row := z.1 * z.2.1 / 8
    let stride := strideOf (fld w.toNat 12 8) (q0.sreg (fld w.toNat 12 8)) row
    let sstride := if fld w.toNat 12 8 = 0 then 8 else stride / (if mode = 2 then 32 else 16)
    let nb := tiles * (z.1 * row) + (if mx then tiles * z.1 * 8 else 0)
    let i := insAt s t k 3 0x02
    Clean s t k [fld w.toNat 57 53, fld w.toNat 12 8] → (mx = true → x2.poison = false) → Carried planLdt s t k 3 0x02 w.toNat →
    let mine := P.ldt.filter fun x => x.ins.slot == q0.slot && x.ins.handle == q0.handle
    (mine.length < 4 → MayStart s t k (tagsFor nb) tok →
      ∀ g g2, xlateAll s.body q0.slot false ((List.range (z.1 * tiles)).map fun r => (addr + r * stride, row)) = .ok g →
        xlateAll s.body q0.slot false (if mx then (List.range (z.1 * tiles)).map fun r => (x2.val.toNat + r * sstride, 8) else []) = .ok g2 →
      Issued (exec (.ldt t w) s) s t k (goesOnUp 10 tok)
        (fun p => { (p.pend i (mitreLines mode pl.2.1 pl.2.2 pl.1 tiles mx)).takeTags (tagsFor nb) with
          ldt := p.ldt ++ [⟨i, tok, tagsFor nb, mode, if mx then some (if mode = 2 then st.mitreFmt else 0xA) else none, tiles, 0, 0,
            pl.1, pl.2.1, pl.2.2, cutSegs (z.1 * tiles) g row, cutSegs (if mx then z.1 * tiles else 0) g2 8, []⟩] }) id) ∧
    (4 ≤ mine.length → P.seen.all (fun x => x.uid != s.body.uid + 1) = true →
      ∃ s', exec (.ldt t w) s = .next s' ∧ threadAt s' t k = goesOn 10 q0 ∧ (panelAt s'.body k).ldt = P.ldt ∧
        (panelAt s'.body k).load = P.load ∧ fget (ctxAt s'.body q0.slot).log.hazCnt 6 =
          satAdd 0xFFFFFFFF (fget (ctxAt s.body q0.slot).log.hazCnt 6) 1))

/-- R73, R119, R169, R231: a store takes its tags and its token and starts with its lines and the memory-side ranges of its bytes:
ST of whole lines, STC and STK of converted bytes (with the scale bytes of an MX format or the length word of a keep segment in a second
range), FPUT with the peer, the address and the stride there. -/
def Obligations.StoresStart : Prop := ∀ (s : State) (t : ThreadRef) (k : Nat) (w : BitVec 64), MayIssue s t k →
  let q0 := threadAt s t k
  let c := ctxAt s.body q0.slot
  let n := fld w.toNat 40 31 + 1
  let src : ORef := ⟨q0.areg (fld w.toNat 52 49), if w.getLsbD 48 then some (fld w.toNat 47 45) else none⟩
  let tok := fld w.toNat 44 41
  let code := fld w.toNat 30 27
  let rnd := fld w.toNat 26 24
  let addr := (q0.sreg (fld w.toNat 57 53)).val.toNat
  let x2 := q0.sreg (fld w.toNat 57 53 + 1)
  let str (full : Nat) := strideOf (fld w.toNat 9 5) (q0.sreg (fld w.toNat 9 5)) full
  let ix (opc : Nat) := insAt s t k 4 opc
  let xl (rs : List (Nat × Nat)) := xlateAll s.body q0.slot true rs
  Clean s t k [fld w.toNat 57 53, fld w.toNat 9 5] →
  (Carried planStxSt s t k 4 0x01 w.toNat → MayStart s t k (tagsFor (64 * n)) tok →
    ∀ g, xl (rowRanges n 64 addr (str 1024)) = .ok g →
    Issued (exec (.stxSt t w) s) s t k (goesOnUp 10 tok)
      (stores (tagsFor (64 * n)) (newStore (ix 0x01) tok (tagsFor (64 * n)) .st src n g [] false 0)) id) ∧
  (Carried planStc s t k 4 0x02 w.toNat → ∀ f, Target.ofCode code = some f → (f.isMx = true → x2.poison = false) →
    let b := stcBytes f n
    MayStart s t k (tagsFor (b.1 + b.2)) tok →
    ∀ g g2, xl (rowRanges n (2 * f.bits) addr (str (16 * (2 * f.bits)))) = .ok g →
      xl (if f.isMx then [(x2.val.toNat, b.2)] else []) = .ok g2 →
    Issued (exec (.stc t w) s) s t k (goesOnUp 10 tok)
      (stores (tagsFor (b.1 + b.2)) (newStore (ix 0x02) tok (tagsFor (b.1 + b.2)) (.stc code rnd) src n g g2 c.num.mxIn
        (insKey64 c 2 (ix 0x02)))) id) ∧
  (Carried planStk s t k 4 0x03 w.toNat →
    let mx : Bool := decide (code = 3 ∨ code = 4)
    let seg : Bool := decide (code = 7 ∨ code = 8)
    let ne := stkPer code * n
    let ns := if mx then n / 2 else if seg then 8 else 0
    ((mx || seg) = true → x2.poison = false) → MayStart s t k (tagsFor (ne + ns)) tok →
    ∀ g g2, xl (if seg then [(addr, ne)] else rowRanges n (stkPer code) addr (str (16 * stkPer code))) = .ok g →
      xl (if mx || seg then [(x2.val.toNat, ns)] else []) = .ok g2 →
    Issued (exec (.stk t w) s) s t k (goesOnUp 10 tok)
      (stores (tagsFor (ne + ns)) (newStore (ix 0x03) tok (tagsFor (ne + ns)) (.stk code rnd) src n g g2 c.num.mxIn
        (insKey64 c 2 (ix 0x03)))) id) ∧
  (Carried planFput s t k 4 0x04 w.toNat → MayStart s t k (tagsFor (64 * n)) tok →
    ∀ e, peerEntry c (fld w.toNat 23 10) = some e →
    Issued (exec (.fput t w) s) s t k (goesOnUp 10 tok)
      (stores (tagsFor (64 * n)) { newStore (ix 0x04) tok (tagsFor (64 * n)) (.fput e.toNat) src n [] [] false 0 with
        addr := addr, stride := str 1024 }) id)

/-- R74, R87: DFILL makes the places of its lines invalid, starts the load of the lines and writes back the dirty lines it displaces,
whose bytes count among those it moves; DWB writes back the dirty lines of its range, which become clean, and with none of them is
complete at once. -/
def Obligations.CacheTransfersStart : Prop := ∀ (s : State) (t : ThreadRef) (k : Nat) (w : BitVec 32), MayIssue s t k →
  let q0 := threadAt s t k
  let n := fld w.toNat 15 0
  let tok := fld w.toNat 24 21
  let a := (q0.sreg (fld w.toNat 20 16)).val.toNat
  Clean s t k [fld w.toNat 20 16] → w.getLsbD 25 = false → n ≠ 0 → q0.dshare ≠ 0 →
  (∀ wb g, writeBacks s.body q0.slot (dirtyLines q0 a n false) = .ok wb → xlate s.body q0.slot (a / 64 * 64) (64 * n) false = .ok g →
    let d := wb.length
    MayStart s t k (tagsFor (64 * (n + d))) tok →
    let i := insAt s t k 0 0x24
    let todo := (List.range n).map fun j =>
      ({ line := (a / 64 + j) % (q0.dshare * 16), idx := a / 64 + j, segs2 := [], grp := [(d + j) / 4]
         segs := match xlate s.body q0.slot ((a / 64 + j) * 64) 64 false with | .ok x => x | .fault _ => [] } : LdLine)
    let out := (wb.zip (List.range d)).map fun x => { x.1 with grp := if x.2 / 4 < d / 4 then [x.2 / 4] else [] }
    Issued (exec (.dfill t w) s) s t k
      (fun q => { goesOnUp 6 tok q with dline := todo.foldl (fun m x => fmod m x.line fun l => { l with valid := false }) q.dline })
      (fun p => { p.takeTags (tagsFor (64 * (n + d))) with
        load := p.load ++ [⟨i, tok, tagsFor (64 * (n + d)) - d / 4, .dfill, a, todo, [], [], 0, false, []⟩]
        store := if wb.isEmpty then p.store else p.store ++ [chunkStore i 16 (d / 4) out] })
      fun b => findDirty s.env b k q0.slot (dirtyLines q0 a n false)) ∧
  (∀ wb, writeBacks s.body q0.slot (dirtyLines q0 a n true) = .ok wb → MayStart s t k (tagsFor (64 * wb.length)) tok →
    let i := insAt s t k 0 0x25
    let out := (wb.zip (List.range wb.length)).map fun x => { x.1 with grp := [x.2 / 4] }
    (wb = [] → Issued (exec (.dwb t w) s) s t k (fun q => (goesOnUp 6 tok q).tokDown tok) id id) ∧
    (wb ≠ [] → Issued (exec (.dwb t w) s) s t k
      (fun q => { goesOnUp 6 tok q with
        dline := (dirtyLines q0 a n true).foldl (fun m x => fset m x.1 { x.2 with dirty := false }) q.dline })
      (fun p => { p.takeTags (tagsFor (64 * wb.length)) with
        store := p.store ++ [chunkStore i tok (tagsFor (64 * wb.length)) out] })
      fun b => findDirty s.env b k q0.slot (dirtyLines q0 a n true)))

/-- R99, R102: LOADW starts the loader on a latch set, which has its format from then on; PASS streams its rows against a latch set
that is ready, with the lines of its partial-sum region pending. -/
def Obligations.TrowelSlotsStart : Prop := ∀ (s : State) (t : ThreadRef) (k : Nat) (w : BitVec 64), MayIssue s t k →
  let q0 := threadAt s t k
  let P := panelAt s.body k
  let n (hi lo : Nat) : Nat := fld w.toNat hi lo
  (Carried planLoadw s t k 2 0x01 w.toNat → loadwBusy P s.clk.cyc (n 49 49) = false →
    let i := insAt s t k 2 0x01
    Issued (exec (.loadw t w) s) s t k (goesOn 10) (fun p =>
      { p with
        loadw := [⟨i, n 49 49, n 48 45, q0.areg (n 57 54), if w.getLsbD 53 then some (n 52 50) else none, [], 0, false⟩]
        latch := fmod p.latch (n 49 49) fun x => { x with fmt := some (n 48 45), load := s.clk.cyc } }) id) ∧
  (Carried planPass s t k 2 0x02 w.toNat →
    let rows := n 25 16 + 1
    let pair := w.getLsbD 55
    let ps : ORef := ⟨q0.areg (n 37 34), if w.getLsbD 33 then some (n 32 30) else none⟩
    passBusy P s.clk.cyc (n 15 15) rows (twC (twClass (n 52 49))) (w.getLsbD 56) = false →
    (w.getLsbD 57 = true → psIssueHaz s.body k q0.slot pair ps rows = ([], [])) →
    let i := insAt s t k 2 0x02
    Issued (exec (.pass t w) s) s t k (goesOn 10) (fun p =>
      { p.pend i ((List.range rows).flatMap (psLines pair ps.line)) with
        pass := p.pass ++ [{ ins := i, n := rows, c := twC (twClass (n 52 49)), acc := w.getLsbD 57, drain := w.getLsbD 56, pair := pair
                             grp := 4 * 2 ^ n 54 53, fmt := n 52 49, rnd := n 48 46, strm := q0.areg (n 45 42)
                             strmExp := if w.getLsbD 41 then some (n 40 38) else none, psum := ps.line, badRows := [], hod := n 29 26
                             lat := n 15 15, key := insKey64 (ctxAt s.body q0.slot) 0 i, cap := [], sums := [] }] }) id)

/-- R152, R157, R160, R198: a CHAIN or CHAINH, whose first source is a Hod slot, or a FILL joins Skim when it is free, which is then busy
for its segments (and a chain's latency); the lines it writes are pending; the errors of its descriptor's words are found. -/
def Obligations.SkimSlotsStart : Prop := ∀ (s : State) (t : ThreadRef) (k : Nat) (w : BitVec 64), MayIssue s t k →
  let q0 := threadAt s t k
  let ic := place s t k 1
  let c := ctxAt s.body q0.slot
  let f (hi lo : Nat) : Nat := fld w.toNat hi lo
  let d := descOf (fget (fget c.chain t.die.val) (f 57 48))
  let n := f 14 8 + 1
  let finds := fun b => cacheRead s.env b t.die.val 31 (f 57 48) q0.slot (fget (fget c.chainErr t.die.val) (f 57 48)) 0 16
  let bad : Bool := (fget (fget c.chainErr t.die.val) (f 57 48)).ue != 0
  let starts (hod : Bool) (i : Ins) (x : Instr) : Prop :=
    let g (j : Nat) : Nat := ((d.stages[j]?).map stageFmt).getD 0
    let v := withOpc 1 (if hod then 0x02 else 0x01) w.toNat
    let op : ChainOp :=
      { ins := i, n := n, s := d.s, stages := d.stages, kr := krOf d.stages, hod := if hod then some (f 23 20) else none
        hkeep := d.hkeep, dst := q0.areg (f 31 28), outFmt := g (d.nst - 1), sreg := q0.sreg (f 19 15), consts := d.consts
        streams := (List.range 4).map fun x => (x, (⟨(streamRef ic v d x).line, d.fmt x, d.mode x, (streamRef ic v d x).exp⟩ : Stream))
        en2 := if d.een then some (d.estg, q0.areg d.ereg, g d.estg) else none
        rv := if d.ren && decide (0 ≤ krOf d.stages) then some (q0.areg d.rreg) else none
        key := insKey64 c 1 i, acc := [], rvs := [], hodFirst := 0, hodLast := 0, drained := false, bad := bad }
    Issued (exec x s) s t k (goesOn 10) (fun p =>
      { p.pend i ((chainOuts ic v d n).flatMap fun x => span x.1 x.2) with
        chain := p.chain ++ [op.withHod]
        skimBusy := s.clk.cyc + n * d.s + chainLat (krOf d.stages) d.s }) fun b => (finds b).1
  (panelAt s.body k).skimBusy ≤ s.clk.cyc →
  (Carried planChain s t k 1 0x01 w.toNat → starts false (insAt s t k 1 0x01) (.chain t w)) ∧
  (Carried planChainh s t k 1 0x02 w.toNat → starts true (insAt s t k 1 0x02) (.chainh t w)) ∧
  (Carried planFill s t k 1 0x03 w.toNat →
    let i := insAt s t k 1 0x03
    let l := q0.areg (f 31 28)
    let x := q0.sreg (f 19 15)
    Issued (exec (.fill t w) s) s t k (goesOn 10) (fun p =>
      { p.pend i (span l (8 * n * d.s)) with
        fill := p.fill ++ [⟨i, n, d.s, l, x.val.toNat % 2 ^ 32, x.poison || bad⟩]
        skimBusy := s.clk.cyc + n * d.s }) fun b => (finds b).1)

/-- R88 to R90: a skipped slot has no effect of its own: its thread goes on, the skip is counted and recorded, and the context faults
only when the count reaches its threshold. An ADD with a reserved bit is skipped with RSVD. -/
def Obligations.SkippedSlotIsRecorded : Prop := ∀ (s : State) (t : ThreadRef) (k : Nat) (w : BitVec 32), MayIssue s t k →
  fld w.toNat 10 0 ≠ 0 →
  let q0 := threadAt s t k
  let c := ctxAt s.body q0.slot
  c.set.illThresh = 0 →
  ∃ s', exec (.add t w) s = .next s' ∧ threadAt s' t k = goesOn 6 q0 ∧ (ctxAt s'.body q0.slot).log.illCnt = min (c.log.illCnt + 1) 0xFFFFFFFF ∧
    (c.log.ill.length < 64 → ∃ r, (ctxAt s'.body q0.slot).log.ill = c.log.ill ++ [r] ∧ r.reason = 2 ∧ r.slotc = 0 ∧ r.opc = 1 ∧
      r.baddr = q0.pc ∧ r.th = t.th.val ∧ r.lp = t.lp.val ∧ r.die = t.die.val) ∧
    (64 ≤ c.log.ill.length → (ctxAt s'.body q0.slot).log.ill = c.log.ill ∧
      (ctxAt s'.body q0.slot).log.illOvf = min (c.log.illOvf + 1) 0xFFFF)

/-- R60, R61, R86: the bundle of one slot, encoded as Table 3-1 lays it out and resident at its thread's pc, issues exactly as the row of
that slot does, for every slot row. -/
def Obligations.BundleOfOneSlotIsItsRow : Prop := ∀ (s : State) (t : ThreadRef) (k : Nat) (w : BitVec 32) (v : BitVec 64), MayIssue s t k →
  ∀ c ∈ slotRows t w v,
    let x := if slotBits c.2.1 = 32 then w.toNat else v.toNat
    let bytes := Bundle.encode ⟨0, [(c.2.1, withOpc c.2.1 c.2.2 x)]⟩
    let q0 := threadAt s t k
    (∀ n, n ≤ bytes.length → fetchBytes q0 q0.pc n = some (bytes.take n, false)) →
    exec (.bundleIssue ⟨t.die, t.lp⟩ 0) s = exec c.1 s

/-- R30, R32, R61, R86: after `n` cycles the owner of its panel's current position, when it runs and its IDLE is 0, issues the bundle
its residency entries hold at its pc, with the slots of the bundle's header. -/
def Obligations.BundleIssueFetchesAndIssues : Prop := ∀ (s : State) (t : ThreadRef) (k n : Nat),
  let s1 := tickN n s
  MayIssue s1 t k →
  let q0 := threadAt s1 t k
  ∀ h d, fetchBytes q0 q0.pc 2 = some (h, false) → fetchBytes q0 q0.pc (hdrLen (bytesVal h)) = some (d, false) →
    let x := Bundle.parse d
    let ic := icOf s1.env s1.body k t.die.val t.lp.val t.th.val q0.pc ((q0.pc + hdrLen (bytesVal h)) % 2 ^ 48)
    Answers (exec (.bundleIssue ⟨t.die, t.lp⟩ n) s) s1 (issueCore ic s1.body x.ctl (bundlePlans ic x.slots))

/-- R60: reading the encoding of a bundle gives the bundle back, for every header control field and every choice of slots, in slot
order, with every word. -/
def Obligations.BundleEncodingRoundTrips : Prop := ∀ (x : Bundle), x.ctl < 1024 →
  (x.slots.map (·.1)).Pairwise (· < ·) → (∀ p ∈ x.slots, p.1 < 6 ∧ p.2 < 2 ^ slotBits p.1) →
  Bundle.parse (Bundle.encode x) = x ∧ (Bundle.encode x).length = hdrLen x.header

/-- R32, R77: a thread whose wait has ended resumes at its owned position; an EVWAITC clears its event, or waits on where its panel now sees
the event clear. R37, R73, R87, R196: the arrival of a line of a load enters the arrival buffer, which writes it at once when its bank is free,
or goes to its cache line or residency entry; it frees its tags, and the last one counts the token down. R73, R196: the acknowledgement of a
piece of a store writes the piece and frees its tags, the last one counts the token down. R164, R166: the next tile in Mitre takes a tile
buffer and starts its arrival writes, one new row in each cycle. -/
def Obligations.PanelArrivalsAndAcknowledgements : Prop :=
  (∀ (s : State) (t : ThreadRef) (k pp : Nat) (w : Wait),
    physOf s.body t.die.val t.lp.val = some pp → k = pkey t.die.val pp →
    panelRuns s.env s.body t.die.val (panelAt s.body k) = true →
    ownerNow s.env s.body t.die.val (panelAt s.body k) = some t.th.val →
    let q0 := threadAt s t k
    let becomes (q : Thread) : Body := setPanel s.body k ((panelAt s.body k).setThread t.th.val q)
    q0.st = .wait → q0.wait = some w → w.met = true →
    ((∀ e, w.on ≠ .evClear e) → Answers (exec (.threadResume t) s) s (becomes { q0 with st := .run, wait := none })) ∧
    (∀ e, w.on = .evClear e →
      (((ctxAt s.body q0.slot).evView k s.clk.cyc).getLsbD e = true →
        Answers (exec (.threadResume t) s) s (modCtx (becomes { q0 with st := .run, wait := none }) q0.slot fun c =>
          c.evChange ⟨s.clk.cyc, some k, 0, evMask e⟩)) ∧
      (((ctxAt s.body q0.slot).evView k s.clk.cyc).getLsbD e = false →
        Answers (exec (.threadResume t) s) s (becomes { q0 with wait := some { w with met := false } })))) ∧
  (∀ (s : State) (p : PhysRef) (uid j : Nat) (x : LoadOp) (l : LdLine),
    let k := physKey p
    let P := panelAt s.body k
    let b0 := findLoad s.env (unqueued s.body) x l
    let data := lineOf (readSegs b0 l.segs).1
    let bad := (readSegs b0 l.segs).2
    let rest := x.todo.filter (·.idx != j)
    P.load.find? (·.ins.uid == uid) = some x → x.left.find? (·.idx == j) = some l → mayArrive s.env s.body k x l = true →
    insLive s.env s.body x.ins = true → s.body.mem.bad = [] →
    (x.kind = .ld → P.arrq = [] → l.line % 128 ∉ P.arrBank → P.ldt = [] → x.todo.find? (·.idx == j) = some l → (∀ w ∈ P.load, w.ins.uid = uid → w = x) →
      ∃ s', exec (.arrivalWrite p uid j) s = .next s' ∧
        fget (panelAt s'.body k).line l.line = (fget P.line l.line).wrote uid data (BitVec.allOnes 64) bad true ∧
        (∀ i, i ≠ l.line → fget (panelAt s'.body k).line i = fget P.line i) ∧
        (panelAt s'.body k).arrq = [] ∧ (panelAt s'.body k).arrBank = P.arrBank ++ [l.line % 128] ∧
        (rest ≠ [] → let f := min (freedLoad { x with inbuf := x.inbuf ++ [j] } rest l) x.tags
          (panelAt s'.body k).load = P.load.map (fun w => if w.ins.uid = uid then
            { x with todo := rest, inbuf := x.inbuf.filter (· != j), tags := x.tags - f } else w) ∧
          (panelAt s'.body k).seq.tagsUsed = P.seq.tagsUsed - f ∧ (panelAt s'.body k).seq.thr = P.seq.thr) ∧
        (rest = [] → (panelAt s'.body k).load = P.load.filter (fun w => w.ins.uid != uid) ∧
          (panelAt s'.body k).seq.tagsUsed = P.seq.tagsUsed - x.tags ∧
          ((panelAt s'.body k).thread x.ins.th).token x.tok = (P.thread x.ins.th).token x.tok - (if x.tok < 16 then 1 else 0)) ∧
        ∀ i, i ≠ k → panelAt s'.body i = panelAt s.body i) ∧
    (x.kind.spad = true → (∀ a ∈ P.arrq, insLive s.env s.body a.ins = true ∧ a.line % 128 ∈ P.arrBank) → P.ldt = [] →
      ∀ d po y, loadLine b0 x l = (d, po, y) → l.line % 128 ∈ P.arrBank →
      ∃ s', exec (.arrivalWrite p uid j) s = .next s' ∧
        (panelAt s'.body k).arrq = P.arrq ++ [⟨x.ins, l.idx, l.line, BitVec.allOnes 64, d, po⟩] ∧
        (panelAt s'.body k).line = P.line ∧ (panelAt s'.body k).seq = P.seq ∧ ∀ i, i ≠ k → panelAt s'.body i = panelAt s.body i) ∧
    (x.kind = .dfill → x.todo.find? (·.idx == j) = some l →
      ∃ s', exec (.arrivalWrite p uid j) s = .next s' ∧
        ((panelAt s'.body k).thread x.ins.th).dline = fset (P.thread x.ins.th).dline l.line ⟨true, l.idx, false, bad, data, default⟩ ∧
        (panelAt s'.body k).line = P.line ∧
        (rest = [] → (panelAt s'.body k).load = P.load.filter (fun w => w.ins.uid != uid) ∧
          ((panelAt s'.body k).thread x.ins.th).token x.tok = (P.thread x.ins.th).token x.tok - (if x.tok < 16 then 1 else 0)) ∧
        ∀ i, i ≠ k → panelAt s'.body i = panelAt s.body i) ∧
    (∀ en, x.kind = .ifill en → x.todo.find? (·.idx == j) = some l →
      ∃ s' y, exec (.arrivalWrite p uid j) s = .next s' ∧ fget ((panelAt s'.body k).thread x.ins.th).ient en = y ∧
        y.bytes = (fget (P.thread x.ins.th).ient en).bytes.take (64 * l.idx) ++ lineBytes data ++
          (fget (P.thread x.ins.th).ient en).bytes.drop (64 * l.idx + 64) ∧
        y.valid = (rest.isEmpty || (fget (P.thread x.ins.th).ient en).valid) ∧ y.base = (fget (P.thread x.ins.th).ient en).base ∧
        y.len = (fget (P.thread x.ins.th).ient en).len ∧ (panelAt s'.body k).line = P.line ∧
        ∀ i, i ≠ k → panelAt s'.body i = panelAt s.body i)) ∧
  (∀ (s : State) (p : PhysRef) (uid j : Nat) (x : StoreOp) (c : Chunk),
    let k := physKey p
    let P := panelAt s.body k
    let rest := x.out.eraseIdx j
    let mine (y : StoreOp) : Prop := y.ins.uid = uid ∧ y.tok = x.tok
    let f := min (freedTags rest c) x.tags
    P.store.find? (fun x => x.ins.uid == uid && !x.out.isEmpty) = some x → x.out[j]? = some c →
    segsHeld s.body c.segs = none → insLive s.env s.body x.ins = true →
    ∀ b', putSegs s.env (some x.ins.slot) c.poison (unqueued s.body) c.segs c.data = some b' →
    let b1 := { b' with mem := { b'.mem with held := b'.mem.held.filter (· != (uid, j)) } }
    (rest ≠ [] → Answers (exec (.storeAck p uid j) s) s (settled s (modPanel b1 k fun q =>
      { q with store := q.store.filterMap (fun y => if mine y then some { x with out := rest, tags := x.tags - f } else some y)
               seq := { q.seq with tagsUsed := q.seq.tagsUsed - f } }))) ∧
    (rest = [] → Answers (exec (.storeAck p uid j) s) s (settled s (modPanel b1 k fun q =>
      ({ q with store := q.store.filterMap (fun y => if mine y then none else some y) } : Panel).endTransfer x.ins
        (if insLive s.env b1 x.ins then x.tok else 16) x.tags)))) ∧
  (∀ (s : State) (p : PhysRef) (x : LdtOp),
    let k := physKey p
    let P := panelAt s.body k
    let n := (mitreSize x.mode).1
    let start := max (s.clk.cyc + 8) (P.mitreLast + 1)
    let b0 := ((x.rows.drop (n * x.next)).take n ++ (x.scales.drop (n * x.next)).take n).foldl (findSegs s.env (some x.ins.slot)) (unqueued s.body)
    let rows := mitreTile b0 x x.next
    let sc := x.sc ++ [rows.map (·.sc)]
    P.ldt.find? (fun x => decide (x.next < x.tiles)) = some x → x.ins.issue < s.clk.cyc → mitreWaits s.body x = false →
    insLive s.env s.body x.ins = true → P.mitreHeld.length < 2 →
    Answers (exec (.mitreTileArrival p) s) s (settled s (modPanel (modCtx b0 x.ins.slot fun c =>
        { c with log := { c.log with mitreResc := satAdd 0xFFFF c.log.mitreResc ((rows.map (·.resc)).sum)
                                     mitreZero := satAdd 0xFFFF c.log.mitreZero ((rows.map (·.zero)).sum) } }) k fun q =>
      { q with
        mitreLast := start + n - 1
        mitreHeld := q.mitreHeld ++ [start + n - 1]
        later := q.later ++ ((rows.zip (List.range n)).map fun r => mitreRowWrites x x.next (start + r.2) r.2 r.1).flatten ++
          (if x.next + 1 = x.tiles ∧ x.mxFmt.isSome then
            (List.range n).map fun m => mitreScaleWrite x (start + m) m (sc.flatMap fun t => t.getD m []) else [])
        ldt := q.ldt.map fun y => if y.ins.uid = x.ins.uid then { y with next := x.next + 1, sc := sc } else y })))

/-- R53 to R56, R58, R59: when every thread of a panel waits at a rotation point and its work has drained, the panel rests for 4,096 cycles with its
lines, latch sets and data caches empty; where an advance is due and the spare fits, the spare takes the logical panel and the sequencer's
tables, and the panel becomes the spare, or RETIRED when it was marked. A disagreement of the trailing sequencer counts, enters the history
and takes an ACTIVE panel into QUARANTINE; its test takes its scaffold, and retires the panel or gives it back a place. -/
def Obligations.RotationAndQuarantine : Prop :=
  (∀ (s : State) (p : PhysRef),
    let k := physKey p
    let P := panelAt s.body k
    (rotReady s.clk.cyc P = true → P.rotUntil = 0 → s.body.mem.bad = [] → P.st = .active →
      (∀ x ∈ P.seq.thr, ∀ l ∈ x.2.dline, l.2.valid = true → l.2.dirty = true → ∃ g, xlate s.body x.2.slot (l.2.addr * 64) 64 true = .ok g) →
      ∃ s', exec (.rotationRelease p) s = .next s' ∧
        (advances s.env s.body k = none → (panelAt s'.body k).rotUntil = s.clk.cyc + 4096 ∧ (panelAt s'.body k).line = [] ∧
          (panelAt s'.body k).latch = [] ∧ ∀ th, ((panelAt s'.body k).thread th).dline = [] ∧
            ((panelAt s'.body k).thread th).pc = (P.thread th).pc) ∧
        (∀ sp, advances s.env s.body k = some sp → sp ≠ k % 9 →
          let ks := pkey (k / 9) sp
          fget (fget s'.body.die (k / 9)).map P.lpanel = some sp ∧ (panelAt s'.body ks).st = .active ∧
          (panelAt s'.body ks).lpanel = P.lpanel ∧ (panelAt s'.body ks).rotUntil = s.clk.cyc + 4096 ∧
          (panelAt s'.body k).st = (if P.retire then .retired else .spare) ∧ (panelAt s'.body k).seq = default ∧
          ∀ th, ((panelAt s'.body ks).thread th).pc = (P.thread th).pc ∧ ((panelAt s'.body ks).thread th).s = (P.thread th).s)) ∧
    (P.rotUntil ≠ 0 → P.rotUntil ≤ s.clk.cyc →
      ∃ s', exec (.rotationQuiesceEnd p) s = .next s' ∧ (panelAt s'.body k).rotUntil = 0 ∧
        (∀ th w, ((panelAt s'.body k).thread th).wait = some w → w.on = .rotate → w.met = true) ∧
        ∀ j, j ≠ k → panelAt s'.body j = panelAt s.body j)) ∧
  (∀ (s : State) (p : PhysRef),
    let k := physKey p
    let P := panelAt s.body k
    (P.st = .active →
      ∃ s', exec (.seqMismatch p) s = .next s' ∧ (panelAt s'.body k).st = .quarantine ∧
        (panelAt s'.body k).seqmm = min (P.seqmm + 1) 0xFFFF ∧ (panelSlots P = [] → s'.body.kpr.histCnt = s.body.kpr.histCnt + 1) ∧
        fget (fget s'.body.die (k / 9)).map P.lpanel ≠ some (k % 9)) ∧
    (P.st = .quarantine → holds s.body (grpKey 2 k) 1 false = false → blocker s.body (grpKey 2 k) 1 = none →
      Answers (exec (.quarantineTest p) s) s
        { s.body with host := { s.body.host with holders := s.body.host.holders ++ [⟨grpKey 2 k, 1, false, none, 0⟩] } }) ∧
    (∀ pass : Bool, P.st = .quarantine → holds s.body (grpKey 2 k) 1 false = true →
      ∃ s', exec (.quarantineTestDone p pass) s = .next s' ∧ holds s'.body (grpKey 2 k) 1 false = false ∧
        (panelAt s'.body k).st = (if !pass then .retired
          else if P.served && (fget (fget s.body.die (k / 9)).map P.lpanel).isNone then .active
          else if (fget s.body.die (k / 9)).spare.isNone then .spare else .standby)))

/-- R266, R270: the command at the head of a ring starts as the row of its opcode and sub-form does on the 64 bytes that the command
ring in host memory holds there, for every ring and every row; a NOP there that starts completes with OK. -/
def Obligations.RingHeadRunsAsItsRow : Prop := ∀ (s : State) (r : RingRef) (w : BitVec 512),
  let x := ringAt s.body r
  x.head ≠ x.tail → s.body.host.master = true → w = BitVec.ofNat 512 (bytesVal (hostRead s.body (x.cmdBase + 64 * x.head) 64)) →
  (∀ n k, r = .ctx n k → replaying s.body n.val = false) →
  (∀ c ∈ cmdRows r w, c.2 = w → exec (.commandStart r) s = exec c.1 s) ∧
  (putBits w 0 8 0x01 = w → Starts s r w 0x01 nopSpec → Ends (exec (.commandStart r) s) s r w 0x01 0x00 0 id)

/-- R266, R267, R270: a NOP that starts takes the head of its ring, is in flight with the header's fields, and has completed with OK;
nothing else changes but the command log of a context. A command whose start conditions do not hold stays where it is. A ring that does
not take the opcode gives INVALID; R262: a handle that is not current gives STALE_HANDLE, and the command has no effect, not even in the
command log; a command for the module as a whole with a context's handle gives INVALID. -/
def Obligations.CommandTakesTheHeadOfItsRing : Prop := ∀ (s : State) (r : RingRef) (w : BitVec 512),
  let y := putBits w 0 8 0x01
  let x := ringAt s.body r
  (Starts s r w 0x01 nopSpec → Ends (exec (.nopCmd r w) s) s r w 0x01 0x00 0 id) ∧
  (Starts s .admin w 0x01 nopSpec → r = .admin → (∀ f ∈ x.fly, f.seq ≠ s.body.uid + 1) →
    ∃ s', exec (.nopCmd .admin w) s = .next s' ∧
      Leaves s s' { s.body with uid := s.body.uid + 1, host := { s.body.host with ar := s'.body.host.ar } } ∧
      let h := (x.head + 1) % 2 ^ s.body.host.ar.logn
      s'.body.host.ar = { s.body.host.ar with ring := { s.body.host.ar.ring with
        head := h
        tail := if x.head = x.tail then h else x.tail
        wevSeen := false
        logAcks := none
        fly := x.fly ++ [{ idx := x.head, opc := 0x01, irq := hdrField y 1 3 3 == 1, cen := hdrField y 1 1 1 == 1,
                           cev := hdrField y 4 11 0 * 64 + hdrField y 2 5 0, user := BitVec.ofNat 32 (hdrField y 8 31 0),
                           seq := s.body.uid + 1, done := some (0x00, 0) }] } }) ∧
  (mayStart s.env s.body r y = false → Answers (exec (.nopCmd r w) s) s s.body) ∧
  (r = .admin →
    (mayStart s.env s.body r (putBits w 0 8 0x04) = true → Ends (exec (.copy r w) s) s r w 0x04 0x01 0 id) ∧
    (mayStart s.env s.body r y = true → hdrField w 4 31 0 ≠ 0 →
      (hdrField w 4 31 0 = handleOf s.env s.body (wordSlot r w) → Ends (exec (.nopCmd r w) s) s r w 0x01 0x01 0 id) ∧
      (hdrField w 4 31 0 ≠ handleOf s.env s.body (wordSlot r w) → Ends (exec (.nopCmd r w) s) s r w 0x01 0x02 0 id))) ∧
  (r ≠ .admin → mayStart s.env s.body r (putBits w 0 8 0x04) = true →
    hdrField w 4 31 0 ≠ handleOf s.env s.body (wordSlot r w) →
    Answers (exec (.copy r w) s) s (settled s
      (finish (takeEntry (unqueued s.body) r (putBits w 0 8 0x04)).2 (cmdOf s r w 0x04) 0x02 0)))

/-- R178, R239, R241, R271, R272, R177, R244, R274, R275: EVENT sets or clears the masked events; TAG_RELEASE frees the retention slots that
bear the tag; ROUTE_LOAD replaces a route set that is not active by the entries in memory; REDRAW makes a loaded set pending on a phase
token; PROG_LOAD sets the chain registers from a requirement block the panels meet; COPY, GATHER, SCATTER and REDUCE that meet their
conditions stay in flight while their pieces move: a COPY's transfer has a piece for each 64-byte line of the destination; a GATHER that
retains its tensor also reserves its retention slot and moves into the pool; a GATHER of a retained tensor completes without moving
anything, one of a FREE slot gives RETAIN_EMPTY, one of a slot still being filled waits; a retention slot that is freed completes at
once. -/
def Obligations.EventTagRouteAndTransferCommands : Prop :=
  (∀ (s : State) (r : RingRef) (w : BitVec 512),
    (let v := putBits w 128 8 0
     let c := cmdOf s r v 0x02
     let m := BitVec.ofNat 64 (c.at 24 8)
     Starts s r v 0x02 eventSpec → Ends (exec (.eventSet r w) s) s r v 0x02 0x00 0 fun b =>
       latchWev c.slot s.env.cyc (modCtx (if eventWakes b c.slot m then leaveHaze s.env b else b) c.slot fun x =>
         x.evChange ⟨s.env.cyc, none, m, 0⟩)) ∧
    (let v := putBits w 128 8 1
     let c := cmdOf s r v 0x02
     Starts s r v 0x02 eventSpec → Ends (exec (.eventClear r w) s) s r v 0x02 0x00 0 fun b =>
       modCtx b c.slot fun x => x.evChange ⟨s.env.cyc, none, 0, BitVec.ofNat 64 (c.at 24 8)⟩) ∧
    (let c := cmdOf s r w 0x0C
     let t := c.at 16 1
     Starts s r w 0x0C tagSpec → t ≤ 63 → tagForeign (begun s r w 0x0C) c.slot t = false →
     Ends (exec (.tagRelease r w) s) s r w 0x0C 0x00 0 fun b => dropTags (modCtx b c.slot fun x =>
       { x with ret := { x.ret with slot := x.ret.slot.filter fun y => !(y.2.st != .free && y.2.tag == t) } }) c.slot) ∧
    (let c := cmdOf s r w 0x0A
     let b := begun s r w 0x0A
     let g := c.at 16 1
     let n := c.at 20 4
     let x := ctxAt b c.slot
     Starts s r w 0x0A routeSpec → x.id.job ≠ 0 → g ≤ 3 → 1 ≤ n → n ≤ 16384 → c.at 24 8 + 4 * n ≤ 2 ^ 48 → setFitted b g = true →
     g ≠ x.far.active → let read := fun b => findRange s.env c.slot b (c.at 24 8) (4 * n)
     n ≤ routeFree (read b) + fget x.far.loaded g →
     ∀ d, ctxBytes (read b) c.slot (c.at 24 8) (4 * n) = some d → Ends (exec (.routeLoad r w) s) s r w 0x0A 0x00 0 fun b =>
       modCtx (read b) c.slot fun x => { x with far := { x.far with
         sets := fset x.far.sets g (fsetMany [] 0 ((List.range n).map fun i => BitVec.ofNat 32 (bytesAt d (4 * i) 4)))
         loaded := fset x.far.loaded g n } }) ∧
    (let c := cmdOf s r w 0x0B
     let b := begun s r w 0x0B
     let g := c.at 16 1
     let x := ctxAt b c.slot
     Starts s r w 0x0B redrawSpec → x.id.job ≠ 0 → g ≤ 3 → x.far.pend = none → setFitted b g = true → fget x.far.loaded g ≠ 0 →
     Stays (exec (.redraw r w) s) s r w 0x0B fun b =>
       modCtx b c.slot fun x => { x with far := { x.far with pend := some (g, c.at 17 1, s.body.uid + 1) } }) ∧
    (let c := cmdOf s r w 0x05
     let b := begun s r w 0x05
     let a := c.at 24 8
     Starts s r w 0x05 progSpec → a % 64 = 0 → a < 2 ^ 48 → let read := fun b => findRange s.env c.slot b a 64
     ∀ d, ctxBytes (read b) c.slot a 64 = some d →
     (imageOk d = true → Ends (exec (.progLoad r w) s) s r w 0x05 0x00 0 fun b => modCtx (read b) c.slot fun x =>
       { x with set := { x.set with chainBase := (a + bytesAt d 24 8) % 2 ^ 48, chainCnt := bytesAt d 20 2 } }) ∧
     (imageOk d = false → Ends (exec (.progLoad r w) s) s r w 0x05 0x0D 0 read))) ∧
  (∀ (s : State) (r : RingRef) (w : BitVec 512),
    (let c := cmdOf s r w 0x04
     let b := begun s r w 0x04
     let x := c.at 16 6
     let d := c.at 24 6
     let n := c.at 32 8
     Starts s r w 0x04 copySpec → n ≠ 0 → n ≤ 2 ^ 40 → (d + n ≤ x ∨ x + n ≤ d) →
     ∀ g h, xlate b c.slot x n false = .ok g → xlate b c.slot d n true = .ok h →
     Stays (exec (.copy r w) s) s r w 0x04 fun b => { b with
       uid := b.uid + 1
       ctx := { b.ctx with jobs := b.ctx.jobs ++ [⟨b.uid + 1, c.slot, handleOf s.env b c.slot, ringNum r, s.body.uid + 1, 0,
         copyItems b c.slot x d n none, 0, false, none, stepNum (ctxAt b c.slot)⟩] } }) ∧
    (∀ us rank, ∀ v, v = putBits w 128 2 0 → Starts s r v 0x07 gatherSpec → (cmdOf s r v 0x07).at 16 1 = 0 →
      let c := cmdOf s r v 0x07
      let b := begun s r v 0x07
      let m := moveOf c
      members (ctxAt b c.slot) m.set m.first m.n = some us → ownRank b us = some rank → gatherRefusal b c.slot m true = 0 →
      Stays (exec (.gather r w) s) s r v 0x07 fun b => gatherGo c b m us rank none none) ∧
    (∀ us rank, ∀ v, v = putBits w 128 2 1 → Starts s r v 0x07 gatherSpec → (cmdOf s r v 0x07).at 16 1 = 1 →
      let c := cmdOf s r v 0x07
      let b := begun s r v 0x07
      let m := moveOf c
      let x := ctxAt b c.slot
      members x m.set m.first m.n = some us → ownRank b us = some rank → gatherRefusal b c.slot m true = 0 →
      let put (y : RetSlot) (b : Body) : Body := modCtx b c.slot fun x =>
        { x with ret := { x.ret with slot := fset x.ret.slot m.rslot y, tags := x.ret.tags ||| evMask m.tag } }
      (∀ o, x.ret.size ≠ 0 → retRoom x m.granules = some o → Stays (exec (.gatherRetain r w) s) s r v 0x07 fun b =>
        gatherGo c (put { st := .pending, tag := m.tag, gran := m.granules, off := o, filler := (freshUid b).1 } b) m us rank (some ((x.ret.base + o) * 2 ^ 21))
          (some m.rslot)) ∧
      ((x.ret.size = 0 ∨ retRoom x m.granules = none) → Stays (exec (.gatherRetain r w) s) s r v 0x07 fun b =>
        gatherGo c (put { st := .dropped, tag := m.tag, gran := 0, off := 0, filler := 0 } b) m us rank none none)) ∧
    (∀ v, v = putBits w 128 2 2 → Starts s r v 0x07 gatherSpec → (cmdOf s r v 0x07).at 16 1 = 2 →
      let c := cmdOf s r v 0x07
      let b := begun s r v 0x07
      let m := moveOf c
      let x := ctxAt b c.slot
      let y := fget x.ret.slot m.rslot
      x.id.job ≠ 0 → m.rslot ≤ 63 →
      (y.st = .free → Ends (exec (.gatherReuse r w) s) s r v 0x07 0x07 0 id) ∧
      (y.st = .retained → Ends (exec (.gatherReuse r w) s) s r v 0x07 0x00 0 id) ∧
      (y.st = .pending → Stays (exec (.gatherReuse r w) s) s r v 0x07 fun b =>
        { b with host := { b.host with reuse := b.host.reuse ++ [⟨s.body.uid + 1, c.slot, ringNum r, c.w⟩] } }) ∧
      (∀ us rank, y.st = .dropped → members x m.set m.first m.n = some us → ownRank b us = some rank → gatherRefusal b c.slot m true = 0 →
        Stays (exec (.gatherReuse r w) s) s r v 0x07 fun b => gatherGo c b m us rank none none)) ∧
    (∀ v, v = putBits w 128 2 3 → Starts s r v 0x07 gatherSpec → (cmdOf s r v 0x07).at 16 1 = 3 →
      let c := cmdOf s r v 0x07
      let k := (moveOf c).rslot
      (ctxAt (begun s r v 0x07) c.slot).id.job ≠ 0 → k ≤ 63 → Ends (exec (.retainFree r w) s) s r v 0x07 0x00 0 fun b =>
        dropTags (modCtx b c.slot fun x => { x with ret := { x.ret with slot := x.ret.slot.filter fun y => !(y.1 == k) } }) c.slot) ∧
    (∀ us rank, Starts s r w 0x08 scatterSpec →
      let c := cmdOf s r w 0x08
      let b := begun s r w 0x08
      let m := moveOf c
      members (ctxAt b c.slot) m.set m.first m.n = some us → ownRank b us = some rank → scatterRefusal b c.slot m true = 0 →
      Stays (exec (.scatter r w) s) s r w 0x08 fun b => scatterGo c b m us rank) ∧
    (∀ us rank, ∀ k v, (k = 0 ∨ k = 1) → v = putBits w 128 1 k → Starts s r v 0x09 reduceSpec →
      let c := cmdOf s r v 0x09
      let b := begun s r v 0x09
      let q := reduceOf c b rank
      reduceUnits c b = some us → ownRank b us = some rank → reduceRefusal b q true = 0 →
      q.p.kind = k ∧ (k = 0 → Stays (exec (.allreduce r w) s) s r v 0x09 fun b => reduceGo s.env b q us) ∧
        (k = 1 → Stays (exec (.reduceScatter r w) s) s r v 0x09 fun b => reduceGo s.env b q us)))

/-- R280, R281, R283, R284, R308: FENCE, STEP_CLOSE and READOUT wait in flight; STEP_OPEN opens the next step with its replay buffers;
STATE_DECLARE adds a region, or marks one that goes at the next close. -/
def Obligations.StepCommands : Prop := ∀ (s : State) (r : RingRef) (w : BitVec 512),
  (Starts s r w 0x03 fenceSpec → Stays (exec (.fence r w) s) s r w 0x03 id) ∧
  (let c := cmdOf s r w 0x10
   let b := begun s r w 0x10
   let n := c.at 16 8
   let k := c.at 32 2
   let a := c.at 24 8
   Starts s r w 0x10 openSpec → k ≤ 256 → (k = 0 ∨ a + 16 * k ≤ 2 ^ 48) → let read := fun b => findRange s.env c.slot b a (16 * k)
   ∀ d, (if k = 0 then some [] else ctxBytes (read b) c.slot a (16 * k)) = some d →
   let es := (List.range k).map fun i => rbEntry ((d.drop (16 * i)).take 16)
   openRefusal (read b) c.slot n (some es) = none →
   Stays (exec (.stepOpen r w) s) s r w 0x10 fun b => openStep s.env (read b) c.slot n (es.map (·.1)) (s.body.uid + 1)) ∧
  (let c := cmdOf s r w 0x11
   let b := begun s r w 0x11
   let n := c.at 16 8
   let l := (ctxAt b c.slot).led
   Starts s r w 0x11 closeSpec → l.openStep = some n → (∀ x ∈ l.waits, x.step ≠ n) →
   Stays (exec (.stepClose r w) s) s r w 0x11 fun b =>
     modLed b c.slot fun l => { l with waits := l.waits ++ [⟨n, ringNum r, s.body.uid + 1⟩] }) ∧
  (∀ k v, (k = 0 ∨ k = 1) → v = putBits w 128 8 k →
   let c := cmdOf s r v 0x12
   let b := begun s r v 0x12
   let g : Region := ⟨c.at 24 8, c.at 32 8, c.at 17 1, c.at 18 1, false⟩
   let l := (ctxAt b c.slot).led
   Starts s r v 0x12 declareSpec → g.cls ≤ 15 → g.bform ≤ 2 → g.addr % 65536 = 0 → g.len % 65536 = 0 → g.len ≠ 0 →
   g.addr + g.len ≤ 2 ^ 48 → (g.bform = 0 ∨ (hubFeat b = true ∧ (ctxAt b c.slot).id.ldg ≠ 1)) →
   (k = 0 → l.regions.length ≠ 64 → declareRefusal b c.slot g = 0 →
     Ends (exec (.stateDeclareAdd r w) s) s r v 0x12 0x00 0 fun b => modLed b c.slot fun l => { l with regions := l.regions ++ [g] }) ∧
   (k = 1 → (∃ y ∈ l.regions, y.addr = g.addr ∧ y.len = g.len ∧ y.removed = false) → l.openStep = none →
     Ends (exec (.stateDeclareRemove r w) s) s r v 0x12 0x00 0 fun b => modLed b c.slot fun l => { l with
       regions := l.regions.map fun y => if y.addr = g.addr ∧ y.len = g.len then { y with removed := true } else y })) ∧
  (let c := cmdOf s r w 0x2B
   let b := begun s r w 0x2B
   let k := c.at 16 1
   let g := fget (ctxAt b c.slot).led.gens k
   Starts s r w 0x2B readoutSpec → k ≤ 1 → g.st = .sealed → rdLen g ≤ c.at 32 8 →
   Stays (exec (.readout r w) s) s r w 0x2B fun b =>
     modLed b c.slot fun l => { l with readout := l.readout ++ [⟨k, s.body.uid + 1, c.at 24 8⟩] })

/-- R25, R270, R276: a QUERY writes the module's descriptor or the handles of all slots, where its destination can be written; for a group's
descriptor it waits, while the head, which may be this module itself, forms its answer. -/
def Obligations.QueryCommands : Prop := ∀ (s : State) (r : RingRef) (w : BitVec 512) (k : Nat) (g : List Seg), k ≤ 2 →
  let v := putBits w 128 8 k
  let c := cmdOf s r v 0x1F
  let b := begun s r v 0x1F
  let pre := c.at 20 4
  let a := c.at 24 8
  let n := if k = 2 then 16384 else 64
  let slot := if r = .admin then none else some c.slot
  let key := fld pre 28 24 * 2 ^ 20 + fld pre 19 0
  Starts s r v 0x1F querySpec → fld pre 31 29 = 0 → fld pre 23 20 = 0 →
  (if r = .admin then g = [⟨true, a, n⟩] else a + n ≤ 2 ^ 48 ∧ xlate b c.slot a n true = .ok g) →
  (k = 0 → Stays (exec (.queryDescriptor r w) s) s r v 0x1F fun b =>
    cmdPut s.env b slot g (descBytes (ownDesc b)) false (some (r, s.body.uid + 1))) ∧
  (k = 1 → key ∈ planGroups b →
    let waits (b : Body) : Body :=
      { b with host := { b.host with queries := b.host.queries ++ [⟨r, s.body.uid + 1, key, slot, g, s.clk.tick.toNat⟩] } }
    (answersFor b key = false → Stays (exec (.queryGroup r w) s) s r v 0x1F fun b =>
      sendUp (waits b) (.query (key / 2 ^ 20) (key % 2 ^ 20))) ∧
    (answersFor b key = true → Stays (exec (.queryGroup r w) s) s r v 0x1F fun b => headAnswer s.env (waits b) key none)) ∧
  (k = 2 → r = .admin → Stays (exec (.queryHandles r w) s) s r v 0x1F fun b =>
    cmdPut s.env b none g ((List.range 4096).flatMap fun q => le 4 (handleOf s.env b q)) false (some (r, s.body.uid + 1)))

/-- R277, R209, R338, R357 to R359, R371: SCAFFOLD takes a group when nothing that overlaps it stands in its way, for margining until
it is released, for an activity until that ends: a retrain of a port or a link takes it down, a swatch run starts its slot, a firmware
activation is armed. A group that is held refuses with SCAFFOLD_BUSY, as does every request in DUSK and NIGHT, with holder 0 (in NIGHT no
ring command starts). -/
def Obligations.ScaffoldCommands : Prop := ∀ (s : State) (w : BitVec 512) (op act : Nat), op ≤ 2 → act < 256 → (op ≠ 0 → act = 3) →
  let v := putBits (putBits w 128 8 op) 136 8 act
  let c := cmdOf s .admin v 0x26
  let b := begun s .admin v 0x26
  let t := c.at 18 1
  let i := c.at 19 1
  let arg := c.at 24 8
  let g := grpKey t i
  let held (b : Body) : Body := { b with host := { b.host with holders := b.host.holders ++ [⟨g, act, true, some (s.body.uid + 1), BitVec.ofNat 64 arg⟩] } }
  let runs : List (Instr × Nat) :=
    [(.builtInTest .admin v, 1), (.scrub .admin v, 2), (.undercoatCopy .admin v, 4), (.postPackageRepair .admin v, 5), (.retrain .admin v, 6),
     (.weathervaneMeasurement .admin v, 7), (.swatchRun .admin v, 8), (.firmwareActivation .admin v, 9)]
  Starts s .admin v 0x26 scafSpec →
  (b.kpr.pwr.st = .dusk ∨ b.kpr.pwr.st = .night →
    (op = 1 → Ends (exec (.scaffoldAcquire .admin v) s) s .admin v 0x26 0x16 0 id) ∧
    (op = 2 → Ends (exec (.scaffoldRelease .admin v) s) s .admin v 0x26 0x16 0 id) ∧
    (op = 0 → ∀ j, (j, act) ∈ runs → Ends (exec j s) s .admin v 0x26 0x16 0 id)) ∧
  (b.kpr.pwr.st ≠ .dusk → b.kpr.pwr.st ≠ .night →
  (op = 1 → actAccepts 3 t i = true → arg = 0 →
    (blocker b g 3 = none → Ends (exec (.scaffoldAcquire .admin v) s) s .admin v 0x26 0x00 0 fun b =>
      { b with host := { b.host with holders := b.host.holders ++ [⟨g, 3, true, none, 0⟩] } }) ∧
    (∀ h, blocker b g 3 = some h → Ends (exec (.scaffoldAcquire .admin v) s) s .admin v 0x26 0x16 (busyResult h) id)) ∧
  (op = 2 → actAccepts 3 t i = true → arg = 0 → holds b g 3 true = true →
    Ends (exec (.scaffoldRelease .admin v) s) s .admin v 0x26 0x00 0 fun b =>
      { b with host := { b.host with holders := b.host.holders.filter fun h => !(h.group == g && h.act == 3 && h.host == true) } }) ∧
  (op = 0 → act ≠ 3 → runBad b act t i arg = false → runInUse b act t i = false → blocker b g act = none →
    (act = 1 → Stays (exec (.builtInTest .admin v) s) s .admin v 0x26 held) ∧
    (act = 2 → Stays (exec (.scrub .admin v) s) s .admin v 0x26 held) ∧
    (act = 4 → Stays (exec (.undercoatCopy .admin v) s) s .admin v 0x26 held) ∧
    (act = 5 → Stays (exec (.postPackageRepair .admin v) s) s .admin v 0x26 held) ∧
    (act = 6 → t ≠ 7 → t ≠ 6 → Stays (exec (.retrain .admin v) s) s .admin v 0x26 held) ∧
    (act = 6 → t = 7 → Stays (exec (.retrain .admin v) s) s .admin v 0x26 fun b => portDown (held b) i 0x0) ∧
    (act = 6 → t = 6 → Stays (exec (.retrain .admin v) s) s .admin v 0x26 fun b => d2dUp (held b) i false) ∧
    (act = 7 → Stays (exec (.weathervaneMeasurement .admin v) s) s .admin v 0x26 held) ∧
    (act = 8 → Stays (exec (.swatchRun .admin v) s) s .admin v 0x26 fun b =>
      swatchStart s.env (held b) i (some (arg % 16)) (arg / 256) (some (s.body.uid + 1))) ∧
    (act = 9 → fwRefusal (held b) = 0 → Stays (exec (.firmwareActivation .admin v) s) s .admin v 0x26 fun b =>
      fwArm s.env (held b) arg (some (s.body.uid + 1))) ∧
    (act = 9 → fwRefusal (held b) ≠ 0 →
      Ends (exec (.firmwareActivation .admin v) s) s .admin v 0x26 0x00 (BitVec.ofNat 32 (fwRefusal (held b))) fun b =>
        releaseWhere (held b) fun h => h.seq == some (s.body.uid + 1) && h.act == 9)))

/-- R259, R261, R265, R269, R272, R302, R412: the commands of contexts. CTX_CREATE takes the slot free longest and returns its handle;
MEM_MAP maps, initialises and pins its pages; MEM_UNMAP invalidates the mappings and waits for requests outstanding; CTX_RESET and
CTX_DESTROY raise HOST_RESET and wait for the reset, a HALTED context is destroyed at once; CTX_RESUME makes a HALTED context LIVE, once the
panels that a third run asks for have been exchanged (R327). -/
def Obligations.ContextCommands : Prop := ∀ (s : State) (w : BitVec 512),
  (let c := cmdOf s .admin w 0x20
   let b := begun s .admin w 0x20
   let d := hostRead b (c.at 24 8) 256
   ∀ n, Starts s .admin w 0x20 createSpec → c.at 24 8 % 256 = 0 → createCheck b d = 0 → freeChoice b = some n →
   let f (b : Body) : Body :=
     let x := keptGens (setCtx (takeSlot b n) n (ctxOf d)) n
     { x with dir := { x.dir with errSum := fdel x.dir.errSum (Pg.num (.ctx n)), errMask := fdel x.dir.errMask (Pg.num (.ctx n)) } }
   Ends (exec (.ctxCreate .admin w) s) s .admin w 0x20 0x00 (BitVec.ofNat 32 (handleOf s.env (f b) n)) f) ∧
  (let c := cmdOf s .admin w 0x24
   let b := begun s .admin w 0x24
   let k := c.at 16 1
   let n := c.at 20 4
   let va := c.at 24 8
   let pa := c.at 32 8
   let pin := c.bits 17 1 1 == 1
   let vs := span (va / 2 ^ 21) n
   let ps := span (pa / 2 ^ 21) n
   Starts s .admin w 0x24 mapSpec → k ≤ 1 → 1 ≤ n → n ≤ 2097152 → va % 2 ^ 21 = 0 → pa % 2 ^ 21 = 0 → va + n * 2 ^ 21 ≤ 2 ^ 48 →
   pa + n * 2 ^ 21 ≤ 2 ^ 64 → mapCheck b c.slot (k == 1) pin vs ps = 0 →
   Ends (exec (.memMap .admin w) s) s .admin w 0x24 0x00 0 fun b =>
     mapPages (if pin then pinRead s.env b c.slot ps else b) c.slot (k == 1) (c.bits 17 0 0 == 1) pin vs ps) ∧
  (let c := cmdOf s .admin w 0x25
   let b := begun s .admin w 0x25
   let n := c.at 20 4
   let va := c.at 24 8
   let x := ctxAt b c.slot
   let old := (span (va / 2 ^ 21) n).map fun p => fget x.xl p
   Starts s .admin w 0x25 unmapSpec → 1 ≤ n → n ≤ 2097152 → va % 2 ^ 21 = 0 → va + n * 2 ^ 21 ≤ 2 ^ 48 →
   (∀ p ∈ span (va / 2 ^ 21) n, (fget x.xl p).valid = true) → pagesInUse x (va / 2 ^ 21) n = false →
   Stays (exec (.memUnmap .admin w) s) s .admin w 0x25 fun b =>
     let b := unpin (modCtx b c.slot fun x => { x with xl := fclear x.xl (va / 2 ^ 21) n }) c.slot ((old.filter (·.pin)).map (·.page)).contains
     { b with host := { b.host with unmaps := b.host.unmaps ++ [⟨s.body.uid + 1, c.slot, old.map fun y => (y.host, y.page)⟩] } }) ∧
  (let c := cmdOf s .admin w 0x22
   let b := begun s .admin w 0x22
   let x := (ctxAt b c.slot).id
   let waits (b : Body) : Body := modCtx b c.slot fun x => { x with id := { x.id with resetFly := x.id.resetFly ++ [(none, s.body.uid + 1)] } }
   let fault : FaultReq := ⟨c.slot, 0x12, none, none, 7, none, 11, 0x22, none, 0⟩
   Starts s .admin w 0x22 resetSpec →
   (x.resetting = true → Stays (exec (.ctxReset .admin w) s) s .admin w 0x22 waits) ∧
   (x.resetting = false → Stays (exec (.ctxReset .admin w) s) s .admin w 0x22 fun b => raise (waits b) fault)) ∧
  (let c := cmdOf s .admin w 0x21
   let b := begun s .admin w 0x21
   let x := (ctxAt b c.slot).id
   let waits (b : Body) : Body := modCtx (modCtx b c.slot fun x => { x with id := { x.id with dying := true } }) c.slot fun x =>
     { x with id := { x.id with resetFly := x.id.resetFly ++ [(none, s.body.uid + 1)] } }
   let fault : FaultReq := ⟨c.slot, 0x12, none, none, 7, none, 11, 0x21, none, 0⟩
   Starts s .admin w 0x21 destroySpec →
   (x.st = .halted → Ends (exec (.ctxDestroy .admin w) s) s .admin w 0x21 0x00 0 fun b => freeSlot (reportAllDirty s.env b c.slot) c.slot) ∧
   (x.st = .live → x.resetting = true → Stays (exec (.ctxDestroy .admin w) s) s .admin w 0x21 waits) ∧
   (x.st = .live → x.resetting = false → Stays (exec (.ctxDestroy .admin w) s) s .admin w 0x21 fun b => raise (waits b) fault)) ∧
  (let c := cmdOf s .admin w 0x23
   let b := begun s .admin w 0x23
   let x := ctxAt b c.slot
   let swap (b : Body) : Body := exchangeNow s.env (leaveHaze s.env b) c.slot
   Starts s .admin w 0x23 resumeSpec → x.id.st = .halted → x.id.resetting = false →
   ((ctxAt (swap b) c.slot).led.adj.exchange ≠ [] → Stays (exec (.ctxResume .admin w) s) s .admin w 0x23 swap) ∧
   ((ctxAt (swap b) c.slot).led.adj.exchange = [] → Ends (exec (.ctxResume .admin w) s) s .admin w 0x23 0x00 0 fun b => modCtx (swap b) c.slot fun x =>
     { x with
       id := { x.id with st := .live }
       led := { x.led with replay := x.led.rollTo, rollTo := none }
       plumb := { x.plumb with startTick := if x.led.everOpened ∧ x.set.stepLim ≠ 0 then some s.clk.tick else none
                               limit := x.set.stepLim * 1000 }
       con := if x.con.role = 2 then { x.con with active := true, step := (x.led.rollTo.getD x.led.lastClosed) + 1 } else x.con }))

/-- R292, R301, R303: the recovery commands of the ledger. BUDDY_SET asks the named modules; ROLLBACK of a HALTED context writes a verified
generation back, or asks its buddies for the chunks that do not verify; RESTORE does the same from a local generation, from the copies of
a role that its buddies hold, or from a readout stream in host memory. -/
def Obligations.RecoveryCommands : Prop := ∀ (s : State) (w : BitVec 512),
  (let c := cmdOf s .admin w 0x28
   let b := begun s .admin w 0x28
   let d := c.at 16 1
   let us := (c.at 20 4 % 2 ^ 20) :: (if d = 3 then [c.at 24 4 % 2 ^ 20] else [])
   let x := ctxAt b c.slot
   Starts s .admin w 0x28 buddySpec → (d = 2 ∨ d = 3) → x.led.bset = none → x.id.job ≠ 0 → ownUnit b ∉ us →
   Stays (exec (.buddySet .admin w) s) s .admin w 0x28 fun b =>
     us.foldl (fun b u => sendJob b c.slot (.buddyAsk u x.id.job))
       (modLed b c.slot fun l => { l with bset := some ⟨s.body.uid + 1, c.bits 17 0 0 == 1, d, us, [], false, []⟩ })) ∧
  (let c := cmdOf s .admin w 0x29
   let b := begun s .admin w 0x29
   let n := c.at 16 8
   let x := ctxAt b c.slot
   let g := fget x.led.gens (genOfStep n)
   let us := x.led.buddies.map (·.unit)
   let cs := chunksHere b g.chunks
   let miss := badChunks g.manifest cs
   Starts s .admin w 0x29 rollSpec → x.id.st = .halted → x.led.restore = none → rollRefusal x.led n = 0 →
   (chunksOk g.manifest cs = true → Ends (exec (.rollback .admin w) s) s .admin w 0x29 0x00 0 fun b =>
     rollTo s.env b c.slot n g.manifest cs) ∧
   (chunksOk g.manifest cs = false → x.led.buddies ≠ [] → Stays (exec (.rollback .admin w) s) s .admin w 0x29 fun b =>
     wantChunks (modLed b c.slot fun l =>
       { l with restore := some ⟨s.body.uid + 1, true, n, ownUnit b, us, g.manifest, cs, [], us.flatMap fun u => miss.map fun _ => u, [], 0⟩ })
       c.slot n us miss)) ∧
  (∀ k, k ≤ 2 →
   let v := putBits w 128 8 k
   let c := cmdOf s .admin v 0x2A
   let b := begun s .admin v 0x2A
   let n := c.at 24 8
   let a := c.at 32 8
   let x := ctxAt b c.slot
   let g := fget x.led.gens (genOfStep n)
   let cs := chunksHere b g.chunks
   let older := decide (n < x.led.sealedStep)
   Starts s .admin v 0x2A restoreSpec → x.id.st = .halted → x.led.restore = none →
   (k = 0 → a = 0 → g.step = n → (g.st = .complete ∨ g.st = .sealed) → g.readable = true → chunksOk g.manifest cs = true →
     regionsMatch x g.manifest = true → Ends (exec (.restoreLocal .admin w) s) s .admin v 0x2A 0x00 0 fun b =>
       let b := restoreTo s.env b c.slot n g.manifest cs false
       if older then dropSteps (modLed b c.slot fun l => { l with restart := 2 }) c.slot n else b) ∧
   (k = 1 →
     let d := hostRead b a 64
     let us := bytesAt d 4 4 :: (if bytesAt d 8 4 = 0 then [] else [bytesAt d 8 4])
     (∀ y ∈ d.drop 12, y = 0) → bytesAt d 0 4 < 2 ^ 20 → (∀ u ∈ us, u < 2 ^ 20) →
     Stays (exec (.restoreBuddy .admin w) s) s .admin v 0x2A fun b =>
       us.foldl (fun b u => sendJob b c.slot (.mirrorWant u (bytesAt d 0 4) n none))
         (modLed b c.slot fun l => { l with restore := some ⟨s.body.uid + 1, false, n, bytesAt d 0 4, us, [], [], [], us, [], 0⟩ })) ∧
   (k = 2 → ∀ m cs, hostStream b a = (m, cs) → bytesAt m 0 4 = 0x4E4D4C49 → manifestOk m = true → chunksOk m cs = true → bytesAt m 8 8 = n →
     regionsMatch x m = true → Ends (exec (.restoreHost .admin w) s) s .admin v 0x2A 0x00 0 fun b =>
       let b := dropSteps (restoreTo s.env b c.slot n m cs false) c.slot n
       modLed { b with free := b.free + 1 } c.slot fun l => { l with
         anyNext := true, restart := (Config.freeWord b.free).toNat % 4 + 1 }))

/-- R86, R142, R273: a LAUNCH that meets no refusal, on a panel that neither rotates nor runs a swatch and whose fills can be read, gives
the panel its resources and threads: each named thread runs at its entry, with its argument in s1 and its first residency entry filled, and
the START record is written. While one of those conditions fails, the launch waits. LAUNCH_DONE writes the DONE record, and sets event DEV,
once every thread of the set has stopped and its work is complete. -/
def Obligations.LaunchAssignsThePanel : Prop := ∀ (s : State) (r : RingRef) (w : BitVec 512),
  (let c := cmdOf s r w 0x06
   let b := leaveHaze s.env (begun s r w 0x06)
   let d := c.at 16 1
   let lp := c.at 17 1
   let dev := c.at 18 1
   let va := c.at 24 8
   let b0 := findRange s.env c.slot b va 64
   let b2 := findRange s.env c.slot b0 va (allocLen ((ctxBytes b0 c.slot va 64).getD []))
   Starts s r w 0x06 launchSpec → d ≤ 3 → lp ≤ 7 → bit dev 6 = false → va < 2 ^ 48 →
   ∀ a f pp, readAlloc b2 c.slot va = some a → flightOf b2 c = some f → physOf b2 d lp = some pp → allocBad a = false →
   let k := pkey d pp
   allocBusy (reserved b2 d lp (panelAt b2 k)) c.slot a = false → allocUnmapped b2 c.slot a = false →
   let l : LaunchRec := ⟨d, lp, a.ents.map (·.th), ringNum r, f, if bit dev 7 then some (dev % 64) else none, false, a, 0, []⟩
   let b1 := modCtx b2 c.slot fun x => { x with launch := x.launch ++ [l] }
   ((panelAt b2 k).rotUntil = 0 → fget b2.kpr.running k = none → fillsWait b1 c.slot a = false →
     Stays (exec (.launch r w) s) s r w 0x06 (fun _ => startThreads s.env b1 c.slot l a) ∧
     (b1.mem.bad = [] →
       let x1 := ctxAt b1 c.slot
       let b3 := findRange s.env c.slot (a.ents.foldl (fun b x => findRange s.env c.slot b x.entry x.ilen) b1) x1.set.chainBase (64 * x1.set.chainCnt)
       panelAt (startThreads s.env b1 c.slot l a) k = (a.ents.map fun x =>
         (x.th, newThread b3 c.slot (handleOf s.env b1 c.slot) ((panelAt b2 k).thread x.th).mark x)).foldl
           (fun p t => p.setThread t.1 t.2) (assign (panelAt b2 k) c.slot a))) ∧
   (((panelAt b2 k).rotUntil ≠ 0 ∨ (fget b2.kpr.running k).isSome = true ∨ fillsWait b1 c.slot a = true) →
     Stays (exec (.launch r w) s) s r w 0x06 (fun _ => b1))) ∧
  (∀ (slot : Fin 4096) (seq : Nat) (l : LaunchRec), (ctxAt s.body slot.val).launch.find? (fun l => l.fly.seq == seq) = some l →
   (launchComplete s.body slot.val l = true →
    Answers (exec (.launchDone slot seq) s) s (settled s (
      let b := modCtx (unqueued s.body) slot.val fun c => { c with launch := c.launch.filter fun y => y.fly.seq != l.fly.seq }
      let b := completeFlight s.env b (ctxRing slot.val l.ring) { l.fly with done := some (0x00, 0) } 2
      match l.dev with
      | some v => setEventNow s.env b slot.val v
      | none => b))) ∧
   (launchComplete s.body slot.val l = false → Answers (exec (.launchDone slot seq) s) s s.body))

/-- R267, R268, Table 10-6: a completed command leaves its ring with a 16-byte record at the completion index (phase, ring, kind, status, entry,
result, user word, tick), the index moves on and the phase turns as it wraps; with `IRQ` the ring's vector is counted; with `CEN` the event is
set. A FENCE completes when every command started before it has; STEP_CLOSE closes its step when its conditions hold (R283); until then
nothing changes, nor in a stopped module (R24). R257: a doorbell of 8 bytes with the current handle of a LIVE context, or the admin ring's,
sets the ring's tail, any other is discarded and counted. R268: the moderation timer raises the vector of records that wait; the admin ring
is enabled and disabled by HST_ARCTL, and starts empty. R302: REPLAY_END writes a record for each ring. R256: a vector that is masked, or
that the function may not send, is pending. -/
def Obligations.CompletionRecordsAndRingControls : Prop :=
  (∀ (s : State) (r : RingRef) (seq : Nat) (out : RunOut) (f : Flight),
    let x := ringAt s.body r
    let n := 2 ^ (x.logn + 1)
    let slot := (ringSlot r).getD (f.cev / 64)
    let ends (b : Body) : Body := completeFlight s.env (finishSeq b r seq 0x00 0) r { f with done := some (0x00, 0) } 0
    (s.body.kpr.pwr.stopped = true → Answers (exec (.commandCompletion r seq out) s) s s.body) ∧
    (s.body.kpr.pwr.stopped = false → x.fly.find? (·.seq == seq) = some f → f.idx < 65536 →
    (∀ st res, f.done = some (st, res) →
      let w0 := b2n x.cplPhase * 2 ^ 31 + ringNum r * 2 ^ 29 + 0 * 2 ^ 27 + st * 2 ^ 16 + f.idx
      let d := bytesOf 4 (BitVec.ofNat 32 w0) ++ bytesOf 4 res ++ bytesOf 4 f.user ++ bytesOf 4 (s.clk.tick.setWidth 32)
      let b := writeRecord s.env (unqueued s.body) r 0 st f.idx res f.user f.irq
      let b1 := modRing b r fun y => { y with fly := y.fly.filter fun g => g.seq != f.seq }
      Answers (exec (.commandCompletion r seq out) s) s (settled s
        (if f.cen && (ctxAt b1 slot).id.st != .free then setEventNow s.env b1 slot f.cev else b1)) ∧
      b.host.bytes = (if s.body.host.master then cellSetMany hostBg s.body.host.bytes (x.cplBase + 16 * x.cplIdx) d else s.body.host.bytes) ∧
      (f.irq = false → ringAt b r = { x with
        cplIdx := (x.cplIdx + 1) % n, cplPhase := if x.cplIdx + 1 = n then !x.cplPhase else x.cplPhase })) ∧
    (f.done = none → f.opc = 0x03 →
      ((∀ q ∈ ctxRings slot, ∀ g ∈ (ringAt s.body q).fly, f.seq ≤ g.seq) →
        Answers (exec (.commandCompletion r seq out) s) s (settled s (ends (unqueued s.body)))) ∧
      ((∃ q ∈ ctxRings slot, ∃ g ∈ (ringAt s.body q).fly, g.seq < f.seq) →
        Answers (exec (.commandCompletion r seq out) s) s s.body)) ∧
    (f.done = none → f.opc = 0x11 → ∀ y, (ctxAt s.body slot).led.waits.find? (·.seq == seq) = some y →
      (closeReady s.body slot y.step = false → Answers (exec (.commandCompletion r seq out) s) s s.body) ∧
      (closeReady s.body slot y.step = true → Answers (exec (.commandCompletion r seq out) s) s (settled s
        (completeFlight s.env (plumbStart s.env (finishSeq (closeStep (unqueued s.body) slot y.step) r seq 0x00 0) slot) r
          { f with done := some (0x00, 0) } 0)))))) ∧
  (∀ (s : State),
    (∀ (slot : Fin 4096) (v : BitVec 64),
      let tail := fld v.toNat 15 0
      let r := ctxRing slot.val (fld v.toNat 31 30)
      let ok := fld v.toNat 63 32 = handleOf s.env s.body slot.val ∧ (ctxAt s.body slot.val).id.st = .live ∧
        (ctxAt s.body slot.val).id.resetting = false ∧ (ringAt s.body r).present = true ∧ tail < 2 ^ (ringAt s.body r).logn ∧
        fld v.toNat 29 16 = 0
      let c := Instr.doorbell ⟨slot.val, by have := slot.isLt; omega⟩ 0 8 v
      (ok → Answers (exec c s) s (latchWev slot.val s.env.cyc (modRing s.body r fun y => { y with tail := tail }))) ∧
      (¬ ok → Answers (exec c s) s { s.body with host := { s.body.host with dbDrop := min (s.body.host.dbDrop + 1) 0xFFFFFFFF } })) ∧
    (∀ v : BitVec 64, s.body.host.ar.en = true → v.toNat < 2 ^ s.body.host.ar.logn → v.toNat < 2 ^ 16 →
      Answers (exec (.doorbell 4096 0 8 v) s) s (latchAll s.env
        { s.body with host := { s.body.host with ar := { s.body.host.ar with ring := { s.body.host.ar.ring with tail := v.toNat } } } })) ∧
    (∀ (page : Fin 8192) (off : Fin 4096) (len : Nat) (v : BitVec 64), page.val ≤ 4096 → (off.val ≠ 0 ∨ len ≠ 8) →
      Answers (exec (.doorbell page off len v) s) s
        { s.body with host := { s.body.host with dbDrop := min (s.body.host.dbDrop + 1) 0xFFFFFFFF } }) ∧
    (∀ (slot : Fin 4096) (n : Fin 4), let x := ringAt s.body (.ctx slot n)
      let b := modRing s.body (.ctx slot n) fun y => { y with irqCnt := 0 }
      x.irqCnt ≠ 0 → x.modTick ≠ 0 → x.irqTick + x.modTick ≤ s.clk.tick.toNat →
      (vecOpen s.body x.vec = true → Answers (exec (.interruptModerationTimer slot n) s) s
        { b with host := { b.host with vectors := b.host.vectors ++ [x.vec] } }) ∧
      (vecOpen s.body x.vec = false → x.vec ∉ s.body.host.vpend → Answers (exec (.interruptModerationTimer slot n) s) s
        { b with host := { b.host with vpend := b.host.vpend ++ [x.vec] } })) ∧
    (∀ slot : Fin 4096, replaying s.body slot.val = true → (ctxAt s.body slot.val).led.replayQ = [] → shadowing s.body slot.val = false →
      Answers (exec (.replayEnd slot) s) s (settled s (modLed ((ctxRings slot.val).foldl (fun b r =>
        if (ringAt b r).present then
          writeRecord s.env b r 0 0x00 0xFFFF (BitVec.ofNat 32 (fget (ctxAt s.body slot.val).led.replayCnt (ringNum r))) 0 true
        else b) (unqueued s.body)) slot.val fun l => { l with replay := none }))) ∧
    (∀ w : BitVec 32, served s.body .hst = true →
      let k := fld w.toNat 19 16
      let b := touched s.body
      let put (f : AdminRing → AdminRing) : Body := { b with host := { b.host with ar := f b.host.ar } }
      (4 ≤ k → k ≤ 12 → s.body.kpr.start.phase = 0 →
        (s.body.host.ar.en = false → Answers (exec (.adminRingEnable w) s) s (sendPending
          { b with host := { b.host with
            master := true
            ar := { b.host.ar with
              en := true, logn := k, ring := { b.host.ar.ring with head := 0, tail := 0, cplIdx := 0, cplPhase := true } } } })) ∧
        (s.body.host.ar.en = true → Answers (exec (.adminRingEnable w) s) s (put fun a => { a with logn := k }))) ∧
      (k < 4 ∨ 12 < k ∨ s.body.kpr.start.phase ≠ 0 →
        Answers (exec (.adminRingEnable w) s) s (put fun a => { a with en := false, logn := k })) ∧
      Answers (exec (.adminRingDisable w) s) s (put fun a => { a with en := false, logn := k })))

/-- R285 to R290: a snapshot starts for the oldest closed step that waits when the step before it is sealed or was never opened and no
readout of its generation runs: the generation is WRITING and empty, it records the state declared at the step's close, and the stack
scaffolds that are free are taken, the others when they come free; each chunk is copied, digested and streamed to the buddies; with the last
stack done, the manifest is written, the generation is COMPLETE and the scaffolds are released; push-ahead copies a block out of turn while
every stack of the block is held or done. R300, R326: then the digests are compared, or, of a shadow, sent to its leader (R341). -/
def Obligations.SnapshotEvents : Prop := ∀ (s : State) (slot : Fin 4096),
  let b := unqueued s.body
  let l := (ctxAt s.body slot.val).led
  (∀ n r, l.snap = none → l.waitingSnaps.head? = some (n, r) →
    ((fget l.step (n - 1)).used = false → (∀ q ∈ l.readout, q.gen ≠ n % 2) →
      Answers (exec (.snapshotStart slot) s) s (settled s ((List.range 8).foldl (fun b k => snapTake b slot.val k)
        (modCtx b slot.val fun c => { c with led := { c.led with
          snap := some ⟨n, [], [], [], stateBlocks r.regions, []⟩
          gens := fset c.led.gens (n % 2) { (default : GenRec) with st := .writing, step := n } } })))) ∧
    ((fget l.step (n - 1)).used = true ∨ (∃ q ∈ l.readout, q.gen = n % 2) → Answers (exec (.snapshotStart slot) s) s s.body)) ∧
  (∀ sn, l.snap = some sn →
    let rs := (fget l.step sn.step).regions
    let image (k : Nat) := stackImage s.body slot.val rs k
    (∀ k : Fin 8, k.val ∉ sn.stackHeld → k.val ∉ sn.stackDone → image k.val ≠ [] →
      (blocker s.body (grpKey 3 k.val) 4 = none →
        Answers (exec (.snapshotScaffoldRetry slot k) s) s (modCtx
          { s.body with host := { s.body.host with holders := s.body.host.holders ++
            [⟨grpKey 3 k.val, 4, false, none, BitVec.ofNat 64 slot.val⟩] } } slot.val fun c =>
          { c with led := { c.led with
            snap := c.led.snap.map fun q => { q with stackHeld := q.stackHeld ++ [k.val] }
            gens := fmod c.led.gens (sn.step % 2) fun g => { g with chs := fset g.chs k.val (serviceChans s.body k.val) } } })) ∧
      ((blocker s.body (grpKey 3 k.val) 4).isSome = true → Answers (exec (.snapshotScaffoldRetry slot k) s) s s.body)) ∧
    (∀ k : Fin 8,
      let i := ((sn.chunkNext.find? (·.1 == k.val)).map (·.2)).getD 0
      let gs := (((List.range (image k.val).length).zip (image k.val)).drop (2048 * i)).take 2048
      (k.val ∉ sn.stackHeld ∨ gs = [] → Answers (exec (.chunkComplete slot k) s) s s.body) ∧
      (k.val ∈ sn.stackHeld → gs ≠ [] → Answers (exec (.chunkComplete slot k) s) s (settled s (completeChunk s.env b slot.val k.val)))) ∧
    (snapAll s.body slot.val sn = false → Answers (exec (.snapshotComplete slot) s) s s.body) ∧
    (snapAll s.body slot.val sn = true →
      let done := snapDone (sn.stackHeld.foldl (fun b k => releaseWhere b fun h =>
        h.group == grpKey 3 k && h.act == 4 && !h.host && h.arg == BitVec.ofNat 64 slot.val) b) slot.val
      let g := fget l.gens (sn.step % 2)
      let l' := (ctxAt done slot.val).led
      l'.snap = none ∧
      (∃ m cl, manifestOk m = true ∧ bytesAt m 8 8 = sn.step % 2 ^ 64 ∧ fget l'.gens (sn.step % 2) = { g with
        st := .complete, miss := (g.chunks.filter (·.missing)).length, manifest := m, chs := cl, copies := manPlaces s.body cl }) ∧
      fget l'.step sn.step = { fget l.step sn.step with
        snapDone := true, digests := (orderChunks g.chunks).map (·.digest), snapAcks := l.buddies.map (·.unit)
        snapBad := (fget l.step sn.step).snapBad || g.chunks.any fun x => x.missing || !x.poison.isEmpty } ∧
      (shadowing s.body slot.val = false →
        Answers (exec (.snapshotComplete slot) s) s (settled s (compareKept (adjudicate s.env done slot.val sn.step) slot.val sn.step))) ∧
      (shadowing s.body slot.val = true →
        Answers (exec (.snapshotComplete slot) s) s (settled s (sendJob done slot.val
          (.shardDigest (ctxAt s.body slot.val).con.peer sn.step (manShard (fget l'.gens (sn.step % 2)).manifest)))))) ∧
    (∀ k, (((List.range 32).filterMap fun i => granStack s.body (ctxAt s.body slot.val) (65536 * k + 2048 * i)).all fun q =>
        sn.stackHeld.contains q || sn.stackDone.contains q) = true →
      Answers (exec (.heldWriteRelease slot k) s) s (settled s (pushBlock s.env b slot.val k))))

/-- R297 to R301: a member that is certain of a step reports it once; a DIRTY report goes up the tree at once, CLEAN ones when all are in; a
context of no job, or the root of the job's tree, decides it; a decision is passed down, SEALED seals the step, REFUSED raises STEP_REFUSED;
a HALTED context learns that a step was sealed elsewhere. R339 to R342: CTX_CONTRAIL takes its role and peer, and role NONE ends shadowing;
what the leader mirrors is written at the same address of the shadow; the leader answers the shadow's shard digest with the comparison, and
a difference ends shadowing at both ends; a match seals the shadow's step and counts, until it is admitted. -/
def Obligations.SealAndContrailEvents : Prop :=
  (∀ (s : State) (slot : Fin 4096) (n : Nat),
    let b := unqueued s.body
    let l := (ctxAt s.body slot.val).led
    let r := fget l.step n
    let rep (f : StepRec → StepRec) (b : Body) : Body := modCtx b slot.val fun c =>
      { c with led := { c.led with step := fmod c.led.step n f } }
    let said (v : Bool) : Body := rep (fun r => { r with report := some v }) b
    (shadowing s.body slot.val = true → Answers (exec (.sealReport slot n) s) s s.body) ∧
    (shadowing s.body slot.val = false → r.used = true → r.report = none →
      (stepDirty l n = true → Answers (exec (.sealReport slot n) s) s (settled s (sealTry s.env (said false) slot.val n))) ∧
      (stepClean r = true → stepDirty l n = false → Answers (exec (.sealReport slot n) s) s (settled s (sealTry s.env (said true) slot.val n))) ∧
      (stepClean r = false → stepDirty l n = false → Answers (exec (.sealReport slot n) s) s s.body)) ∧
    (∀ v, Arrives s slot.val v isHeld →
      (∀ peer ok, (∀ x ∈ r.reports, x.1 ≠ peer) → Takes (exec (.sealReportArrival ⟨v, slot⟩ n peer ok) s) s v fun b =>
        sealTry s.env (rep (fun r => { r with reports := r.reports ++ [(peer, ok)] }) b) slot.val n) ∧
      (∀ ok : Bool,
        let known (b : Body) : Body := if (ctxAt s.body slot.val).id.st = .halted ∧ ok = true ∧ n ∉ l.seals then
          modCtx b slot.val fun c => { c with led := { c.led with remoteSealed := c.led.remoteSealed ++ [n] } } else b
        (r.used = false ∨ r.refused = true → Takes (exec (.sealDecision ⟨v, slot⟩ n ok) s) s v known) ∧
        (r.used = true → r.refused = false → Takes (exec (.sealDecision ⟨v, slot⟩ n ok) s) s v fun b =>
          let told := r.kids.foldl (fun b q => sendJob b slot.val (.sealDecision q.2 n ok)) (known b)
          if ok then sealStep told slot.val n else refuseStep s.env told slot.val n))) ∧
    (∀ b0 : Body, let q := fget (ctxAt b0 slot.val).led.step n
      let ok := !(q.report == some false || q.reports.any (!·.2))
      let all := q.report.isSome && q.kids.all fun k => q.reports.any (·.1 == k.1)
      (ok = true → all = false → sealTry s.env b0 slot.val n = b0) ∧
      (ok = false ∨ all = true → q.own.getD 0 ≠ 0 → q.sentUp = false → sealTry s.env b0 slot.val n =
        sendJob (rep (fun r => { r with sentUp := true }) b0) slot.val (.seal q.up n ok)) ∧
      (ok = false ∨ all = true → q.own.getD 0 = 0 → q.used = true → q.refused = false → sealTry s.env b0 slot.val n =
        let told := q.kids.foldl (fun b k => sendJob b slot.val (.sealDecision k.2 n ok)) b0
        if ok then sealStep told slot.val n else refuseStep s.env told slot.val n))) ∧
  (∀ (s : State) (slot : Fin 4096),
    let c := ctxAt s.body slot.val
    (∀ w : BitVec 32, served s.body (.ctx slot.val) = true →
      let put (b : Body) : Body := modCtx b slot.val fun c => { c with con := { c.con with
        role := fld w.toNat 31 30, admitted := false, hits := 0, peer := fld w.toNat 19 0 } }
      (fld w.toNat 31 30 = 1 ∨ fld w.toNat 31 30 = 2 → Answers (exec (.contrailRoleWrite slot w) s) s (put (touched s.body))) ∧
      (fld w.toNat 31 30 = 0 → c.con.active = false → Answers (exec (.contrailRoleWrite slot w) s) s (put (touched s.body))) ∧
      (fld w.toNat 31 30 = 3 → Answers (exec (.contrailRoleWrite slot w) s) s
        (modCtx (touched s.body) slot.val fun c => { c with con := { c.con with peer := fld w.toNat 19 0 } }))) ∧
    (∀ v, Arrives s slot.val v isLive → ∀ a d po g, shadowing s.body slot.val = true → xlate s.body slot.val a d.length true = .ok g →
      Takes (exec (.shadowMirrorLine ⟨v, slot⟩ (.put a d po)) s) s v fun b => cmdPut s.env b (some slot.val) g d po none) ∧
    (∀ v, Arrives s slot.val v isHeld → ∀ n dg, let g := fget c.led.gens (n % 2)
      c.con.role = 1 → c.con.active = true → g.step = n → (g.st = .complete ∨ g.st = .sealed) →
      let tell (x : Bool) (b : Body) : Body := sendJob b slot.val (.shardResult c.con.peer n x)
      (dg = (g.manifest.drop 40).take 32 → Takes (exec (.contrailDigest ⟨v, slot⟩ n dg) s) s v (tell true)) ∧
      (dg ≠ (g.manifest.drop 40).take 32 → Takes (exec (.contrailDigest ⟨v, slot⟩ n dg) s) s v fun b =>
        contrailOver s.env (tell false b) slot.val 1)) ∧
    (∀ v, Arrives s slot.val v isHeld → ∀ n, shadowing s.body slot.val = true →
      let h := min 65535 (c.con.hits + 1)
      let hit (x : Bool) (b : Body) : Body := modCtx (sealStep b slot.val n) slot.val fun c =>
        { c with con := { c.con with hits := h, admitted := c.con.admitted || x } }
      (c.con.admitted = true ∨ c.con.admitAt = 0 ∨ h < c.con.admitAt →
        Takes (exec (.contrailResult ⟨v, slot⟩ n true) s) s v (hit false)) ∧
      (c.con.admitted = false → 0 < c.con.admitAt → c.con.admitAt ≤ h →
        Takes (exec (.contrailResult ⟨v, slot⟩ n true) s) s v fun b =>
          moduleEvent s.env (hit true b) 0x0B 0 0 (handleOf s.env s.body slot.val) c.con.peer n) ∧
      Takes (exec (.contrailResult ⟨v, slot⟩ n false) s) s v fun b =>
        raise (contrailOver s.env (histAdd s.env b 11 0 0x0E 0 none 0xFF 0 0) slot.val 1) (ctxFault slot.val 0x16 12 1)))

/-- R293 to R296, R301, R303: what the Lining does with a partner's frames: a chunk with room and a good digest is stored, else refused; a
manifest whose copy verifies makes it COMPLETE and is acknowledged, else the copy is refused; replay buffers and log entries are kept while
there is room, else refused as LINING_FULL; a sealed step gives them up and its generation is SEALED; a new unit address re-keys the copies; a
question whether this module can be a buddy is answered; a copy that is asked for is supplied; what a buddy supplies for a restore joins it. -/
def Obligations.LiningMessages : Prop := ∀ (s : State) (v : Via) (job unit step : Nat), IsNew s v →
  let b := s.body
  let on (m : LinMsg) (f : Body → Body) : Prop := Takes (exec (.liningChunkReceive ⟨v, m⟩) s) s v f
  let tells (f : Frame) (b : Body) : Body := sendJob b (jobSlot s.body job) f
  let led (slot : Nat) (f : Ledger → Ledger) (b : Body) : Body := modCtx b slot fun c => { c with led := f c.led }
  (∀ k i dg d,
    let put (p : Partner) : Partner := p.modGen step fun g => storeChunk g step (chunkOf k i d dg [])
    (liningRoom b job unit put = false → on (.chunk job unit step k i dg d) (tells (.mirrorAck unit step 0 false))) ∧
    (liningRoom b job unit put = true → sha256 d ≠ dg → on (.chunk job unit step k i dg d) (tells (.mirrorRefuse unit step k i))) ∧
    (liningRoom b job unit put = true → sha256 d = dg → on (.chunk job unit step k i dg d) fun b => modPartner b job unit put)) ∧
  (∀ m, let g := ((partnerOf b job unit).getD default).gen step
    let keep (g : GenRec) : List GenChunk := if g.step = step ∧ g.st ≠ .empty then g.chunks else []
    let put (p : Partner) : Partner := p.modGen step fun x => { x with st := .complete, step := step, manifest := m, chunks := keep g }
    (copyOk m { g with chunks := keep g } = true → liningRoom b job unit put = true →
      on (.manifest job unit step m) fun b => tells (.mirrorAck unit step 0 true) (modPartner b job unit put)) ∧
    (copyOk m { g with chunks := keep g } = false ∨ liningRoom b job unit put = false →
      on (.manifest job unit step m) (tells (.mirrorAck unit step 0 false)))) ∧
  (shadowOf b job unit = none →
    (∀ a d last,
      let put (p : Partner) : Partner := { p with inputs := p.inputs.filter (fun i => !(i.1 == step && i.2.1 == a)) ++ [(step, a, d)] }
      (liningRoom b job unit put = true → on (.input job unit step a d last) fun b =>
        if last then tells (.mirrorAck unit step 1 true) (modPartner b job unit put) else modPartner b job unit put) ∧
      (liningRoom b job unit put = false → on (.input job unit step a d last) (tells (.mirrorAck unit step 1 false)))) ∧
    (∀ r w,
      (liningRoom b job unit (Partner.logged · step r w) = true → on (.cmd job unit step r w) fun b =>
        tells (.mirrorAck unit step 2 true) (modPartner b job unit (Partner.logged · step r w))) ∧
      (liningRoom b job unit (Partner.logged · step r w) = false → on (.cmd job unit step r w) (tells (.mirrorAck unit step 2 false))))) ∧
  (∀ slot, shadowOf b job unit = some slot →
    (∀ a d last, on (.input job unit step a d last) fun b => ledgerPut s.env b slot a d) ∧
    (∀ r w, let q := (ctxAt b slot).led.replayQ
      (64 * (q.length + 1) ≤ partSize b 1 / 3 → on (.cmd job unit step r w) (led slot fun l => { l with replayQ := q ++ [⟨step, r, w⟩] })) ∧
      (partSize b 1 / 3 < 64 * (q.length + 1) → on (.cmd job unit step r w) fun b => endContrail s.env b slot 2))) ∧
  ((partnerOf b job unit).isSome = true → on (.sealed job unit step) fun b => modPartner b job unit fun p =>
    ({ p with inputs := p.inputs.filter (·.1 != step), cmds := p.cmds.filter (·.1 != step) } : Partner).modGen step fun g =>
      if g.step = step ∧ g.st = .complete then { g with st := .sealed, manifest := manifestFlag g.manifest 1 } else g) ∧
  (∀ to_, on (.rekey job unit to_) fun b =>
    { b with fab := { b.fab with partner := b.fab.partner.map fun p => if p.job = job ∧ p.unit = unit then { p with unit := to_ } else p } }) ∧
  on (.ask job unit) (tells (.buddyAnswer unit job (b.ctx.slot.any fun c => c.2.id.st != .free && c.2.id.job == job && c.2.con.role != 2)
    (liningRoom b job unit id) (unitTags b))) ∧
  (∀ to_ ch p, partnerOf b job unit = some p →
    let g := p.gen step
    (g.step = step ∧ (g.st = .complete ∨ g.st = .sealed) → on (.want job unit step to_ ch) fun b =>
      supplyGen b (jobSlot s.body job) to_ step g (p.inputs.filter fun i => decide (step < i.1)) (p.cmds.filter fun i => decide (step < i.1)) ch) ∧
    (g.step ≠ step ∨ (g.st ≠ .complete ∧ g.st ≠ .sealed) → on (.want job unit step to_ ch) (tells (.mirrorSupplyEnd to_ step 0xB)))) ∧
  (∀ slot : Fin 4096,
    (∀ m, on (.supplyManifest slot m) (led slot.val fun l => { l with restore := l.restore.map fun x =>
      if x.roll || (!x.manifest.isEmpty && manifestOk x.manifest) then x else { x with manifest := m } })) ∧
    (∀ k i d, on (.supplyChunk slot k i d) fun b => restoreTry s.env (supplyChunk b slot.val k i d) slot.val) ∧
    (∀ a d, on (.supplyInput slot step a d) fun b => if (ctxAt s.body slot.val).led.restore = none then b else ledgerPut s.env b slot.val a d) ∧
    (∀ r w, on (.supplyCmd slot step r w) (led slot.val fun l =>
      { l with restore := l.restore.map fun x => { x with cmds := x.cmds ++ [(v.hdr.src, ⟨step, r, w⟩)] } })) ∧
    (∀ u r, on (.supplyEnd slot u r) fun b => restoreTry s.env (led slot.val (fun l => { l with restore := l.restore.map fun x =>
      { x with
        waiting := x.waiting.erase u
        full := if r = 0 ∧ u ∈ x.waiting then x.full ++ [u] else x.full
        why := if r = 0 then x.why else r } }) b) slot.val))

/-- R281, R282, R292, R294: a buddy's acknowledgement of inputs, of a snapshot or of a log entry no longer holds the step or the ring; a chunk
it refuses is streamed once more, and refused again makes the step dirty; a Lining that is full makes the step dirty with LINING_FULL; its
answer to a BUDDY_SET joins the others. R50: when the last panel of a context reset is scrubbed, its resources are released and the context is
HALTED. R196, R274: a memory controller that serves a piece of a copy reads it, writes it and ends its transfer with the last. -/
def Obligations.AcknowledgementsRelease : Prop := ∀ (s : State) (slot : Fin 4096) (unit : Nat),
  let l := (ctxAt s.body slot.val).led
  let led (f : Ledger → Ledger) (b : Body) : Body := modCtx b slot.val fun c => { c with led := f c.led }
  let rep (n : Nat) (f : StepRec → StepRec) (b : Body) : Body := led (fun l => { l with step := fmod l.step n f }) b
  let bud (f : Buddy → Buddy) (b : Body) : Body := led (fun l => { l with buddies := l.buddies.map fun y => if y.unit = unit then f y else y }) b
  (∀ v, Arrives s slot.val v isHeld →
    let on (m : BuddyMsg) (f : Body → Body) : Prop := Takes (exec (.buddyAck ⟨v, slot⟩ unit m) s) s v f
    (∀ n, on (.inputs n) fun b => buddyAcked (rep n (fun r => { r with rbAcks := r.rbAcks.erase unit }) b) slot.val unit 1 n) ∧
    (∀ n, on (.snapshot n) fun b => buddyAcked (rep n (fun r => { r with snapAcks := r.snapAcks.erase unit })
      (bud (fun y => if n % 2 = 0 then { y with genA := true } else { y with genB := true }) b)) slot.val unit 0 n) ∧
    (∀ r : Fin 4, (∀ x ∈ l.bset, (unit, 2, r.val) ∉ x.acks) → on (.log r) fun b =>
      modRing b (.ctx slot r) fun x => { x with logAcks := x.logAcks.map fun a => a.erase unit }) ∧
    (∀ n k i y, l.buddies.find? (·.unit == unit) = some y →
      let key := (n * 8 + k) * 2 ^ 16 + i
      (key ∈ y.refusedOnce → on (.refused n k i) fun b =>
        rep n (fun r => { r with snapBad := true }) (bud (fun z => { z with failed := z.failed ++ [n] }) b)) ∧
      (∀ x, key ∉ y.refusedOnce → (fget l.gens (n % 2)).step = n → (fget l.gens (n % 2)).chunks.find? (fun x => x.stack == k && x.idx == i) = some x →
        on (.refused n k i) fun b => sendJob (bud (fun z => { z with refusedOnce := z.refusedOnce ++ [key] }) b) slot.val
          (.mirrorChunk unit n k i (mirrorBytes (genImage s.body slot.val (fget l.gens (n % 2)) k) x)))) ∧
    (∀ n, ∃ t, exec (.buddyAck ⟨v, slot⟩ unit (.full n)) s = .next t ∧ (fget (ctxAt t.body slot.val).led.step n).snapBad = true ∧
      (ctxAt t.body slot.val).led.reason = 9 ∧
      Leaves s t (receipted v.hdr (rep n (fun r => { r with snapBad := true }) (led (fun l => { l with reason := 9 }) s.body)))) ∧
    (∀ a b c d e x, l.bset = some x → unit ∈ x.want → (∀ y ∈ x.got, y.unit ≠ unit) → on (.answer a b c d e) fun f => buddySettle (buddyDecide s.env
      (led (fun l => { l with bset := some { x with got := x.got ++ [⟨unit, a, b, c, d, e⟩] } }) f) slot.val) slot.val)) ∧
  (∀ p : PhysRef, let k := physKey p
    let id := (ctxAt s.body slot.val).id
    id.resetting = true → k ∈ id.scrubs → id.dying = false →
    ∃ t, exec (.contextScrubDone slot p) s = .next t ∧ panelAt t.body k = { (panelAt s.body k).release slot.val with ownedAt := s.clk.tick.toNat } ∧
      ((∀ j ∈ id.scrubs, j = k) → (ctxAt t.body slot.val).id = { id with st := .halted, resetting := false, scrubs := [], resetFly := [] }) ∧
      ((∃ j ∈ id.scrubs, j ≠ k) → (ctxAt t.body slot.val).id = { id with scrubs := id.scrubs.filter (· != k) })) ∧
  (∀ uid i j x b1, memRuns s.body = true → s.body.fab.puts.find? (·.uid == uid) = none → s.body.ctx.jobs.find? (·.uid == uid) = some j →
    j.todo.find? (fun x => x.id == i && !x.remote) = some x → segsWait s.body x.src = false → x.pool = [] →
    let b0 := findSegs s.env (some j.slot) (unqueued s.body) x.src
    let d := readSegsB b0 x.src
    putPiece s.env b0 j.slot uid (2 * i) x.dst d = (b1, true) →
    let b2 : Body := { b1 with mem := { b1.mem with held := b1.mem.held.filter (· != (uid, 2 * i + 1)) } }
    let j' : Job := { j with todo := j.todo.filter (·.id != i), poisoned := j.poisoned + b2n (d.any (·.2)) }
    Answers (exec (.controllerAcknowledgement uid i) s) s (settled s
      (if j'.todo.isEmpty then jobEnd (modJob b2 uid fun _ => j') j' else modJob b2 uid fun _ => j')))

/-- R201, R202, R207, R208, R210: Sander takes the next segment of a tier it sweeps: its errors are handled when the segment's group is free
and no snapshot is writing it, else it is skipped; a channel that is to retrain starts when the memories run, no other channel of its die
retrains and the stack's group is free, else its controller looks again 1,000,000 ticks later; a retrain that passes brings the channel
back into service, one that fails leaves it FAILED and proposes its repair; a lost channel and a failed package are FAILED. -/
def Obligations.MemoryMaintenance : Prop := ∀ (s : State),
  let b := unqueued s.body
  (∀ (found : List ErrLine) (n : Nat), let q := s.body.mem.snd
    q.period ≠ 0 → memRuns s.body = true → q.again = [] → q.next = n → n < 2564 → segOn q n = true → n ∉ q.first →
    let g := segGroup n
    let b1 : Body := { b with mem := { b.mem with snd := { q with next := n + 1 } } }
    let after (b : Body) : Body := { b with mem := { b.mem with snd := sanderEnd b.mem.snd } }
    (blocker s.body (grpKey g.1 g.2) 2 = none → segWritten s.body n = false →
      Answers (exec (.sanderSegment found) s) s (settled s (after (scrubErrors s.env (some q.sweep) g.1 g.2 (found ++ segBad b1 n) b1)))) ∧
    ((blocker s.body (grpKey g.1 g.2) 2).isSome = true ∨ segWritten s.body n = true →
      Answers (exec (.sanderSegment found) s) s (settled s (after
        { b1 with mem := { b1.mem with snd := { b1.mem.snd with skipped := q.skipped ++ [n] } } })))) ∧
  (∀ found, s.body.mem.snd.period = 0 ∨ memRuns s.body = false → Answers (exec (.sanderSegment found) s) s s.body) ∧
  (∀ (k : Fin 8) (ch : Fin 32), (memRuns s.body = false ∨ retrainDue s.env s.body k.val ch.val = false) →
    Answers (exec (.channelRetrain k ch) s) s s.body ∧ Answers (exec (.channelRetrainRetry k ch) s) s s.body) ∧
  (∀ (k : Fin 8) (ch : Fin 32),
    memRuns s.body = true → chState s.body k.val ch.val = 0 →
    (let x := fget s.body.mem.stack k.val
     let recently := (fget x.ceTicks ch.val).filter fun t => decide (s.clk.tick.toNat ≤ t + 10 ^ 9)
     1024 < recently.length ∨ 240 ≤ (fget s.body.brd.stackTemp k.val - fget x.trainTemp ch.val).natAbs) →
    (∀ t, t = k.val / 2 * 2 ∨ t = k.val / 2 * 2 + 1 → ∀ j, j < 32 → chState s.body t j ≠ 1) →
    (blocker s.body (grpKey 3 k.val) 6 = none → Answers (exec (.channelRetrain k ch) s) s (settled s
      (let b := { b with host := { b.host with holders := b.host.holders ++ [⟨grpKey 3 k.val, 6, false, none, 0⟩] } }
       modStack (setChan (memNote s.env b (.hbm k.val) (memRec s.env b none 0x8 0 ch.val 0)) k.val ch.val 1) k.val fun x =>
         { x with retryAt := fset x.retryAt ch.val 0 }))) ∧
    ((blocker s.body (grpKey 3 k.val) 6).isSome = true → Answers (exec (.channelRetrain k ch) s) s
      (modStack s.body k.val fun x => { x with retryAt := fset x.retryAt ch.val (s.clk.tick.toNat + 1000000) })) ∧
    (fget (fget s.body.mem.stack k.val).retryAt ch.val ≠ 0 → fget (fget s.body.mem.stack k.val).retryAt ch.val ≤ s.clk.tick.toNat →
      exec (.channelRetrainRetry k ch) s = exec (.channelRetrain k ch) s)) ∧
  (∀ (k : Fin 8) (ch : Fin 32), chState s.body k.val ch.val = 1 → holds s.body (grpKey 3 k.val) 6 false = true →
    let free := releaseGroup b (grpKey 3 k.val) 6 false
    Answers (exec (.channelRetrainDone k ch true) s) s (settled s (chanBack free k.val ch.val)) ∧
    Answers (exec (.channelRetrainDone k ch false) s) s (settled s
      (proposeChannel s.env none (chanFail free k.val ch.val) k.val (chanLine ch.val)))) ∧
  (∀ (k : Fin 8) (ch : Fin 32), (chState s.body k.val ch.val = 0 ∨ chState s.body k.val ch.val = 1) →
    ∃ t, exec (.channelFail k ch) s = .next t ∧ chState t.body k.val ch.val = 2 ∧
      (s.body.mem.mrg.run = some (0, 32 * k.val + ch.val) → t.body.mem.mrg.status = 2 ∧ t.body.mem.mrg.run = none) ∧
      (chState s.body k.val ch.val = 1 → holds t.body (grpKey 3 k.val) 6 false = false)) ∧
  (∀ p : Fin 24, fget s.body.mem.tb.out p.val = false → s.body.mem.mrg.run ≠ some (1, p.val) →
    Answers (exec (.tierBPackageFail p) s) s (modTb s.body fun x => { x with failed := fset x.failed p.val true }))

/-- R183, R187, R213, R214, R350: the memories' temperatures are read while they run; a margin run of a unit that the host holds for
margining starts, its channel retrains or its port is DOWN until it ends with a result for each lane; memory is initialised page by page,
until every page is. -/
def Obligations.MarginAndInitialisation : Prop := ∀ (s : State),
  (∀ hs ps, memRuns s.body = true →
    ∃ t, exec (.memoryTempRead hs ps) s = .next t ∧
      (∀ k x, k < 8 → hs[k]? = some x → fget t.body.brd.stackTemp k = x) ∧
      (∀ p x, p < 24 → ps[p]? = some x → fget t.body.mem.tb.temp p = x)) ∧
  (∀ w : BitVec 32, let ty := fld w.toNat 29 27
    let u := fld w.toNat 26 19
    served s.body .mrg = true →
    (marginOk s.body ty u = true →
      Answers (exec (.marginStart w) s) s (let b := touched s.body
        let b := { b with mem := { b.mem with mrg := { b.mem.mrg with
          type := ty, unit := u, sel := fld w.toNat 18 10, busy := true, status := 0, lanes := [], run := some (ty, u) } } }
        if ty = 0 then setChan b (u / 32) (u % 32) 1 else if ty = 3 then portDown b u 0xA else b)) ∧
    (marginOk s.body ty u = false → Answers (exec (.marginStart w) s) s (let b := touched s.body
      { b with mem := { b.mem with mrg := { b.mem.mrg with
        type := ty, unit := u, sel := fld w.toNat 18 10, status := 1 } } }))) ∧
  (∀ lanes ty u, s.body.mem.mrg.busy = true → s.body.mem.mrg.run = some (ty, u) →
    ∃ t, exec (.marginDone lanes) s = .next t ∧ t.body.mem.mrg.busy = false ∧ t.body.mem.mrg.run = none ∧
      (∀ i x, lanes[i]? = some x → fget t.body.mem.mrg.lanes i = x)) ∧
  (∀ k, s.body.mem.initAt = some k → memRuns s.body = true → s.body.kpr.start.phase = 0 →
    (k + 1 < ((initRanges s.body).map (·.2)).sum →
      Answers (exec .memoryInitialisation s) s { s.body with mem := { s.body.mem with initAt := some (k + 1) } }) ∧
    (((initRanges s.body).map (·.2)).sum ≤ k + 1 →
      Answers (exec .memoryInitialisation s) s { s.body with mem := { s.body.mem with initAt := none, initEarly := [] } }))

/-- R25, R27, R218, R222 to R226, R228, R251 to R253: what happens to a Griand port. Training records the common versions, leaves failed lanes
out and sends HELLO, or leaves the port DOWN; an answer to HELLO classifies the port, and anew the ports that answered before; a flit is
replayed, and a port that is lost, or not answered, is DOWN, and the packets it held move; a port that trains again is reported; idle flits
are sent; the head of a listed group answers a discovery, once the members it knows have sent their descriptors, and a member asked alone
answers with its own. -/
def Obligations.GriandPortEvents : Prop := ∀ (s : State) (n : Fin 6),
  let b := s.body
  let p := fget b.fab.port n.val
  let down (cause : Nat) (b : Body) : Body :=
    portMoved (fabOutcome (modPort b n.val fun p =>
      { p with st := 0, cause := cause, lanes := 0, answered := false, hello := false, run := 0, hzn := if planned b n.val then 2 else 0
               phy := 0, link := 0, trn := (0, 0), col := (0, 0), ldg := (0, 0)
               downs := if p.st = 0 then p.downs else satAdd 0xFFFFFFFF p.downs 1 })) n.val
  (∀ t : PortTrain,
    let rg (k : Nat) : Nat × Nat := (fget b.fab.range k, fget b.fab.range (k + 1))
    let phy := common (rg 4) t.phy
    let link := common (rg 2) t.link
    let fail := match p.failLane with | some x => some x | none => t.lane.map (· % 8)
    let two := p.failTwo = true ∨ t.second = true ∨ ∃ x y, p.failLane = some x ∧ t.lane = some y ∧ x ≠ y % 8
    let b1 (b : Body) : Body := modPort (match t.lane with | some l => laneFail s.env b n.val l | none => b) n.val fun p =>
      { p with failLane := fail, failTwo := p.failTwo || t.second || (match p.failLane, t.lane with | some x, some y => x != y % 8 | _, _ => false) }
    let o := exec (.portTrainingComplete n t) s
    (griandTrains b = true →
      (noRange phy = true ∨ noRange link = true → Does o s fun b => down 3 (b1 b)) ∧
      (noRange phy = false → noRange link = false → two ∨ (fail.isSome = true ∧ link.2 < 4) → Does o s fun b => down 2 (b1 b)) ∧
      (noRange phy = false → noRange link = false → ¬ two → (fail.isSome = true → 4 ≤ link.2) →
        let drz := b.kpr.pwr.st == .dusk
        Does o s fun b =>
          let b2 := modPort (b1 b) n.val fun p =>
            { p with st := 2, cause := 0, answered := false, drz := drz, run := 0
                     hzn := if planned b n.val then 2 else 0
                     lanes := if drz then 1 else if fail.isSome then 7 else 8
                     phy := phy.2, link := link.2, trn := common (rg 0) t.trn, col := common (rg 8) t.col, ldg := common (rg 6) t.ldg
                     other := [t.trn, t.col, t.ldg] }
          fabOutcome (sendFrame (modPort b2 n.val fun p => { p with hello := true, answered := false })
            (.hello n.val b.kpr.fuse.identity [rg 4, rg 2, rg 0, rg 8, rg 6] ((b.fab.plan.map (·.take 32)).getD []) (unitTags b2))))) ∧
    (griandTrains b = false → Does o s fun b => match t.lane with | some l => laneFail s.env b n.val l | none => b)) ∧
  (∀ a : HznAns, let o := exec (.horizonAnswer n a) s
    let q : Port := { p with
      answered := true, hello := false, tree := a.tree % 65536, axis := a.axis % 4, leaf := a.leaf, leafPort := a.leafPort % 256
      addr := a.addr % 2 ^ 20, boundId := a.ident, digest := a.digest }
    let b1 (b : Body) : Body := modPort b n.val fun _ => q
    let others := (List.range 6).filter fun m => m != n.val && (fget b.fab.port m).answered && (fget b.fab.port m).hzn != 4
    let c := classifyPort (b1 b) n.val
    (p.st = 0 ∨ p.hello = false → Answers o s b) ∧
    (p.st ≠ 0 → p.hello = true → Does o s (fun b => sendHeld (fabOutcome ((n.val :: others).foldl portClass (b1 b)))) ∧
      ∃ t, o = .next t ∧ fget t.body.fab.port n.val = { q with hzn := c.1, st := c.2.1, cause := c.2.2.1, moved := c.2.2.2 } ∧
        ∀ m, m ≠ n.val → m ∉ others → fget t.body.fab.port m = fget b.fab.port m)) ∧
  ((p.hello = true → Does (exec (.horizonTimeout n) s) s (down 1)) ∧ (p.hello = false → Answers (exec (.horizonTimeout n) s) s b)) ∧
  ((p.st ≠ 0 → Does (exec (.portLivenessTimeout n) s) s (down 2)) ∧ (p.st = 0 → Answers (exec (.portLivenessTimeout n) s) s b)) ∧
  (∀ again cw, let o := exec (.griandFlitFail n again cw) s
    let counts (b : Body) : Body := modPort b n.val fun p => { p with fecCw := satAdd 0xFFFFFFFF p.fecCw cw }
    (p.st = 0 → Answers o s b) ∧
    (p.st ≠ 0 → again = true → 7 ≤ p.run → Does o s fun b => down 2 (counts b)) ∧
    (p.st ≠ 0 → again = false ∨ p.run < 7 → Answers o s (sendFrame (modPort (counts b) n.val fun p =>
      { p with run := if again then p.run + 1 else 0, replay := satAdd 0xFFFFFFFF p.replay 1 }) (.replayed n.val)))) ∧
  (p.st = 0 → griandTrains b = true → ∃ t, exec (.portRetrainRetry n) s = .next t ∧ Reported s t b ∧ t.body.kpr.histCnt = b.kpr.histCnt + 1 ∧
    ∃ r, fget t.body.kpr.hist t.body.kpr.histHead = r ∧ r.utype = 7 ∧ r.unit = n.val ∧ r.kind = 8 ∧ r.pwrOn = s.env.pwrOn ∧ r.tick = s.clk.tick) ∧
  (p.st ≠ 0 ∨ griandTrains b = false → Answers (exec (.portRetrainRetry n) s) s b) ∧
  (p.st ≠ 0 → Answers (exec (.idleFlit n) s) s (sendFrame b (.idleFlit n.val))) ∧
  (p.st = 0 → Answers (exec (.idleFlit n) s) s b) ∧
  (∀ (len : Fin 21) (v : BitVec 20) (u : Nat), let o := exec (.discoveryRequest len v u) s
    let key := len.val * 2 ^ 20 + v.toNat
    let hears := clocksRun b = true ∧ ∃ m, m < 6 ∧ portUp b m = true
    let own := v.toNat = b.fab.addr ∧ b.fab.valid = true
    let heads := key ∈ planGroups b ∧ answersFor b key = true
    let ks := askKeys b 20 key
    (¬ hears → Answers o s b) ∧
    (hears → len = 20 → (own → Answers o s (sendFrame b (.descriptor u (descBytes (ownDesc b))))) ∧ (¬ own → Answers o s b)) ∧
    (hears → len ≠ 20 → (¬ heads → Answers o s b) ∧
      (heads → (∀ a ∈ b.fab.asks, a.waiting ≠ []) →
        (ks = [] → Answers o s (sendFrame b (.descriptor u (descBytes (aggDesc b 20 key))))) ∧
        (ks ≠ [] → Answers o s { b with fab := { b.fab with
          sent := b.fab.sent ++ ks.map (fun k => .query (k / 2 ^ 20) (k % 2 ^ 20)), asks := b.fab.asks ++ [⟨key, some u, ks⟩] } }))))

/-- R51, R73, R195, R219, R225, R230 to R235, R237, R252, R253: packets. A packet by a port that does not take it is nothing, one in Drizzle is
discarded; every other put or get has a receipt, and once only is taken for the live context of its job, refused at an address the context
may not take it at, or discarded where no context is live, or where it carries another version than the pinned one, which faults the
context; the frames of a job meet the same rules at the context they are for. A packet leaves when the port engine has tags and a port
carries its level, on another plane when it is sent again; a receipt ends retransmission, an eighth send without one faults the context; a
completion counts a far put's token down, or brings a far get's lines. -/
def Obligations.PacketsAndAcknowledgements : Prop := ∀ (s : State),
  let b := s.body
  let fab (f : FabSt → FabSt) : Body := { b with fab := f b.fab }
  (∀ (port : Option (Fin 6)) h (p : InPkt),
    let o := exec (.packetArrival port h p) s
    let takes := portTakes b port h.src = .yes
    let transfer := match p with | .descriptor _ _ _ => False | _ => True
    (portTakes b port h.src = .no → Answers o s b) ∧
    (portTakes b port h.src = .drop → Answers o s (fabDiscard b)) ∧
    (takes → transfer → (h.src, h.seq) ∈ b.fab.seen → Answers o s (fab fun f => { f with sent := f.sent ++ [.receipt h.src h.seq] })) ∧
    (takes → transfer → (h.src, h.seq) ∉ b.fab.seen → jobCtx b h.job = none → Answers o s (fabDiscard (receipted h b))) ∧
    (∀ slot c, takes → transfer → (h.src, h.seq) ∉ b.fab.seen → jobCtx b h.job = some (slot, c) →
      (jobLevel c ≠ (h.trn, h.col, h.ldg) → Does o s fun b => raise (fabDiscard (receipted h b)) (ctxFault slot 0x0B 8 h.trn)) ∧
      (jobLevel c = (h.trn, h.col, h.ldg) → packetItems b slot p = none → Does o s fun b =>
        queuePacket (receipted h b) slot 0 0 0 fun _ => .completion h.src h.seq true [] []) ∧
      (∀ r items, jobLevel c = (h.trn, h.col, h.ldg) → packetItems b slot p = some (r, items) → Answers o s { b with
        uid := b.uid + 1
        fab := { (receipted h b).fab with puts := b.fab.puts ++
          [{ src := h.src, seq := h.seq, slot := slot, uid := b.uid + 1, read := r, todo := items }] } })) ∧
    (∀ key d ms, takes → p = .descriptor key d ms →
      let c : Body := fab fun f => { f with group := fset f.group key (unitDescOf d ms) }
      Does o s (fun _ => askSettled s.env (queryDone s.env (unqueued c) key d) key) ∧
      ((∀ q ∈ b.host.queries, q.key ≠ key) → (∀ a ∈ b.fab.asks, key ∉ a.waiting ∧ a.waiting ≠ []) → Answers o s c))) ∧
  (∀ (slot : Fin 4096) (v : Via),
    (∀ n k peer set differ x y m, ∀ c ∈ ([.phaseReport ⟨v, slot⟩ n k peer ⟨set, differ⟩, .phaseAgreement ⟨v, slot⟩ n k ⟨set, differ⟩,
      .cumulusContribution ⟨v, slot⟩ x, .cumulusChunk ⟨v, slot⟩ y, .shadowMirrorLine ⟨v, slot⟩ m] : List Instr), NotTaken (exec c s) s slot v isLive) ∧
    (∀ n unit peer ok msg dg, ∀ c ∈ ([.buddyAck ⟨v, slot⟩ unit msg, .sealReportArrival ⟨v, slot⟩ n peer ok, .sealDecision ⟨v, slot⟩ n ok,
      .contrailDigest ⟨v, slot⟩ n dg, .contrailResult ⟨v, slot⟩ n ok] : List Instr), NotTaken (exec c s) s slot v isHeld) ∧
    (∀ m, let o := exec (.liningChunkReceive ⟨v, m⟩) s
      (portTakes b v.port v.hdr.src = .no → Answers o s b) ∧
      (portTakes b v.port v.hdr.src = .drop → Answers o s (fabDiscard b)) ∧
      (portTakes b v.port v.hdr.src = .yes → (v.hdr.src, v.hdr.seq) ∈ b.fab.seen → Answers o s (sendFrame b (.receipt v.hdr.src v.hdr.seq))))) ∧
  (∀ (c : Body) (q : OutPkt),
    let self := frameDst q.frame = some c.fab.addr
    let tags := if q.sends = 0 then frameTags q.frame else 0
    let cs := carriers c q.level
    let may := c.fab.tags + tags ≤ portTags ∧ ¬ (isTransfer q.frame = true ∧ shadowing c q.slot = true) ∧ (self ∨ cs ≠ [])
    (¬ may → sendOne c q = c) ∧
    (may → ∃ r, (self → r = none) ∧ (¬ self → ∃ n, r = some n ∧ n ∈ cs ∧ ∀ old, q.port = some old →
        (∃ m ∈ cs, planeOf m ≠ planeOf old) → planeOf n ≠ planeOf old) ∧
      let q' : OutPkt := { q with sends := q.sends + 1, held := false, port := r }
      sendOne c q = { c with free := (sendOne c q).free, fab := { c.fab with
        tags := c.fab.tags + tags
        out := if isKept q.frame then c.fab.out.map (fun x => if x.seq = q.seq then q' else x) else c.fab.out.filter (·.seq != q.seq)
        sent := c.fab.sent ++ [.packet r q.job q.level q.seq q.frame] } })) ∧
  (∀ seq, let mine (q : OutPkt) : Bool := q.seq == seq && decide (0 < q.sends) && ackTaken b q.frame
    Answers (exec (.receiptAck seq) s) s (fab fun f => { f with
      out := (f.out.filter fun q => !(mine q && !isTransfer q.frame)).map fun q =>
        if mine q then { q with receipt := true, held := false } else q })) ∧
  (∀ seq, let o := exec (.retransmitTimer seq) s
    let due := b.fab.out.find? (fun q => q.seq == seq && !q.receipt && !q.held && decide (0 < q.sends))
    let gone (q : OutPkt) (b : Body) : Body :=
      { b with fab := { b.fab with out := b.fab.out.filter (·.seq != seq), tags := b.fab.tags - frameTags q.frame } }
    (due = none → Answers o s b) ∧
    (∀ q, due = some q →
      (q.sends < 8 → Does o s fun b => sendHeld { b with fab := { b.fab with
        out := b.fab.out.map fun y => if y.seq = seq then { y with held := true } else y } }) ∧
      (8 ≤ q.sends → (∀ d j, q.frame ≠ .buddyAsk d j) → (∀ d j n k, q.frame ≠ .mirrorWant d j n k) →
        let here := if isTransfer q.frame then liveHandle s.env b q.slot q.handle = true else (ctxAt b q.slot).id.job = q.job
        (here → Does o s fun b => raise (gone q b) (ctxFault q.slot 0x0E 8 ((frameDst q.frame).getD 0))) ∧
        (¬ here → Answers o s (gone q b))) ∧
      (8 ≤ q.sends → ∀ d, (∃ j, q.frame = .buddyAsk d j) ∨ (∃ j n k, q.frame = .mirrorWant d j n k) →
        Does o s fun b => buddyLost s.env (gone q b) d))) ∧
  (∀ seq q refused d po, b.fab.out.find? (fun q => q.seq == seq && decide (0 < q.sends) && isTransfer q.frame && ackTaken b q.frame) = some q →
    (∀ dst sq u a x y k st, q.frame = .put dst sq u a x y → putPanel b q.uid = some (k, st) → (∀ z ∈ b.fab.out, z.uid = q.uid → z.seq = seq) →
      ∃ t, exec (.completionAck seq refused d po) s = .next t ∧ (∀ z ∈ t.body.fab.out, z.seq = seq → b.fab.seq < seq) ∧
        panelAt t.body k = ((panelAt b k).putStore q.uid none).endTransfer st.ins (if insLive s.env b st.ins then st.tok else 16) st.tags ∧
        (∀ j, j ≠ k → panelAt t.body j = panelAt b j) ∧
        (refused = true → liveHandle s.env b q.slot q.handle = true →
          (ctxAt t.body q.slot).far.farErr = satAdd 0xFFFFFFFF (ctxAt b q.slot).far.farErr 1) ∧
        (liveHandle s.env b q.slot q.handle = false → t.body.ctx.stale = b.ctx.stale + 1)) ∧
    (∀ dst sq u a x k, q.frame = .get dst sq u a x → loadPanel b q.uid = some k →
      ∃ t, exec (.completionAck seq refused d po) s = .next t ∧ (∀ z ∈ t.body.fab.out, z.seq = seq → b.fab.seq < seq) ∧
        (∀ j, j ≠ k → panelAt t.body j = panelAt b j) ∧
        panelAt t.body k = { panelAt b k with load := (panelAt b k).load.map fun x => if x.ins.uid = q.uid
          then { x with got := x.got ++ (gotList (q.key / 65536) (q.key % 65536) refused d po).map fun l => (l.1, lineOf l.2.1, l.2.2) }
          else x }))

/-- R234, R240 to R242: a report of a member below that is taken is held; once this member has reached the token and every member below has
reported the same set, its own report goes up, or at peer 0 the agreement is made; differing sets, seen here or heard of, fault the context
and are told above and below; an agreement from above makes its set active, ends the pending REDRAW of that token and goes down the tree. -/
def Obligations.PhaseAgreementMessages : Prop := ∀ (s : State) (slot : Fin 4096) (v : Via) (n k : Nat) (set : Option Nat) (differ : Bool),
  Arrives s slot.val v isLive →
  let b := s.body
  let c := ctxAt b slot.val
  let agree (set : Option Nat) (b : Body) : Body :=
    modCtx ((kidUnits b slot.val).foldl (fun b u => sendJob b slot.val (.phaseAgree u (stepNum c) k set false)) b) slot.val fun c =>
      { c with far := { c.far with
        active := set.getD c.far.active, agreed := c.far.agreed ++ [k]
        pend := match pendingSet c k with | some _ => none | none => c.far.pend } }
  let differs (b : Body) : Body :=
    let b := (kidUnits b slot.val).foldl (fun b u => sendJob b slot.val (.phaseAgree u (stepNum c) k none true)) b
    raise (match parentUnit s.body slot.val with | some u => sendJob b slot.val (.phase u (stepNum c) k none true) | none => b)
      (ctxFault slot.val 0x0C 0 0)
  (∀ peer, let o := exec (.phaseReport ⟨v, slot⟩ n k peer ⟨set, differ⟩) s
    let held (b : Body) : Body := modCtx b slot.val fun c => { c with far := { c.far with childReports := c.far.childReports ++ [⟨n, k, peer, set⟩] } }
    let reps := (c.far.childReports ++ [PhaseRep.mk n k peer set]).filter fun r => r.step == stepNum c && r.k == k
    let kids := if (ownPeer b c).isSome then phaseKids c ((ownPeer b c).getD 0) else []
    let all := ∀ q ∈ kids, ∃ r ∈ reps, r.peer = q
    (differ = true → Takes o s v differs) ∧
    (differ = false → k ∉ c.far.reached ∨ k ∈ c.far.agreed → Takes o s v held) ∧
    (differ = false → k ∈ c.far.reached → k ∉ c.far.agreed → (∃ r ∈ reps, r.set ≠ pendingSet c k) → Takes o s v fun b => differs (held b)) ∧
    (differ = false → k ∈ c.far.reached → k ∉ c.far.agreed → (∀ r ∈ reps, r.set = pendingSet c k) →
      (¬ all → Takes o s v held) ∧
      (all → (ownPeer b c).getD 0 = 0 → Takes o s v fun b => agree (pendingSet c k) (held b)) ∧
      (all → ∀ p, ownPeer b c = some (p + 1) →
        (∀ u, peerUnit c (p / 16) = some u → Takes o s v fun b => sendJob (held b) slot.val (.phase u (stepNum c) k (pendingSet c k) false)) ∧
        (peerUnit c (p / 16) = none → Takes o s v held)))) ∧
  (let o := exec (.phaseAgreement ⟨v, slot⟩ n k ⟨set, differ⟩) s
    let now := c.led.openStep = some n ∧ k ∈ c.far.reached ∧ k ∉ c.far.agreed
    (differ = true → Takes o s v differs) ∧ (differ = false → ¬ now → Takes o s v id) ∧ (differ = false → now → Takes o s v (agree set)))

/-- R244 to R250: Cumulus frames that are taken. A contribution is held for its owner, whose parameters and key it must carry; with the last, the
owner forms and sends its chunk; a chunk is written at each participant that has not written it, its digest lane checked, its events
counted, its poison reported; a leader mirrors it. -/
def Obligations.CumulusFrames : Prop := ∀ (s : State) (slot : Fin 4096) (v : Via), Arrives s slot.val v isLive →
  let b := s.body
  (∀ x : ContribIn, let o := exec (.cumulusContribution ⟨v, slot⟩ x) s
    let y : Contrib := ⟨slot.val, x.seq, x.rank, x.p, cumDecode x.p (x.data.length / x.p.inW) x.data x.scales, x.poison, x.sigma, x.key⟩
    let holds (b : Body) : Body := { b with fab := { b.fab with contrib := b.fab.contrib ++ [y] } }
    let r? := b.fab.red.find? fun r => r.slot == slot.val && r.seq == x.seq
    (r? = none → Takes o s v holds) ∧
    (∀ r, r? = some r →
      let xs := cumHeld (holds b) r
      let key := cumKey (ctxAt b slot.val) r.seq
      (y.p ≠ r.p → xs.length ≠ r.p.n → Takes o s v fun b => raise (holds b) { ctxFault slot.val 0x0D 9 0 with oper := 0x09 }) ∧
      (y.p = r.p → y.key = key → xs.length ≠ r.p.n → Takes o s v holds) ∧
      (y.p = r.p → y.key ≠ key → xs.length ≠ r.p.n → Takes o s v fun b => cumDisagree s.env (holds b) slot.val r.seq r.rank) ∧
      (y.p = r.p → y.key = key → xs.length = r.p.n → r.out = none → r.p.cnt r.rank ≠ 0 →
        let c := ctxAt b slot.val
        let k := r.p.cnt r.rank
        let seed := tileKey c.num.seed (BitVec.ofNat 64 (stepNum c)) 0x3000 (BitVec.ofNat 64 r.seq) (BitVec.ofNat 64 (r.rank * r.p.c * r.p.inW)) 0
        let po := (List.range k).map fun i => xs.any fun x => x.poison.getD i false
        let f := cumForm r.p c.num.mxIn seed k (xs.map (·.vals)) po
        let z : CumOut := { data := f.1, scales := f.2.1, poison := po, ev := f.2.2, digest := 0 }
        let z : CumOut := { z with digest := outDigest r.seq r.rank z }
        let us := if r.p.kind = 1 then [] else ((members c r.set r.p.first r.p.n).getD []).filter (· != b.fab.addr)
        Takes o s v fun b =>
          let b := if sumOk r.p.op xs then holds b else cumDisagree s.env (holds b) slot.val r.seq r.rank
          us.foldl (fun b u => sendJob b slot.val (.chunk u r.seq r.rank z))
            { b with fab := { b.fab with red := b.fab.red.map fun q => if q.slot = slot.val ∧ q.seq = r.seq then { q with out := some z } else q } }))) ∧
  (∀ x : ChunkIn, let o := exec (.cumulusChunk ⟨v, slot⟩ x) s
    let seen (b : Body) : Body := mirror b slot.val 3 x.seq x.chunk x.data (x.poison.any (· == true))
    let r? := b.fab.red.find? fun r => r.slot == slot.val && r.seq == x.seq
    (r? = none → Takes o s v seen) ∧
    (∀ r, r? = some r →
      (x.chunk ∈ r.done ∨ x.chunk ∉ r.due → Takes o s v seen) ∧
      (x.chunk = r.rank → shadowing b slot.val = false → r.out = none → Takes o s v seen) ∧
      (∀ y b2, x.chunk ∉ r.done → x.chunk ∈ r.due →
        (if x.chunk = r.rank ∧ shadowing b slot.val = false then r.out
         else some { data := x.data, scales := x.scales, poison := x.poison, ev := ⟨x.ovf, x.nan, x.unf, x.sat⟩, digest := x.digest }) = some y →
        let b0 := receipted v.hdr (unqueued b)
        let ps := outPieces b0 r x.chunk y
        (∀ z ∈ ps, segsHeld b0 z.1 = none) → putAll s.env slot.val ps b0 = some b2 →
        let bad := (ps.filter (·.2.2)).length
        let b3 : Body := { b2 with mem := { b2.mem with held := b2.mem.held.filter (· != (r.fly, x.chunk)) } }
        let b4 := if y.digest = outDigest x.seq x.chunk y then b3 else cumDisagree s.env b3 slot.val x.seq x.chunk
        let b5 := if bad = 0 then b4 else reportDirty b4 slot.val
        let b6 := modCtx b5 slot.val fun c => { c with num := c.num.count c.led.openStep.isSome s.clk.cyc none y.ev }
        Answers o s (settled s (seen { b6 with fab := { b6.fab with
          red := b6.fab.red.map fun q => if q.slot = slot.val ∧ q.seq = x.seq
            then { q with done := q.done ++ [x.chunk], poisoned := q.poisoned + bad } else q } })))))

/-- R24, R26, R225, R315, R316, R321, R322, R342, Tables 12-7, 12-8: heartbeats and Squall. Once a period a heartbeat goes to each module of the
send set on each plane that is up; one that arrives makes its plane heard again, with PEER_BACK after a loss, and ends shadowing with a
peer in DUSK or of no role; a plane with none for the limit is LOST, a peer with all planes lost SILENT, which ends shadowing with it and
what waits for it; a Squall frame resets the live context of its job and is relayed once; it is ignored and counted without one, or when
its origin is remembered. A module whose clocks are stopped sends and takes none. -/
def Obligations.HeartbeatsAndSqualls : Prop := ∀ (s : State),
  let b := s.body
  let fab (f : FabSt → FabSt) : Body := { b with fab := f b.fab }
  (clocksRun b = true → b.fab.hbTick + b.kpr.hbPeriod ≤ s.clk.tick.toNat → Answers (exec .heartbeatSend s) s (fab fun f => { f with
    sent := f.sent ++ (heartbeatSet b).flatMap (fun u => (upPlanes b).map fun q => .heartbeat u q s.env.pwrOn b.kpr.pwr.st.code f.outcome (ownRole b))
    hbTick := s.clk.tick.toNat
    beats := satAdd 255 f.beats 1
    watch := fmapVals f.watch fun _ w => { w with fresh := false } })) ∧
  (clocksRun b = false ∨ s.clk.tick.toNat < b.fab.hbTick + b.kpr.hbPeriod → Answers (exec .heartbeatSend s) s b) ∧
  (∀ x : HbIn, let o := exec (.heartbeatArrival x) s
    let w := fget b.fab.watch x.src
    let back := w.used = true ∧ (w.silent = true ∨ x.plane.val ∈ w.lost)
    let heard := clocksRun b = true ∧ x.plane.val ∈ upPlanes b
    let w' : Watch := {
      used := true, silent := false, lost := w.lost.erase x.plane.val, pwrOn := some x.pwrOn, power := x.power, outcome := x.outcome
      last := if w.used then fset w.last x.plane.val s.clk.tick.toNat else [0, 1, 2].foldl (fun m q => fset m q s.clk.tick.toNat) w.last
      fresh := w.fresh || (w.used && headOutcome w.outcome && !headOutcome x.outcome) }
    let ends (b : Body) : Body := if x.power = 2 then endWith s.env b x.src 3 else if x.role = 0 then endWith s.env b x.src 5 else b
    let noted (b : Body) : Body := { b with fab := { b.fab with watch := fset b.fab.watch x.src w' } }
    (¬ heard → Answers o s b) ∧
    (heard → ¬ back → Does o s fun b => ends (noted b)) ∧
    (heard → back → Does o s fun b =>
      ends (moduleEvent s.env (noted b) 0x06 0 (if w.pwrOn = some x.pwrOn then 0 else 1) 0 x.src 0))) ∧
  (∀ src (plane : Fin 3), let o := exec (.heartbeatMiss src plane) s
    let w := fget b.fab.watch src
    let due := w.used = true ∧ plane.val ∉ w.lost ∧ fget w.last plane.val + b.kpr.hbMiss * b.kpr.hbPeriod ≤ s.clk.tick.toNat
    let lost := w.lost ++ [plane.val]
    let seen (all : Bool) : Body := moduleEvent s.env (unqueued (fab fun f => { f with
      watch := fset f.watch src { w with lost := lost, silent := all, fresh := w.fresh || all } })) 0x04 0 ((lost.map fun q => 2 ^ q).sum) 0 src 0
    (¬ due → Answers o s b) ∧
    (due → lost.length ≠ 3 → Answers o s (settled s (seen false))) ∧
    (due → lost.length = 3 → Answers o s (settled s (buddyLost s.env (endWith s.env (askSettled s.env
      (moduleEvent s.env (seen true) 0x05 0 0 0 src 0) (20 * 2 ^ 20 + src)) src 2) src)))) ∧
  (∀ x : SquallIn, let o := exec (.squallReceive x) s
    let q := b.fab.squalls ++ [(x.origin, x.ohandle)]
    let kept (f : FabSt) : FabSt := { f with squalls := q.drop (q.length - 64) }
    let b1 := unqueued (fab kept)
    let hears := clocksRun b = true ∧ ((fget b.fab.port x.port.val).st = 1 ∨ (fget b.fab.port x.port.val).st = 2)
    (¬ hears → Answers o s b) ∧
    (hears → (x.origin, x.ohandle) ∈ b.fab.squalls ∨ jobCtx b x.job = none →
      Answers o s (fab fun f => { kept f with sqCnt := satAdd 0xFFFFFFFF f.sqCnt 1 })) ∧
    (∀ slot c, hears → (x.origin, x.ohandle) ∉ b.fab.squalls → jobCtx b x.job = some (slot, c) →
      let f := { ctxFault slot 0x11 8 x.cause with origin := some x.origin }
      (c.con.role ≠ 2 → Answers o s (settled s (raise ((relayUnits b slot).foldl (fun b u =>
        squallTo s.env b x.job x.origin x.ohandle x.cause x.step true x.pwrOn u) b1) f))) ∧
      (c.con.role = 2 → Answers o s (settled s (raise (endContrail s.env b1 slot 4) f)))))

/-- R15, R24, R212, R318, R319, R330, Table 12-15: the watchdogs. The first wait of a context over its limit, or a step without progress,
faults it; a die that is silent at two polls in a row enters stage 2, a silent H-die or a stopped module stage 3, each reset or only
reported as the controls say; a die-to-die frame is replayed, and a link that fails, or a clock that is lost, stops the module and faults
every live context. -/
def Obligations.WatchdogsAndRecovery : Prop := ∀ (s : State),
  let b := s.body
  let p := b.kpr.pwr
  let pins (c : Body) : Body := settled s (pinSync c)
  (∀ slot : Fin 4096,
    (limitWaits s.env b slot.val = [] → Answers (exec (.waitLimit slot) s) s b) ∧
    (∀ d lp th w l, limitWaits s.env b slot.val = (d, lp, th, w) :: l →
      Answers (exec (.waitLimit slot) s) s (settled s (raise (unqueued b)
        { slot := slot.val, cause := 0x0F, th := some (th, (physOf b d lp).getD 0, lp), die := some d, slotc := if w.on.isTags then 6 else 5
          baddr := some w.baddr, unit := 16, oper := (waitDetail w.on).1, origin := none
          detail := (waitDetail w.on).1 * 2 ^ 26 + (waitDetail w.on).2 })))) ∧
  (∀ slot : Fin 4096, let c := ctxAt b slot.val
    let late := c.id.st = .live ∧ ∃ t, c.plumb.startTick = some t ∧ t.toNat + c.plumb.limit ≤ s.clk.tick.toNat
    (late → Answers (exec (.stepLimit slot) s) s (settled s (raise (unqueued b) (ctxFault slot.val 0x10 16 0)))) ∧
    (¬ late → Answers (exec (.stepLimit slot) s) s b)) ∧
  (∀ (silent : List (Fin 4)) (hub : Bool), let o := exec (.keeperPoll silent hub) s
    let polls := p.off = false ∧ p.hold = 0 ∧ p.st ≠ .night
    (¬ polls → Answers o s b) ∧
    (polls → hub = true ∨ p.stopped = true →
      (b.kpr.stage = 3 → Answers o s b) ∧
      (b.kpr.stage ≠ 3 → b.kpr.noAutoMod = false → Answers o s (pins (moduleReset s.env (setStage (unqueued b) 3) true))) ∧
      (b.kpr.stage = 4 → b.kpr.noAutoMod = true → Answers o s b) ∧
      (b.kpr.stage ≠ 3 → b.kpr.stage ≠ 4 → b.kpr.noAutoMod = true → Answers o s (moduleEvent s.env (setStage b 4) 0x08 2 3 0 0 0))) ∧
    (polls → hub = false → p.stopped = false → b.kpr.start.phase = 0 → p.st ≠ .dusk →
      ((∀ d ∈ silent, (fget b.die d.val).inReset = false → (fget b.die d.val).noAnswer ≠ 1) →
        ∃ t, o = .next t ∧ Leaves s t { b with die := t.body.die } ∧
        ∀ d : Fin 4, fget t.body.die d.val = if (fget b.die d.val).inReset then fget b.die d.val else
          { fget b.die d.val with noAnswer := if d ∈ silent then min ((fget b.die d.val).noAnswer + 1) 3 else 0 }) ∧
      (∀ d ∈ silent, (fget b.die d.val).inReset = false → (fget b.die d.val).noAnswer = 1 → (∀ x ∈ silent, x = d) →
        ∃ t, o = .next t ∧ (b.kpr.noAutoDie = false → (fget t.body.die d.val).inReset = true) ∧
          (b.kpr.noAutoDie = true → Reported s t { b with die := t.body.die } ∧ (fget t.body.die d.val).noAnswer = 2 ∧
            (b.kpr.ev.length < 64 → ∃ x ∈ t.body.kpr.ev, x.kind = 7 ∧ x.cause = 2 ∧ x.detail = d.val))))) ∧
  (∀ slot : Fin 4096, let id := (ctxAt b slot.val).id
    let due := id.resetting = true ∧ id.resetTick.toNat + 1000 * b.kpr.ctxto ≤ s.clk.tick.toNat
    (due → Answers (exec (.contextResetTimeout slot) s) s (pins (((id.scrubs.map (· / 9)).eraseDups).foldl (stageDie s.env) (unqueued b)))) ∧
    (¬ due → Answers (exec (.contextResetTimeout slot) s) s b)) ∧
  (∀ (n : Fin 16) (again : Bool), let x := fget b.mem.d2d n.val
    let o := exec (.d2dCrcFail n again) s
    (x.up = false → Answers o s b) ∧
    (x.up = true → again = false ∨ x.run < 7 → Answers o s (d2dSet b n.val fun x =>
      { x with run := if again then x.run + 1 else 0, replay := satAdd 0xFFFFFFFF x.replay 1 })) ∧
    (x.up = true → again = true → 7 ≤ x.run →
      let down (x : D2d) : D2d := { x with up := false, run := 0 }
      Answers o s (pins (modPwr (faultAll (d2dSet (d2dSet (unqueued b) n.val down) (otherEnd n.val) down) 0x02 14) fun p =>
        { p with stopped := true })))) ∧
  (let run := p.off = false ∧ p.hold = 0 ∧ p.st ≠ .night ∧ p.unlocked = false;
    (run → Answers (exec .zenithLockLoss s) s (pins (modPwr (faultAll (unqueued b) 0x01 13) fun p =>
      { p with unlocked := true, clocksOff := true, stopped := true }))) ∧
    (¬ run → Answers (exec .zenithLockLoss s) s b))

/-- R334, R338, R345, R360, R361, R376, R386, R389 to R391: sensors, swatches and the operating hour. A reading is taken into its registers,
moves the throttle steps and flags, and a value at its critical level sends the module to NIGHT; FAST holds for at least 1 ms; an open
mate loop puts every port DOWN; a spare or idle panel runs its next swatch when its scaffold is free, and an end is recorded; each
operating hour is counted and its measurements are kept. -/
def Obligations.SensorsAndSwatches : Prop := ∀ (s : State),
  let b := s.body
  (∀ x : Sensors, b.kpr.pwr.off = false → b.kpr.start.phase = 0 →
    let c := modBrd (takeSensors b x) coolFlags
    ((∀ v ∈ critValues c, v.1 < v.2.2) → b.brd.crit = false →
      Answers (exec (.sensorReading x) s) s (thrTimeUp ((List.range 4).foldl dieCauses c))) ∧
    ((∃ v ∈ critValues c, v.2.2 ≤ v.1) → b.brd.crit = false → b.kpr.pwr.hold = 0 → b.kpr.pwr.st ≠ .night →
      ∃ t, exec (.sensorReading x) s = .next t ∧ t.body.brd.crit = true ∧ t.body.kpr.pwr.st = .night)) ∧
  (∀ x : Sensors, let r := (takeSensors b x).brd
    r.inlet = x.inlet ∧ r.outlet = x.outlet ∧ (∀ d v, x.dies[d]? = some v → fget r.dieTemp d = v) ∧
    (∀ n, n < 11 → (fget r.railBad n = true ↔ n ∈ x.bad)) ∧ r.power % 65536 = min x.power 65535 ∧
    r.volt = x.volt % 65536 * 65536 + x.cur % 65536) ∧
  (b.kpr.pwr.off = false → Answers (exec .fast s) s { b with brd := { b.brd with fast := true, fastTick := s.clk.tick } }) ∧
  (b.brd.fast = true → b.brd.fastTick.toNat + 1000 ≤ s.clk.tick.toNat → Answers (exec .fastExpiry s) s { b with brd := { b.brd with fast := false } }) ∧
  (b.brd.fast = false ∨ s.clk.tick.toNat < b.brd.fastTick.toNat + 1000 → Answers (exec .fastExpiry s) s b) ∧
  Answers (exec (.mateLoopChange true) s) s { b with brd := { b.brd with mateOpen := false } } ∧
  (∃ t, exec (.mateLoopChange false) s = .next t ∧ Leaves s t { b with brd := { b.brd with mateOpen := true }, fab := t.body.fab } ∧
    ∀ n, n < 6 → (fget t.body.fab.port n).st = 0 ∧ (fget t.body.fab.port n).cause = 1) ∧
  (∀ q : PhysRef, let k := pkey q.die.val q.pp.val
    let p := panelAt b k
    let runs (t : State) : Prop :=
      (∀ n, swatchNext b p = some n → swSigned b (fget b.kpr.swatch n).bytes = true →
        fget t.body.kpr.running k = some ⟨some n, 0, none, s.clk.tick.toNat⟩ ∧ holds t.body (grpKey 2 k) 8 false = true) ∧
      (∀ n, swatchNext b p = some n → swSigned b (fget b.kpr.swatch n).bytes = false →
        fget t.body.kpr.running k = none ∧ (fget t.body.kpr.swatch n).valid = false) ∧
      (swatchNext b p = none → fget t.body.kpr.running k = some ⟨none, 0, none, s.clk.tick.toNat⟩ ∧ holds t.body (grpKey 2 k) 8 false = true)
    (b.kpr.pwr.st = .clear → fget b.kpr.running k = none → panelOwned p = false → blocker b (grpKey 2 k) 8 = none →
      (p.st = .spare ∨ p.st = .standby → ∃ t, exec (.spareSwatch q) s = .next t ∧ runs t) ∧
      (p.st = .active → p.ownedAt + 1000000 ≤ s.clk.tick.toNat → ∃ t, exec (.idleSwatch q) s = .next t ∧ runs t)) ∧
    (∀ r, fget b.kpr.running k = some r → b.kpr.ev.length < 63 →
      let ended (t : State) (res : Nat) : Prop :=
        fget t.body.kpr.running k = none ∧ holds t.body (grpKey 2 k) 8 false = false ∧
        (panelAt t.body k = { p with dirtySwatch := if res = 0 then false else if res = 1 then true else p.dirtySwatch }) ∧
        t.body.kpr.histCnt = b.kpr.histCnt + (if res = 3 then 0 else 1) ∧
        ∃ x ∈ t.body.kpr.ev, x.kind = 0x0A ∧ x.cause = res ∧ x.detail = r.slot.getD 16
      (bandMissed s.env b k r = true → ∃ t, exec (.swatchBandMiss q) s = .next t ∧ ended t 2) ∧
      (bandMissed s.env b k r = false → Answers (exec (.swatchBandMiss q) s) s b) ∧
      (∀ w, ∃ t, exec (.swatchResult q w) s = .next t ∧ ended t (swCode w)))) ∧
  (∀ xs : List WvIn, b.kpr.pwr.hold = 0 → b.kpr.pwr.st ≠ .night → b.kpr.pwr.off = false →
    ∃ t, exec (.operatingHour xs) s = .next t ∧ Reported s t { b with kpr := { b.kpr with wv := t.body.kpr.wv } } ∧
      t.body.kpr.wv.hours = b.kpr.wv.hours + 1 ∧ t.body.kpr.wv.temps = (tempsNow b :: b.kpr.wv.temps).take 100 ∧
      ∀ x ∈ xs, x.qty = 0 ∨ x.qty = 4 ∨ x.qty = 2 ∧ (b.kpr.wv.hours + 1) % 100 = 0 →
        blocker b (grpKey (wvGroup x.qty x.unit).1 (wvGroup x.qty x.unit).2) 7 = none →
        ∃ y ∈ t.body.kpr.wv.samples, y.qty = x.qty ∧ y.unit = x.unit ∧ y.hour = b.kpr.wv.hours + 1 ∧ y.m = x.m)

/-- R253, R343 to R347, Tables 13-1, 13-2: power states. A request takes its fields; it is ignored while a transition or a start runs, refused
in HOLD, in the state it asks for and where Table 13-2 refuses it; else the transition begins: HAZE once the module is quiet, DUSK with
every C-die in reset and every port in Drizzle, NIGHT with all but the keeper off, CLEAR by leaving HAZE, by die resets or by a module
reset; a transition that completes is no longer busy. -/
def Obligations.PowerTransitions : Prop := ∀ (s : State),
  let b := s.body
  let p := b.kpr.pwr
  (∀ (w : BitVec 32) (c : Instr) (n : Nat),
    (c, n) ∈ [(Instr.powerRequestClear w, 0), (.powerRequestHaze w, 1), (.powerRequestDusk w, 2), (.powerRequestNight w, 3)] →
    let b1 := pwrFields b (reqWord w n)
    let q := b1.kpr.pwr
    let result (r : Nat) : Prop := Answers (exec c s) s (setResult b1 r)
    let may := p.off = false ∧ p.busy = false ∧ p.hold = 0 ∧ b.kpr.start.phase = 0 ∧ p.st.code ≠ n
    (p.off = true → Answers (exec c s) s b) ∧
    (p.off = false → p.busy = true ∨ p.hold = 0 ∧ b.kpr.start.phase ≠ 0 → Answers (exec c s) s b1) ∧
    (p.off = false → p.busy = false → p.hold ≠ 0 → result 4) ∧
    (p.off = false → p.busy = false → p.hold = 0 → b.kpr.start.phase = 0 → p.st.code = n → result 5) ∧
    (may → n = 0 →
      (p.st = .haze → Answers (exec (.powerRequestClear w) s) s (modPwr b1 fun q =>
        { q with st := .clear, lastIssue := s.clk.tick, was := some .haze, busy := true, goal := 0, result := 0 })) ∧
      (p.st = .dusk → ∃ t, exec (.powerRequestClear w) s = .next t ∧ Leaves s t { b1 with
        die := t.body.die, kpr := { b1.kpr with pwr := { q with busy := true, goal := 0, result := 0 } } }) ∧
      (p.st = .night → b.brd.crit = true → Answers (exec (.powerRequestClear w) s) s (modPwr b1 fun q => { q with busy := true, goal := 0, result := 0 })) ∧
      (p.st = .night → b.brd.crit = false → ∃ t, exec (.powerRequestClear w) s = .next t ∧ t.body.kpr.start.phase = 2 ∧ t.body.kpr.pwr.busy = true ∧
        t.body.kpr.pwr.goal = 0 ∧ t.body.ctx.slot = [] ∧ t.body.mem.bytes = [])) ∧
    (may → n = 1 →
      (p.st ≠ .clear → Answers (exec (.powerRequestHaze w) s) s b1) ∧ (p.st = .clear → hostHolds b = true → result 3) ∧
      (p.st = .clear → hostHolds b = false → quiet s.env b = false → Answers (exec (.powerRequestHaze w) s) s (modPwr b1 fun q =>
        { q with busy := true, goal := 1, result := 0, hazeWait := true })) ∧
      (p.st = .clear → hostHolds b = false → quiet s.env b = true → ∃ t, exec (.powerRequestHaze w) s = .next t ∧ t.body.kpr.pwr =
        { q with st := .haze, was := some .clear, busy := true, goal := 1, result := 0, hazeWait := false })) ∧
    (may → n = 2 → p.st ≠ .night →
      (powerRefusal b1 2 q.force ≠ 0 → result (powerRefusal b1 2 q.force)) ∧
      (powerRefusal b1 2 q.force = 0 → ∃ t, exec (.powerRequestDusk w) s = .next t ∧ t.body.kpr.pwr =
          { q with st := .dusk, was := some p.st, busy := true, goal := 2, result := 0 } ∧
        (∀ d : Fin 4, (fget t.body.die d.val).inReset = true) ∧
        (∀ j, (fget b.fab.port j).st ≠ 0 → (fget t.body.fab.port j).drz = true))) ∧
    (may → n = 3 →
      (powerRefusal b1 3 q.force ≠ 0 → result (powerRefusal b1 3 q.force)) ∧
      (powerRefusal b1 3 q.force = 0 → ∃ t, exec (.powerRequestNight w) s = .next t ∧ t.body.kpr.pwr =
          { q with st := .night, was := some p.st, busy := true, goal := 3, result := 0, hazeWait := false, clocksOff := true, unlocked := true } ∧
        t.body.ctx.slot = [] ∧ t.body.mem.bytes = []))) ∧
  (let o := exec .powerTransitionComplete s
    let runs := p.busy = true ∧ p.off = false ∧ p.hold = 0 ∧ b.kpr.start.phase = 0
    let done := modPwr b fun p => { p with busy := false, was := none }
    (¬ runs → Answers o s b) ∧
    (runs → 2 ≤ p.goal → Answers o s done) ∧
    (runs → p.goal = 0 → (p.st = .clear ∨ p.st = .haze → Answers o s done) ∧ (p.st = .night → Answers o s b) ∧
      (p.st = .dusk → (∃ d ∈ b.die, d.2.inReset = true) → Answers o s b) ∧
      (p.st = .dusk → (∀ d ∈ b.die, d.2.inReset = false) → ∃ t, o = .next t ∧ Leaves s t { b with
        fab := t.body.fab, kpr := { b.kpr with pwr := { p with st := .clear, busy := false, was := none, lastIssue := s.clk.tick } } })) ∧
    (runs → p.goal = 1 → (p.hazeWait = false → Answers o s done) ∧ (p.hazeWait = true → quiet s.env b = false → Answers o s b) ∧
      (p.hazeWait = true → quiet s.env b = true → ∃ t, o = .next t ∧ t.body.kpr.pwr = { p with st := .haze, busy := false, was := none, hazeWait := false }))) ∧
  (let due := p.off = false ∧ p.busy = false ∧ p.hold = 0 ∧ b.kpr.start.phase = 0 ∧ p.st = .clear ∧ p.noAuto = false ∧
      p.lastIssue.toNat + p.idle ≤ s.clk.tick.toNat ∧ quiet s.env b = true;
    (due → ∃ t, exec .autoHaze s = .next t ∧ t.body.kpr.pwr = { p with st := .haze, was := some .clear, busy := true, goal := 1, hazeWait := false }) ∧
    (¬ due → Answers (exec .autoHaze s) s b))

/-- R8 to R17, R348, R351 to R356, R369, Tables 13-6, 13-7: a start and a die reset. Each phase ends in the next when what it waits for is
there, and in HOLD, with its cause and detail, when it fails: straps, links, the test window and the test itself, the clock, firmware. -/
def Obligations.StartSequence : Prop := ∀ (s : State),
  let b := s.body
  let p := b.kpr.pwr
  let ph := b.kpr.start.phase
  let on := p.off = false ∧ p.hold = 0
  let held (o : Out) (cause detail : Nat) : Prop := ∃ t, o = .next t ∧ t.body.kpr.pwr.hold = cause ∧ t.body.kpr.pwr.holdDetail = detail ∧
    t.body.kpr.pwr.busy = false ∧ t.body.kpr.pwr.clocksOff = true ∧ (b.kpr.i3c.evOff = false → (0xA0 + cause, 0) ∈ t.body.kpr.i3c.ibis)
  let phase (o : Out) (n : Nat) : Prop := ∃ t, o = .next t ∧ t.body.kpr.start.phase = n ∧ t.body.kpr.pwr.hold = 0
  (on → ph = 2 → b.brd.perst = false → windowOk (modPwr b fun q => { q with unlocked := false }) = true → phase (exec .zenithLock s) 4) ∧
  (on → ph = 2 → p.unlocked = true → b.brd.perst = false → held (exec .zenithLockTimeout s) 4 0) ∧
  (on → ph = 3 → p.stopped = false → windowOk b = true → ∀ x, phase (exec (.startPhaseComplete x) s) 4) ∧
  (∀ x : PhaseOut, let o := exec (.startPhaseComplete x) s
    (on → ph = 4 → p.stopped = false →
      ((∀ d : Fin 4, ∃ y, x.straps[d.val]? = some y ∧ y.side = true ∧ strapCause d.val y = 0) → (∀ l ∈ x.links, linkBad b l = false) →
        ∃ t, o = .next t ∧ t.body.kpr.start.phase = 5 ∧ ∀ d : Fin 4, (fget t.body.die d.val).inReset = false ∧ (fget t.body.die d.val).pos = d.val) ∧
      (∀ d y, d < 4 → x.straps[d]? = some y → y.side = true → strapCause d y ≠ 0 →
        (∀ e z, e < d → x.straps[e]? = some z → z.side = true → strapCause e z = 0) → held o 1 d) ∧
      (∀ l, (∀ d : Fin 4, ∃ y, x.straps[d.val]? = some y ∧ y.side = true ∧ strapCause d.val y = 0) → x.links.find? (linkBad b) = some l →
        held o 2 (portDie l.port.val)) ∧
      (∀ d, d < 4 → (∀ y, x.straps[d]? = some y → y.side = false) →
        (∀ e, e < d → ∃ z, x.straps[e]? = some z ∧ z.side = true) → (∀ e z, e < 4 → x.straps[e]? = some z → z.side = true → strapCause e z = 0) →
        held o 2 d)) ∧
    (on → ph = 6 → p.stopped = false → phase o 8) ∧
    (on → ph = 8 → p.stopped = false → ∃ t, o = .next t ∧ t.body.kpr.start.phase = 0 ∧ t.body.kpr.pwr.st = .clear ∧ t.body.kpr.pwr.busy = false ∧
      ∀ n, n < 6 → (fget b.fab.port n).hello = true → (fget t.body.fab.port n).st = 0 ∧ (fget t.body.fab.port n).cause = 1)) ∧
  (on → ph = 5 → p.stopped = false → let full := b.kpr.start.full;
    (∃ t, exec (.startTestDone .pass) s = .next t ∧ t.body.kpr.start.phase = 6 ∧ t.body.kpr.start.lastRes = 1 ∧
      (full = true → t.body.kpr.start.newestFull = 1 ∧ t.body.kpr.start.newestHours = b.kpr.wv.hours)) ∧
    (∀ us d, held (exec (.startTestDone (.fail us d)) s) 5 d.val) ∧ held (exec (.startTestDone .fuse) s) 8 0 ∧
    (∀ c r, held (exec (.startTestDone (.refused c r)) s) 6 ((r.map (·.val)).getD 15) ∧
      held (exec (.bistWindowLost c r) s) 6 ((r.map (·.val)).getD 15))) ∧
  (∀ c r, on → ph = 3 → held (exec (.bistWindowTimeout c r) s) 6 ((r.map (·.val)).getD 15)) ∧
  (on → ph = 1 → let f := b.kpr.fw;
    (f.bootFail < 2 → Answers (exec .bootAttemptTimeout s) s (modFw b fun f => { f with bootFail := f.bootFail + 1 })) ∧
    (2 ≤ f.bootFail → f.attempts = 0 → bootable b (1 - f.active) = true →
      Answers (exec .bootAttemptTimeout s) s (modFw b fun f => { f with active := 1 - f.active, bootFail := 0, attempts := 1 })) ∧
    (2 ≤ f.bootFail → f.attempts ≠ 0 ∨ bootable b (1 - f.active) = false → held (exec .bootAttemptTimeout s) 7 0) ∧
    (f.act ≠ 2 → bootable b f.active = true → ∃ t, exec .keeperReady s = .next t ∧ 2 ≤ t.body.kpr.start.phase ∧ t.body.kpr.fw.bootFail = 0 ∧
      t.body.kpr.fw.attempts = 0)) ∧
  (∀ (d : Fin 4) (x : StrapRead) (ls : List LinkTrain), dieEnds b d.val = true →
    (x.side = true → strapCause d.val x = 0 → ls.any (linkBad b) = false → ∃ t, exec (.dieResetComplete d true x ls) s = .next t ∧
      (let y := fget t.body.die d.val; y.inReset = false ∧ y.pos = d.val ∧ y.orient = d.val ∧ y.npl = nplOf b ∧ y.noAnswer = 0)) ∧
    (x.side = true → strapCause d.val x ≠ 0 → held (exec (.dieResetComplete d true x ls) s) 1 d.val) ∧
    (x.side = false ∨ strapCause d.val x = 0 ∧ ls.any (linkBad b) = true → held (exec (.dieResetComplete d true x ls) s) 2 d.val) ∧
    (b.kpr.stage ≠ 3 → b.kpr.noAutoMod = false → ∃ t, exec (.dieResetComplete d false x ls) s = .next t ∧ t.body.kpr.start.phase = 2 ∧
      t.body.kpr.stage = 3 ∧ t.body.ctx.slot = []))

/-- R3, R278, R348, R374, R375, R379, R382, R384, R392, Table 13-5: power and pins. A power-on reset advances the power-on count and starts the clock and
phase 1; power that is lost is recorded with its cause and rail, and contexts and memory are gone; PERST_N resets the module in CLEAR, HAZE
and DUSK; a function-level reset destroys every context and stops what the host has started. -/
def Obligations.PowerAndPins : Prop := ∀ (s : State),
  let b := s.body
  let p := b.kpr.pwr
  let fresh (t : State) (straps : Nat) : Prop := t.pwrOn = s.pwrOn + 1 ∧ t.clk = ⟨0, 0, 0⟩ ∧ t.body.kpr.start.phase = 1 ∧ t.body.kpr.pwr.off = false ∧
    t.body.kpr.pwr.hold = 0 ∧ t.body.ctx.slot = [] ∧ t.body.mem.bytes = [] ∧ t.body.host.bytes = b.host.bytes ∧ t.body.brd.slotId = straps ∧
    t.body.fab.plan = none ∧ t.body.kpr.i3c.dyn = none ∧ t.body.kpr.fuse.identity = b.kpr.fuse.identity ∧ t.body.kpr.hist = b.kpr.hist ∧
    t.pending = s.pending
  let lost (o : Out) (cause : Nat) (rail : Option Nat) (pins : Brd → Prop) : Prop := ∃ t, o = .next t ∧ t.body.kpr.pwr.off = true ∧
    t.body.brd.lastOffCause = cause ∧ t.body.brd.lastOffRail = rail ∧ t.body.brd.fast = false ∧ t.body.brd.pwrgd = false ∧ t.body.brd.alertN = false ∧
    t.body.ctx.slot = [] ∧ t.body.mem.bytes = [] ∧ pins t.body.brd
  (∀ straps : Fin 16, ∃ t, exec (.powerOnReset straps) s = .next t ∧ fresh t straps.val) ∧
  (b.brd.ovHold = true → ∃ t, exec .overvoltageRestart s = .next t ∧ fresh t b.brd.slotId) ∧
  (b.brd.ovHold = false → exec .overvoltageRestart s = .next s) ∧
  (p.off = false →
    lost (exec .inputUndervoltage s) (if b.kpr.start.offOk then 5 else 1) none (fun r =>
      r.inputOn = false ∧ r.faultN = false ∧ r.thermTrip = false) ∧
    lost (exec .inputOvervoltage s) 2 none (fun r => r.inputOn = false ∧ r.ovHold = true) ∧
    lost (exec .prsntNOpen s) 6 none (fun r => r.inputOn = false ∧ r.prsntOpen = true ∧ r.faultN = false ∧ r.thermTrip = false) ∧
    lost (exec .thermalTrip s) 4 none (fun r => r.thermTrip = true) ∧
    (∀ n : Fin 11, n.val ∈ poweredRails b → n.val ≠ 10 → lost (exec (.railFault n) s) 3 (some n.val) (fun r => r.faultN = true)) ∧
    (10 ∈ poweredRails b → lost (exec (.railFault 10) s) b.brd.lastOffCause b.brd.lastOffRail (fun r => r.faultN = b.brd.faultN)) ∧
    (∀ n : Fin 11, n.val ∉ poweredRails b → Answers (exec (.railFault n) s) s b)) ∧
  (p.off = true → Answers (exec .thermalTrip s) s b ∧ ∀ n : Fin 11, Answers (exec (.railFault n) s) s b) ∧
  (let resets := p.off = false ∧ p.hold = 0 ∧ p.st ≠ .night ∧ b.kpr.start.phase ≠ 1;
    (resets → ∃ t, exec .perstNAssert s = .next t ∧ t.body.brd.perst = true ∧ t.body.kpr.start.phase = 2 ∧ t.body.ctx.slot = [] ∧
      t.body.fab.plan = b.fab.plan ∧ t.body.mem.bytes = b.mem.bytes ∧ t.pwrOn = s.pwrOn) ∧
    (¬ resets → Answers (exec .perstNAssert s) s { b with brd := { b.brd with perst := true } })) ∧
  (b.kpr.start.phase ≠ 2 → b.kpr.start.phase ≠ 3 → Answers (exec .perstNDeassert s) s { b with brd := { b.brd with perst := false } }) ∧
  (b.kpr.start.phase = 2 → p.hold = 0 → p.unlocked = false → ∃ t, exec .perstNDeassert s = .next t ∧ t.body.brd.perst = false ∧
    3 ≤ t.body.kpr.start.phase ∧ t.body.kpr.pwr.clocksOff = false) ∧
  (∃ t, exec .functionLevelReset s = .next t ∧ (∀ n ∈ liveSlots b, (ctxAt t.body n).id.st = .free) ∧ t.body.host.ar = default ∧ t.body.host.dbDrop = 0 ∧
    t.body.dir.badAcc = 0 ∧ (∀ h ∈ t.body.host.holders, h.host = false) ∧ t.body.host.queries = [] ∧ t.body.host.master = false ∧ t.body.host.vpend = [])

/-- R223, R337, R348, R354, R355, R362, R368 to R371, Tables 13-13, 13-14: the keeper mailbox and firmware. An operation that may start takes its
arguments from the mailbox and ends with a status of Table 13-14; an armed activation takes place at a context-free point, is over at its
timeout, and is undone when the new image does not come up. -/
def Obligations.MailboxAndFirmware : Prop := ∀ (s : State),
  let b := s.body
  let k := b.kpr
  let go := k.mbox.busy = false ∧ k.pwr.off = false ∧ k.pwr.hold = 0 ∧ k.start.phase ≠ 1
  let asked (op tgt : Nat) : Body := modMbox b fun m => { m with op := op, tgt := tgt, status := 0 }
  let ends (o : Out) (op tgt status : Nat) (f : Body → Body) : Prop := Answers o s (mbEnd (f (asked op tgt)) status)
  (∀ c op tgt, (c, op, tgt) ∈ [(Instr.planLoad, 1, 0), (.fwActivate, 4, 0), (.opkeyFuse, 5, 0), (.fwminFuse, 6, 0), (.sealArm, 7, 0), (.sealBlow, 8, 0),
      (.mailboxResetModule, 9, 0)] →
    (k.mbox.busy = true ∨ k.pwr.off = true ∨ k.start.phase = 1 ∧ k.pwr.hold = 0 → Answers (exec c s) s b) ∧
    (k.mbox.busy = false → k.pwr.off = false → k.pwr.hold ≠ 0 → op ≠ 9 → ends (exec c s) op tgt 4 id)) ∧
  (go →
    (∃ t, exec .planLoad s = .next t ∧ t.body.fab.plan = some (mbWindow b 304) ∧ t.body.kpr.mbox.status = 0 ∧ t.body.kpr.mbox.busy = false ∧
      ∀ n, n < 6 → (fget b.fab.port n).st ≠ 0 → (fget t.body.fab.port n).hello = true ∧
        ∃ tags, .hello n k.fuse.identity (ownDesc b).proto ((mbWindow b 304).take 32) tags ∈ t.body.fab.sent) ∧
    (∀ tg : BitVec 8, let off := 1024 * fld k.mbox.arg.toNat 31 11
      let n := fld k.mbox.arg.toNat 10 0
      let whole := 0 < n ∧ n ≤ 1024
      (¬ whole ∨ imgTgt tg.toNat = none → ends (exec (.imgChunk tg) s) 2 tg.toNat 1 id) ∧
      (whole → tg.toNat = 0 → ends (exec (.imgChunk tg) s) 2 0 0 fun b => modFw b fun f => { f with
        slot := fmod f.slot (1 - f.active) fun x => { x with bytes := flashPut x.bytes off (mbWindow b n), valid := false } }) ∧
      (∀ i, i < 16 → whole → tg.toNat = 0x10 + i → off + n ≤ 262144 → ends (exec (.imgChunk tg) s) 2 tg.toNat 0 fun b => { b with kpr := { b.kpr with
        swatch := fmod b.kpr.swatch i fun x => { x with bytes := flashPut x.bytes off (mbWindow b n), valid := false } } })) ∧
    (∀ i, i < 16 → ∀ tg : BitVec 8, tg.toNat = 0x10 + i → let d := (fget k.swatch i).bytes
      ∃ t, exec (.imgCommit tg) s = .next t ∧ t.body.kpr.mbox.busy = false ∧
        t.body.kpr.mbox.status = (if swWhole d = true ∧ swSigned b d = true then (if swOld b i d then 3 else 0) else 2) ∧
        (fget t.body.kpr.swatch i).valid = decide (t.body.kpr.mbox.status = 0)) ∧
    (let d := (fget k.fw.slot (1 - k.fw.active)).bytes;
      ∃ t, exec (.imgCommit 0) s = .next t ∧ t.body.kpr.mbox.busy = false ∧
        t.body.kpr.mbox.status = (if imageOkFw d then (if bytesAt d 8 1 < k.fuse.fwmin then 3 else 0) else 2) ∧
        (fget t.body.kpr.fw.slot (1 - k.fw.active)).valid = decide (t.body.kpr.mbox.status = 0)) ∧
    ((blocker b (grpKey 0 0) 9).isSome = true → ends (exec .fwActivate s) 4 0 8 id) ∧
    (blocker b (grpKey 0 0) 9 = none → fwRefusal b ≠ 0 → ends (exec .fwActivate s) 4 0 (fwRefusal b) id) ∧
    (fwRefusal b = 0 → blocker b (grpKey 0 0) 9 = none → ∃ t, exec .fwActivate s = .next t ∧ t.body.kpr.fw.act = 1 ∧ t.body.kpr.mbox.busy = true ∧
      holds t.body (grpKey 0 0) 9 true = true ∧
      t.body.kpr.fw.armUntil = some (s.clk.tick + BitVec.ofNat 64 (1000 * (k.mbox.arg.toNat % 65536)))) ∧
    (fuseable b = false → ends (exec .opkeyFuse s) 5 0 4 id ∧ ends (exec .fwminFuse s) 6 0 4 id) ∧
    (fuseable b = true → ends (exec .opkeyFuse s) 5 0 0 (fun b => modFuse b fun f => { f with opkey := f.opkey.or (some (mbWindow b 48)) }) ∧
      ends (exec .fwminFuse s) 6 0 0 fun b => modFuse b fun f => { f with fwmin := max f.fwmin (fget b.kpr.fw.slot b.kpr.fw.active).svn }) ∧
    (k.mbox.arg = 0x5EA1 → ends (exec .sealArm s) 7 0 0 fun b => modFuse b fun f => { f with armed := true, armTick := s.clk.tick }) ∧
    (k.mbox.arg ≠ 0x5EA1 → ends (exec .sealArm s) 7 0 7 fun b => modFuse b fun f => { f with armed := false }) ∧
    (armedNow s.env b = true → k.mbox.arg = 0xA15E → fuseable b = true →
      ends (exec .sealBlow s) 8 0 0 fun b => modFuse b fun f => { f with sealed := true, armed := false }) ∧
    (armedNow s.env b = false ∨ k.mbox.arg ≠ 0xA15E → ends (exec .sealBlow s) 8 0 7 fun b => modFuse b fun f => { f with armed := false }) ∧
    (∃ t, exec .mailboxResetModule s = .next t ∧ t.body.kpr.start.phase = 2 ∧ t.body.ctx.slot = [] ∧ t.body.kpr.mbox = default) ∧
    (∀ d : Fin 4, k.pwr.st = .clear ∨ k.pwr.st = .haze → k.start.phase = 0 → ∃ t, exec (.mailboxResetDie d) s = .next t ∧
      (fget t.body.die d.val).inReset = true ∧ t.body.kpr.mbox.busy = false ∧ t.body.kpr.mbox.status = 0) ∧
    (∀ t' : TestOut, (∃ c ∈ b.ctx.slot, c.2.id.st ≠ .free) ∨ hostHolds b = true ∨ k.start.phase ≠ 0 → ends (exec (.shutdown t') s) 10 0 4 id) ∧
    (∀ t' : TestOut, (∀ c ∈ b.ctx.slot, c.2.id.st = .free) → hostHolds b = false → k.start.phase = 0 → ∃ t, exec (.shutdown t') s = .next t ∧
      t.body.kpr.pwr.st = .night ∧ t.body.kpr.start.offOk = true ∧ t.body.kpr.start.ordFlash = true ∧ t.body.kpr.mbox.status = 0 ∧
      (k.mbox.arg.getLsbD 0 = false → t' = .pass → t.body.kpr.start.newestFull = 1 ∧ t.body.kpr.start.newestHours = k.wv.hours))) ∧
  (k.fuse.armed = true → armedNow s.env b = false → Answers (exec .sealArmExpiry s) s (modFuse b fun f => { f with armed := false })) ∧
  (k.fuse.armed = false ∨ armedNow s.env b = true → Answers (exec .sealArmExpiry s) s b) ∧
  (k.fw.act = 1 → contextFree b = true → Answers (exec .fwActivationPoint s) s (modFw b fun f =>
    { f with act := 2, active := 1 - f.active, bootFail := 0, armUntil := none })) ∧
  (k.fw.act ≠ 1 ∨ contextFree b = false → Answers (exec .fwActivationPoint s) s b) ∧
  (∀ u, k.fw.act = 1 → k.fw.armUntil = some u → u.toNat ≤ s.clk.tick.toNat → k.fw.byScaffold = none → ∃ t, exec .fwActivationTimeout s = .next t ∧
    t.body.kpr.fw.act = 0 ∧ t.body.kpr.fw.active = k.fw.active ∧ t.body.kpr.mbox.status = 5 ∧ t.body.kpr.mbox.busy = false ∧
    holds t.body (grpKey 0 0) 9 true = false) ∧
  (k.fw.act = 2 → k.fw.byScaffold = none → ∃ t, exec .fwRevert s = .next t ∧ t.body.kpr.fw.act = 0 ∧ t.body.kpr.fw.active = 1 - k.fw.active ∧
    t.body.kpr.mbox.status = 9 ∧ t.body.kpr.mbox.busy = false ∧ holds t.body (grpKey 0 0) 9 true = false)

/-- R226, R364 to R367, R378: the I3C target and the boundary scan. The target takes and gives up its address, answers what it is asked,
holds its lengths to at most 64, does not acknowledge what it does not take, receives register writes and returns register reads from
its offset; the tap loads its instruction and shifts out its data register. -/
def Obligations.I3cAndBoundaryScan : Prop := ∀ (s : State), s.body.kpr.pwr.off = false →
  let b := s.body
  let x := b.kpr.i3c
  let ok (f : I3cSt → I3cSt) (d : Option (List (BitVec 8))) : Body := modI3c b fun x => { f x with reply := d, nack := false }
  let nack : Body := modI3c b fun x => { x with reply := none, nack := true }
  let gives (c : Instr) (f : I3cSt → I3cSt) (d : List (BitVec 8)) : Prop :=
    (x.dyn.isSome = true → Answers (exec c s) s (ok f (some d))) ∧ (x.dyn = none → Answers (exec c s) s nack)
  (∀ a : BitVec 7,
    (x.dyn = none → x.askTags = false → Answers (exec (.entdaa a) s) s (ok (fun x => { x with dyn := some a.toNat, hotJoin := false }) none)) ∧
    (x.dyn = none → x.askTags = true → x.evOff = false → Answers (exec (.entdaa a) s) s (ok (fun x =>
      { x with dyn := some a.toNat, hotJoin := false, askTags := false, ibis := x.ibis ++ [(0xB0, 0)] }) none)) ∧
    (x.dyn.isSome = true → Answers (exec (.entdaa a) s) s nack) ∧
    (x.dyn.isSome = true → Answers (exec (.setnewda a) s) s (ok (fun x => { x with dyn := some a.toNat }) none)) ∧
    (x.dyn = none → Answers (exec (.setnewda a) s) s nack)) ∧
  Answers (exec .rstdaa s) s (ok (fun x => { x with dyn := none }) none) ∧
  gives .getpid id (le 6 (0x2D6 * 2 ^ 33 + b.kpr.fuse.identity.toNat % 2 ^ 28 * 16 + b.brd.slotId % 16)).reverse ∧
  gives .getbcr id [0x06] ∧ gives .getdcr id [0x00] ∧
  gives .getstatus (fun x => { x with protErr := false }) [0, BitVec.ofNat 8 (32 * b2n x.protErr)] ∧
  gives .getmrl id ((le 2 x.mrl).reverse ++ [5]) ∧ gives .getmwl id (le 2 x.mwl).reverse ∧
  (∀ n : BitVec 16, Answers (exec (.setmrl n) s) s (ok (fun x => { x with mrl := min n.toNat 64 }) none) ∧
    Answers (exec (.setmwl n) s) s (ok (fun x => { x with mwl := min n.toNat 64 }) none)) ∧
  (∀ e : BitVec 8, let set (on : Bool) (x : I3cSt) : I3cSt :=
      { x with evOff := if e.getLsbD 0 then !on else x.evOff, hotJoin := if e.getLsbD 3 then on && x.dyn.isNone else x.hotJoin }
    Answers (exec (.enec e) s) s (ok (set true) none) ∧ Answers (exec (.disec e) s) s (ok (set false) none)) ∧
  (∃ t, exec (.rstact 1) s = .next t ∧ (t.body.kpr.start.phase = 1 ∨ t.body.kpr.start.phase = 2) ∧ t.body.kpr.pwr.hold = 0 ∧ t.body.ctx.slot = [] ∧
    t.body.kpr.i3c.nack = false) ∧
  (∀ a : BitVec 8, a ≠ 1 → Answers (exec (.rstact a) s) s nack) ∧
  (∀ d : List (BitVec 8), (x.dyn = none ∨ i3cServes b = false → Answers (exec (.i3cPrivateWrite d) s) s nack) ∧
    (x.dyn.isSome = true → i3cServes b = true → d.length = 4 → 4 ≤ x.mwl → Answers (exec (.i3cPrivateWrite d) s) s
      (ok (fun x => { x with off := bytesAt d 0 4 / 4 * 4 }) none)) ∧
    (x.dyn.isSome = true → i3cServes b = true → d.length = 8 → 8 ≤ x.mwl → Answers (exec (.i3cPrivateWrite d) s) s
      (reqPut (ok (fun x => { x with off := bytesAt d 0 4 / 4 * 4 }) none) .i3c (bytesAt d 0 4 / 4 * 4) (bytesAt d 4 4)))) ∧
  (∀ n, (x.dyn = none ∨ i3cServes b = false → Answers (exec (.i3cPrivateRead n) s) s nack) ∧
    (x.dyn.isSome = true → i3cServes b = true → 4 ≤ x.mrl → n = 4 → ∃ t, exec (.i3cPrivateRead n) s = .next t ∧
      t.body.kpr.i3c.reply = some (le 4 (reqReadAll s.env b .i3c x.off).1) ∧ t.body.kpr.i3c.nack = false ∧ t.body.kpr.i3c.off = x.off)) ∧
  (∀ tray pwr : BitVec 32, (x.dyn = none ∨ i3cServes b = false → Answers (exec (.fdTagWrite tray pwr) s) s nack) ∧
    (x.dyn.isSome = true → i3cServes b = true → served b .fab = true → Answers (exec (.fdTagWrite tray pwr) s) s
      (let c := ok id none;
        { c with fab := { c.fab with
          fdTray := if b.fab.fdTrayWr then b.fab.fdTray else tray, fdPwr := if b.fab.fdPwrWr then b.fab.fdPwr else pwr
          fdTrayWr := true, fdPwrWr := true } }))) ∧
  (let brd (f : Brd → Brd) : Body := { b with brd := f b.brd }
    let sample (ir : Nat) (v : BitVec 17) : Body :=
      { brd (fun r => { r with ir := ir, tapOut := boundaryCells b, bcells := v.setWidth 64 }) with free := b.free + 1 }
    Answers (exec .idcode s) s (brd fun r => { r with ir := 1, tapOut := 0x174325AD }) ∧
    Answers (exec .bypass s) s (brd fun r => { r with ir := 0xFF, tapOut := 0 }) ∧
    Answers (exec .testLogicReset s) s (brd fun r => { r with ir := 1 }) ∧
    ∀ v : BitVec 17, Answers (exec (.samplePreload v) s) s (sample 2 v) ∧
      (b.kpr.pwr.hold ≠ 0 ∨ b.kpr.pwr.st = .night ∨ b.brd.perst = true → Answers (exec (.extest v) s) s (sample 0 v)) ∧
      (b.kpr.pwr.hold = 0 → b.kpr.pwr.st ≠ .night → b.brd.perst = false → Answers (exec (.extest v) s) s
        (brd fun r => { r with ir := 0, tapOut := 0 })))

/-- R80: "TESTOVF reads the flag of the context's open step as Chapter 5 defines it. With no step open, it writes 0." -/
def Obligations.TestovfReadsTheStepFlag : Prop := ∀ (s : State) (t : ThreadRef) (k : Nat) (w : BitVec 32), MayIssue s t k → fld w.toNat 22 0 = 0 →
  let c := ctxAt s.body (threadAt s t k).slot
  let writes (v : BitVec 64) : Prop := Issued (exec (.testovf t w) s) s t k
    (fun q => { goesOn 6 q with res := lands s 1 (.p (fld w.toNat 25 23)) v false q }) id id
  (c.led.openStep.isSome = true → writes (if c.num.flagSeen k s.clk.cyc then 1 else 0)) ∧ (c.led.openStep = none → writes 0)

/-- R83: when a thread issues the bundle at the end address of its innermost loop entries, each counts down; the first whose count is then
nonzero sends it to the first bundle of its body; those whose count is zero are removed, and with none left that ends there the next
bundle follows. An entry that is not the innermost has no loop effect. -/
def Obligations.LoopBodyEnds : Prop := ∀ (s : State) (t : ThreadRef) (k : Nat) (w : BitVec 32) (outs rest : List LoopEnt),
  MayIssue s t k → fld w.toNat 25 0 = 0 →
  let q := threadAt s t k
  q.loops = outs ++ rest → (∀ x ∈ outs, x.last = q.pc ∧ x.cnt = 1) →
  ∃ s', exec (.sclNop t w) s = .next s' ∧
    (∀ x xs, rest = x :: xs → x.last = q.pc → 2 ≤ x.cnt →
      (threadAt s' t k).pc = x.first ∧ (threadAt s' t k).loops = { x with cnt := x.cnt - 1 } :: xs) ∧
    ((rest = [] ∨ ∃ x xs, rest = x :: xs ∧ x.last ≠ q.pc) →
      (threadAt s' t k).pc = (q.pc + 6) % 2 ^ 48 ∧ (threadAt s' t k).loops = rest)

/-- R357: which resource groups of Table 10-14 overlap: a group overlaps every group it contains; the module group contains every other; a
C-die contains its nine panels, its stratum and its die-to-die ports; a die window contains its two stacks; a die-to-die port overlaps
the port at the other end of its link (Table 1-2). -/
def Obligations.ScaffoldGroupsOverlap : Prop := ∀ (t i u j : Nat),
  let group (t i : Nat) : Prop := ∃ n, [1, 4, 36, 8, 1, 4, 16, 6, 4][t]? = some n ∧ i < n
  let inDie (d u j : Nat) : Prop := (u = 2 ∧ 9 * d ≤ j ∧ j < 9 * d + 9) ∨ (u = 5 ∧ j = d) ∨ (u = 6 ∧ 3 * d ≤ j ∧ j < 3 * d + 3 ∧ j < 12)
  let contains (t i u j : Nat) : Prop := t = 0 ∨ (t, i) = (u, j) ∨ (t = 1 ∧ inDie i u j) ∨ (t = 8 ∧ u = 3 ∧ (j = 2 * i ∨ j = 2 * i + 1))
  let link (i j : Nat) : Prop := (i, j) ∈ [(0, 3), (6, 9), (1, 10), (4, 7), (2, 12), (5, 13), (8, 14), (11, 15)]
  group t i → group u j →
  (grpOverlap (grpKey t i) (grpKey u j) = true ↔
    contains t i u j ∨ contains u j t i ∨ (t = 6 ∧ u = 6 ∧ (link i j ∨ link j i)))

/-- One step runs the command at the front of the queue, on the state whose queue is the rest. With an empty queue, one C cycle passes
(the model's choice: log entry 1). -/
def Obligations.StepRunsTheFrontCommand : Prop := (∀ (s : State) (c : Instr) (rest : List Instr), s.pending = c :: rest → step s = exec c { s with pending := rest }) ∧
  ∀ s : State, s.pending = [] → step s = .next (tickCycle s)

/-- Every step answers a next state: no command ends in a fault or a refusal. It takes exactly the front command from the queue; the clock
stays legal, moves by one C cycle when nothing is queued, by the cycles that BUNDLE_ISSUE names, to zero at a power-on reset, and
otherwise not; the power-on count advances by one at a power-on reset, and otherwise not (R3). -/
def Obligations.EveryStepAnswers : Prop := ∀ (s : State), clockOk s →
  let cycles (c : Clock) : Nat := 1800 * c.tick.toNat + c.sub
  ∃ t, step s = .next t ∧ t.pending = s.pending.tail ∧ clockOk t ∧
    (match s.pending.head? with
      | some (.powerOnReset _) => t.pwrOn = s.pwrOn + 1 ∧ t.clk = ⟨0, 0, 0⟩
      | some .overvoltageRestart => if s.body.brd.ovHold then t.pwrOn = s.pwrOn + 1 ∧ t.clk = ⟨0, 0, 0⟩ else t = { s with pending := s.pending.tail }
      | some (.bundleIssue _ n) => t.pwrOn = s.pwrOn ∧ cycles t.clk % (1800 * 2 ^ 64) = (cycles s.clk + n) % (1800 * 2 ^ 64)
      | some _ => t.pwrOn = s.pwrOn ∧ t.clk = s.clk
      | none => t.pwrOn = s.pwrOn ∧ cycles t.clk % (1800 * 2 ^ 64) = (cycles s.clk + 1) % (1800 * 2 ^ 64))

/-- What the module is right after its first start: the values that the spec's tables give registers for reset, as a host reads them; the
panels in service, the memories in canonical form with nothing listed, no context, no command waiting. That the state is the one after
a first start, with power-on count 1, is the model's choice (log entry 20). -/
def Obligations.ResetState : Prop := let s := State.reset
  let b := s.body
  let read (p : Pg) (o : Nat) : Nat := pageRead s.env b p o
  s.pending = [] ∧ clockOk s ∧ memOk s ∧ s.clk.tick = 0 ∧ b.mem.bytes = [] ∧ b.ctx.slot = [] ∧ b.fab.plan = none ∧ b.kpr.pwr.st = .clear ∧
  b.kpr.pwr.hold = 0 ∧ (∀ d lp, d < 4 → lp < 8 → ∃ pp, physOf b d lp = some pp ∧ (panelAt b (pkey d pp)).st = .active) ∧
  read .kpr 0x044 = 1000 * 2 ^ 16 + 4 ∧ read .kpr 0x040 = 10 * 2 ^ 16 + 3 ∧ read .kpr 0x080 = 2 ^ 26 + 10000 ∧
  read .snd 0x040 = 1440 * 2 ^ 16 + 7 ∧ read .tb 0x040 = 256 ∧ read .brd 0x080 % 4096 = 3200 ∧ read .hst 0x040 = 0 ∧
  (∀ d, d < 4 → read (.die d) 0x04C % 65536 = 60000 ∧ read (.die d) 0x044 % 256 = 0x43 ∧ read (.die d) 0x054 = 0x3F ∧
    read (.str d) 0x040 = 32 * 2 ^ 16 + 1 ∧ read (.str d) 0x044 = 96 * 2 ^ 8) ∧
  (∀ n, n < 8 → read (.hbm n) 0x040 = 96 * 2 ^ 16 + 3 * 2 ^ 8 + 2) ∧ (∀ n, n < 16 → fld (read (.d2d n) 0x040) 22 18 = 0x1F) ∧
  (∀ n, n < 6 → fld (read (.grd n) 0x040) 21 20 = 3) ∧ (∀ k, k < 36 → read (.pnl k) 0x0A4 % 64 = 0x3F)
end

