-- ==== Sys2Proof/Laws/Maps.lean ====
section
/-! SUPPORT. What reading a sparse table gives after each of its updates, and that every update keeps the canonical form. -/

namespace Sys2Proof.Machine

variable {α : Type}

/-! ### Reading -/

theorem fget_fput_same [Inhabited α] (m : FMap α) (a : Nat) (x : α) : fget (fput m a x) a = x := by
  induction m with
  | nil => simp [fput, fget]
  | cons h t ih =>
    obtain ⟨k, v⟩ := h
    simp only [fput]
    split
    · next h => simp only [fget, if_neg (Nat.ne_of_lt h)]; exact ih
    · split <;> simp [fget]

theorem fget_fput_ne [Inhabited α] (m : FMap α) {a c : Nat} (x : α) (h : c ≠ a) : fget (fput m a x) c = fget m c := by
  induction m with
  | nil => simp [fput, fget, h.symm]
  | cons hd t ih =>
    obtain ⟨k, v⟩ := hd
    simp only [fput]
    split
    · simp only [fget, ih]
    · split
      · next hk => subst hk; simp [fget, h.symm]
      · simp [fget, h.symm]

theorem fget_fdel_same [Inhabited α] (m : FMap α) (a : Nat) : fget (fdel m a) a = default := by
  induction m with
  | nil => rfl
  | cons h t ih =>
    obtain ⟨k, v⟩ := h
    simp only [fdel]
    split
    · exact ih
    · next hk => simp only [fget, if_neg hk]; exact ih

theorem fget_fdel_ne [Inhabited α] (m : FMap α) {a c : Nat} (h : c ≠ a) : fget (fdel m a) c = fget m c := by
  induction m with
  | nil => rfl
  | cons hd t ih =>
    obtain ⟨k, v⟩ := hd
    simp only [fdel]
    split
    · next hk => subst hk; simp only [fget, if_neg h.symm]; exact ih
    · simp only [fget, ih]

/-- The key written reads the value. -/
@[simp] theorem fget_fset_same [Inhabited α] [DecidableEq α] (m : FMap α) (a : Nat) (x : α) : fget (fset m a x) a = x := by
  unfold fset; split
  · next h => rw [fget_fdel_same, h]
  · exact fget_fput_same m a x

/-- Every other key reads what it did. -/
theorem fget_fset_ne [Inhabited α] [DecidableEq α] (m : FMap α) {a c : Nat} (x : α) (h : c ≠ a) :
    fget (fset m a x) c = fget m c := by
  unfold fset; split
  · exact fget_fdel_ne m h
  · exact fget_fput_ne m x h

theorem fget_fset [Inhabited α] [DecidableEq α] (m : FMap α) (a c : Nat) (x : α) :
    fget (fset m a x) c = if c = a then x else fget m c := by
  split
  · next h => subst h; simp
  · next h => exact fget_fset_ne m x h

@[simp] theorem fget_fmod_same [Inhabited α] [DecidableEq α] (m : FMap α) (a : Nat) (f : α → α) :
    fget (fmod m a f) a = f (fget m a) := by simp [fmod]

theorem fget_fmod_ne [Inhabited α] [DecidableEq α] (m : FMap α) {a c : Nat} (f : α → α) (h : c ≠ a) :
    fget (fmod m a f) c = fget m c := fget_fset_ne m _ h

@[simp] theorem fget_nil [Inhabited α] (a : Nat) : fget ([] : FMap α) a = default := rfl

/-- Writing many values: a key of the range reads its value. -/
theorem fget_fsetMany_ne [Inhabited α] [DecidableEq α] (xs : List α) (m : FMap α) (a c : Nat) (h : c < a ∨ a + xs.length ≤ c) :
    fget (fsetMany m a xs) c = fget m c := by
  induction xs generalizing m a with
  | nil => rfl
  | cons x t ih =>
    simp only [fsetMany, List.length_cons] at *
    rw [ih _ _ (by omega), fget_fset_ne _ _ (by omega)]

/-! ### The canonical form -/

theorem fabove_trans {a c : Nat} (m : FMap α) (h : a ≤ c) (hm : fabove c m = true) : fabove a m = true := by
  simp only [fabove, List.all_eq_true, decide_eq_true_eq] at *
  intro p hp; have := hm p hp; omega

theorem fabove_fput {a c : Nat} (m : FMap α) (x : α) (h : c < a) (hm : fabove c m = true) : fabove c (fput m a x) = true := by
  induction m with
  | nil => simp [fput, fabove, h]
  | cons hd t ih =>
    obtain ⟨k, v⟩ := hd
    simp only [fabove, List.all_cons, Bool.and_eq_true, decide_eq_true_eq] at hm ih
    simp only [fput]
    split
    · simp only [fabove, List.all_cons, Bool.and_eq_true, decide_eq_true_eq]; exact ⟨hm.1, ih hm.2⟩
    · split
      · simp only [fabove, List.all_cons, Bool.and_eq_true, decide_eq_true_eq]; exact ⟨h, hm.2⟩
      · simp only [fabove, List.all_cons, Bool.and_eq_true, decide_eq_true_eq]; exact ⟨h, hm.1, hm.2⟩

theorem fabove_fdel {a c : Nat} (m : FMap α) (hm : fabove c m = true) : fabove c (fdel m a) = true := by
  induction m with
  | nil => rfl
  | cons hd t ih =>
    obtain ⟨k, v⟩ := hd
    simp only [fabove, List.all_cons, Bool.and_eq_true, decide_eq_true_eq] at hm ih
    simp only [fdel]
    split
    · exact ih hm.2
    · simp only [fabove, List.all_cons, Bool.and_eq_true, decide_eq_true_eq]; exact ⟨hm.1, ih hm.2⟩

variable [Inhabited α] [DecidableEq α]

theorem fwf_fput (m : FMap α) (a : Nat) (x : α) (hx : x ≠ default) (hm : fwf m = true) : fwf (fput m a x) = true := by
  induction m with
  | nil => simp [fput, fwf, fabove, hx]
  | cons hd t ih =>
    obtain ⟨k, v⟩ := hd
    simp only [fwf, Bool.and_eq_true, decide_eq_true_eq] at hm
    obtain ⟨⟨hv, ha⟩, ht⟩ := hm
    simp only [fput]
    split
    · next h =>
      simp only [fwf, Bool.and_eq_true, decide_eq_true_eq]
      exact ⟨⟨hv, fabove_fput t x h ha⟩, ih ht⟩
    · split
      · next h => subst h; simp only [fwf, Bool.and_eq_true, decide_eq_true_eq]; exact ⟨⟨hx, ha⟩, ht⟩
      · next h h' =>
        simp only [fwf, Bool.and_eq_true, decide_eq_true_eq]
        refine ⟨⟨hx, ?_⟩, ⟨hv, ha⟩, ht⟩
        simp only [fabove, List.all_cons, Bool.and_eq_true, decide_eq_true_eq]
        exact ⟨by omega, fabove_trans t (by omega) ha⟩

theorem fwf_fdel (m : FMap α) (a : Nat) (hm : fwf m = true) : fwf (fdel m a) = true := by
  induction m with
  | nil => rfl
  | cons hd t ih =>
    obtain ⟨k, v⟩ := hd
    simp only [fwf, Bool.and_eq_true, decide_eq_true_eq] at hm
    simp only [fdel]
    split
    · exact ih hm.2
    · simp only [fwf, Bool.and_eq_true, decide_eq_true_eq]; exact ⟨⟨hm.1.1, fabove_fdel t hm.1.2⟩, ih hm.2⟩

/-- Writing keeps the canonical form. -/
theorem fwf_fset (m : FMap α) (a : Nat) (x : α) (hm : fwf m = true) : fwf (fset m a x) = true := by
  unfold fset; split
  · exact fwf_fdel m a hm
  · next h => exact fwf_fput m a x h hm

end Sys2Proof.Machine
end

