-- ==== Sys2Proof/Laws/Memory.lean ====
section
/-! SUPPORT. Byte memories: what a read gives after a write, and that writing keeps the canonical form. -/

namespace Sys2Proof.Machine

/-! ### Reading -/

theorem cellFind_fput_same (m : List Host.Cell) (a : Nat) (v : BitVec 8) : cellFind (fput m a v) a = some v := by
  induction m with
  | nil => simp [fput, cellFind]
  | cons h t ih =>
    obtain ⟨k, w⟩ := h
    simp only [fput]
    split
    · next h => simp only [cellFind, if_neg (Nat.ne_of_lt h)]; exact ih
    · split <;> simp [cellFind]

theorem cellFind_fput_ne (m : List Host.Cell) {a c : Nat} (v : BitVec 8) (h : c ≠ a) : cellFind (fput m a v) c = cellFind m c := by
  induction m with
  | nil => simp [fput, cellFind, h.symm]
  | cons hd t ih =>
    obtain ⟨k, w⟩ := hd
    simp only [fput]
    split
    · simp only [cellFind, ih]
    · split
      · next hk => subst hk; simp [cellFind, h.symm]
      · simp [cellFind, h.symm]

theorem cellFind_fdel_same (m : List Host.Cell) (a : Nat) : cellFind (fdel m a) a = none := by
  induction m with
  | nil => rfl
  | cons h t ih =>
    obtain ⟨k, v⟩ := h
    simp only [fdel]
    split
    · exact ih
    · next hk => simp only [cellFind, if_neg hk]; exact ih

theorem cellFind_fdel_ne (m : List Host.Cell) {a c : Nat} (h : c ≠ a) : cellFind (fdel m a) c = cellFind m c := by
  induction m with
  | nil => rfl
  | cons hd t ih =>
    obtain ⟨k, v⟩ := hd
    simp only [fdel]
    split
    · next hk => subst hk; simp only [cellFind, if_neg h.symm]; exact ih
    · simp only [cellFind, ih]

/-- A byte written reads back. -/
@[simp] theorem cellGet_cellSet_same (bg : Nat → BitVec 8) (m : List Host.Cell) (a : Nat) (v : BitVec 8) :
    cellGet bg (cellSet bg m a v) a = v := by
  unfold cellSet; split
  · next h => simp [cellGet, cellFind_fdel_same, h]
  · simp [cellGet, cellFind_fput_same]

/-- Every other byte reads what it did. -/
theorem cellGet_cellSet_ne (bg : Nat → BitVec 8) (m : List Host.Cell) {a c : Nat} (v : BitVec 8) (h : c ≠ a) :
    cellGet bg (cellSet bg m a v) c = cellGet bg m c := by
  unfold cellSet; split
  · simp [cellGet, cellFind_fdel_ne m h]
  · simp [cellGet, cellFind_fput_ne m v h]

/-- Outside the bytes written, memory reads what it did. -/
theorem cellGet_cellSetMany_ne (bg : Nat → BitVec 8) (d : List (BitVec 8)) (m : List Host.Cell) (a c : Nat)
    (h : c < a ∨ a + d.length ≤ c) : cellGet bg (cellSetMany bg m a d) c = cellGet bg m c := by
  induction d generalizing m a with
  | nil => rfl
  | cons x t ih =>
    simp only [cellSetMany, List.length_cons] at *
    rw [ih _ _ (by omega), cellGet_cellSet_ne _ _ _ (by omega)]

/-- A byte of the range written reads the byte stored there. -/
theorem cellGet_cellSetMany_at (bg : Nat → BitVec 8) (d : List (BitVec 8)) (m : List Host.Cell) (a i : Nat) (h : i < d.length) :
    cellGet bg (cellSetMany bg m a d) (a + i) = d[i] := by
  induction d generalizing m a i with
  | nil => simp at h
  | cons x t ih =>
    cases i with
    | zero => simp [cellSetMany, cellGet_cellSetMany_ne]
    | succ n =>
      simp only [List.length_cons, Nat.add_lt_add_iff_right] at h
      have := ih (cellSet bg m a x) (a + 1) n h
      simpa [cellSetMany, Nat.add_assoc, Nat.add_comm 1 n] using this

/-! ### The canonical form -/

variable (bg : Nat → BitVec 8)

theorem wf_fput (m : List Host.Cell) (a : Nat) (v : BitVec 8) (hv : v ≠ bg a) (hm : Memory.wf bg m = true) :
    Memory.wf bg (fput m a v) = true := by
  induction m with
  | nil => simp [fput, Memory.wf, fabove, hv]
  | cons hd t ih =>
    obtain ⟨k, w⟩ := hd
    simp only [Memory.wf, Bool.and_eq_true, decide_eq_true_eq] at hm
    obtain ⟨⟨hw, ha⟩, ht⟩ := hm
    simp only [fput]
    split
    · next h => simp only [Memory.wf, Bool.and_eq_true, decide_eq_true_eq]; exact ⟨⟨hw, fabove_fput t v h ha⟩, ih ht⟩
    · split
      · next h => subst h; simp only [Memory.wf, Bool.and_eq_true, decide_eq_true_eq]; exact ⟨⟨hv, ha⟩, ht⟩
      · next h h' =>
        simp only [Memory.wf, Bool.and_eq_true, decide_eq_true_eq]
        refine ⟨⟨hv, ?_⟩, ⟨hw, ha⟩, ht⟩
        simp only [fabove, List.all_cons, Bool.and_eq_true, decide_eq_true_eq]
        exact ⟨by omega, fabove_trans t (by omega) ha⟩

theorem wf_fdel (m : List Host.Cell) (a : Nat) (hm : Memory.wf bg m = true) : Memory.wf bg (fdel m a) = true := by
  induction m with
  | nil => rfl
  | cons hd t ih =>
    obtain ⟨k, w⟩ := hd
    simp only [Memory.wf, Bool.and_eq_true, decide_eq_true_eq] at hm
    simp only [fdel]
    split
    · exact ih hm.2
    · simp only [Memory.wf, Bool.and_eq_true, decide_eq_true_eq]; exact ⟨⟨hm.1.1, fabove_fdel t hm.1.2⟩, ih hm.2⟩

/-- Writing a byte keeps the canonical form. -/
theorem wf_cellSet (m : List Host.Cell) (a : Nat) (v : BitVec 8) (hm : Memory.wf bg m = true) :
    Memory.wf bg (cellSet bg m a v) = true := by
  unfold cellSet; split
  · exact wf_fdel bg m a hm
  · next h => exact wf_fput bg m a v h hm

/-- Writing bytes keeps the canonical form. -/
theorem wf_cellSetMany (d : List (BitVec 8)) (m : List Host.Cell) (a : Nat) (hm : Memory.wf bg m = true) :
    Memory.wf bg (cellSetMany bg m a d) = true := by
  induction d generalizing m a with
  | nil => exact hm
  | cons x t ih => exact ih _ _ (wf_cellSet bg m a x hm)

/-- Stores of module memory keep its canonical form. -/
theorem wf_write (m : MemSt) (a : Nat) (d : List (BitVec 8)) (hm : Memory.wf (memBg m.lost) m.bytes = true) :
    Memory.wf (memBg (m.write a d).lost) (m.write a d).bytes = true := wf_cellSetMany _ d m.bytes a hm

theorem wf_putLine (m : MemSt) (a : Nat) (d : List (BitVec 8)) (po own copy : Bool) (hm : Memory.wf (memBg m.lost) m.bytes = true) :
    Memory.wf (memBg (m.putLine a d po own copy).lost) (m.putLine a d po own copy).bytes = true := by
  unfold MemSt.putLine; dsimp only; split
  · exact hm
  · exact wf_write m a d hm

/-- Losing a region drops its bytes; the form stays. -/
theorem wf_filter (p : Host.Cell → Bool) (m : List Host.Cell) (hm : Memory.wf bg m = true) : Memory.wf bg (m.filter p) = true := by
  induction m with
  | nil => rfl
  | cons hd t ih =>
    obtain ⟨k, w⟩ := hd
    simp only [Memory.wf, Bool.and_eq_true, decide_eq_true_eq] at hm
    simp only [List.filter_cons]
    split
    · simp only [Memory.wf, Bool.and_eq_true, decide_eq_true_eq]
      refine ⟨⟨hm.1.1, ?_⟩, ih hm.2⟩
      have := hm.1.2
      simp only [fabove, List.all_eq_true] at *
      intro q hq; exact this q (List.mem_filter.mp hq).1
    · exact ih hm.2

end Sys2Proof.Machine
end

