-- ==== Sys2Proof/Laws/State.lean ====
section
/-! SUPPORT. One lemma for each part of the state and each named update that leaves it alone: no later proof unfolds a record
update. -/

namespace Sys2Proof.Machine

/-! ### What each update leaves alone -/

@[simp] theorem setCtx_uid (b : Body) (slot : Nat) (c : Ctx) : (setCtx b slot c).uid = b.uid := rfl
@[simp] theorem setCtx_free (b : Body) (slot : Nat) (c : Ctx) : (setCtx b slot c).free = b.free := rfl
@[simp] theorem setCtx_panel (b : Body) (slot : Nat) (c : Ctx) : (setCtx b slot c).panel = b.panel := rfl
@[simp] theorem setCtx_die (b : Body) (slot : Nat) (c : Ctx) : (setCtx b slot c).die = b.die := rfl
@[simp] theorem setCtx_hub (b : Body) (slot : Nat) (c : Ctx) : (setCtx b slot c).hub = b.hub := rfl
@[simp] theorem setCtx_mem (b : Body) (slot : Nat) (c : Ctx) : (setCtx b slot c).mem = b.mem := rfl
@[simp] theorem setCtx_host (b : Body) (slot : Nat) (c : Ctx) : (setCtx b slot c).host = b.host := rfl
@[simp] theorem setCtx_fab (b : Body) (slot : Nat) (c : Ctx) : (setCtx b slot c).fab = b.fab := rfl
@[simp] theorem setCtx_kpr (b : Body) (slot : Nat) (c : Ctx) : (setCtx b slot c).kpr = b.kpr := rfl
@[simp] theorem setCtx_brd (b : Body) (slot : Nat) (c : Ctx) : (setCtx b slot c).brd = b.brd := rfl
@[simp] theorem setCtx_dir (b : Body) (slot : Nat) (c : Ctx) : (setCtx b slot c).dir = b.dir := rfl

@[simp] theorem modCtx_uid (b : Body) (slot : Nat) (f : Ctx → Ctx) : (modCtx b slot f).uid = b.uid := rfl
@[simp] theorem modCtx_free (b : Body) (slot : Nat) (f : Ctx → Ctx) : (modCtx b slot f).free = b.free := rfl
@[simp] theorem modCtx_panel (b : Body) (slot : Nat) (f : Ctx → Ctx) : (modCtx b slot f).panel = b.panel := rfl
@[simp] theorem modCtx_die (b : Body) (slot : Nat) (f : Ctx → Ctx) : (modCtx b slot f).die = b.die := rfl
@[simp] theorem modCtx_hub (b : Body) (slot : Nat) (f : Ctx → Ctx) : (modCtx b slot f).hub = b.hub := rfl
@[simp] theorem modCtx_mem (b : Body) (slot : Nat) (f : Ctx → Ctx) : (modCtx b slot f).mem = b.mem := rfl
@[simp] theorem modCtx_host (b : Body) (slot : Nat) (f : Ctx → Ctx) : (modCtx b slot f).host = b.host := rfl
@[simp] theorem modCtx_fab (b : Body) (slot : Nat) (f : Ctx → Ctx) : (modCtx b slot f).fab = b.fab := rfl
@[simp] theorem modCtx_kpr (b : Body) (slot : Nat) (f : Ctx → Ctx) : (modCtx b slot f).kpr = b.kpr := rfl
@[simp] theorem modCtx_brd (b : Body) (slot : Nat) (f : Ctx → Ctx) : (modCtx b slot f).brd = b.brd := rfl
@[simp] theorem modCtx_dir (b : Body) (slot : Nat) (f : Ctx → Ctx) : (modCtx b slot f).dir = b.dir := rfl

@[simp] theorem advGen_uid (b : Body) (slot : Nat) : (advGen b slot).uid = b.uid := rfl
@[simp] theorem advGen_free (b : Body) (slot : Nat) : (advGen b slot).free = b.free := rfl
@[simp] theorem advGen_panel (b : Body) (slot : Nat) : (advGen b slot).panel = b.panel := rfl
@[simp] theorem advGen_die (b : Body) (slot : Nat) : (advGen b slot).die = b.die := rfl
@[simp] theorem advGen_hub (b : Body) (slot : Nat) : (advGen b slot).hub = b.hub := rfl
@[simp] theorem advGen_mem (b : Body) (slot : Nat) : (advGen b slot).mem = b.mem := rfl
@[simp] theorem advGen_host (b : Body) (slot : Nat) : (advGen b slot).host = b.host := rfl
@[simp] theorem advGen_fab (b : Body) (slot : Nat) : (advGen b slot).fab = b.fab := rfl
@[simp] theorem advGen_kpr (b : Body) (slot : Nat) : (advGen b slot).kpr = b.kpr := rfl
@[simp] theorem advGen_brd (b : Body) (slot : Nat) : (advGen b slot).brd = b.brd := rfl
@[simp] theorem advGen_dir (b : Body) (slot : Nat) : (advGen b slot).dir = b.dir := rfl

@[simp] theorem raise_uid (b : Body) (f : FaultReq) : (raise b f).uid = b.uid := rfl
@[simp] theorem raise_free (b : Body) (f : FaultReq) : (raise b f).free = b.free := rfl
@[simp] theorem raise_panel (b : Body) (f : FaultReq) : (raise b f).panel = b.panel := rfl
@[simp] theorem raise_die (b : Body) (f : FaultReq) : (raise b f).die = b.die := rfl
@[simp] theorem raise_hub (b : Body) (f : FaultReq) : (raise b f).hub = b.hub := rfl
@[simp] theorem raise_mem (b : Body) (f : FaultReq) : (raise b f).mem = b.mem := rfl
@[simp] theorem raise_host (b : Body) (f : FaultReq) : (raise b f).host = b.host := rfl
@[simp] theorem raise_fab (b : Body) (f : FaultReq) : (raise b f).fab = b.fab := rfl
@[simp] theorem raise_kpr (b : Body) (f : FaultReq) : (raise b f).kpr = b.kpr := rfl
@[simp] theorem raise_brd (b : Body) (f : FaultReq) : (raise b f).brd = b.brd := rfl
@[simp] theorem raise_dir (b : Body) (f : FaultReq) : (raise b f).dir = b.dir := rfl

@[simp] theorem reportDirty_uid (b : Body) (slot : Nat) : (reportDirty b slot).uid = b.uid := rfl
@[simp] theorem reportDirty_free (b : Body) (slot : Nat) : (reportDirty b slot).free = b.free := rfl
@[simp] theorem reportDirty_panel (b : Body) (slot : Nat) : (reportDirty b slot).panel = b.panel := rfl
@[simp] theorem reportDirty_die (b : Body) (slot : Nat) : (reportDirty b slot).die = b.die := rfl
@[simp] theorem reportDirty_hub (b : Body) (slot : Nat) : (reportDirty b slot).hub = b.hub := rfl
@[simp] theorem reportDirty_mem (b : Body) (slot : Nat) : (reportDirty b slot).mem = b.mem := rfl
@[simp] theorem reportDirty_host (b : Body) (slot : Nat) : (reportDirty b slot).host = b.host := rfl
@[simp] theorem reportDirty_fab (b : Body) (slot : Nat) : (reportDirty b slot).fab = b.fab := rfl
@[simp] theorem reportDirty_kpr (b : Body) (slot : Nat) : (reportDirty b slot).kpr = b.kpr := rfl
@[simp] theorem reportDirty_brd (b : Body) (slot : Nat) : (reportDirty b slot).brd = b.brd := rfl
@[simp] theorem reportDirty_dir (b : Body) (slot : Nat) : (reportDirty b slot).dir = b.dir := rfl

@[simp] theorem setPanel_uid (b : Body) (k : Nat) (p : Panel) : (setPanel b k p).uid = b.uid := rfl
@[simp] theorem setPanel_free (b : Body) (k : Nat) (p : Panel) : (setPanel b k p).free = b.free := rfl
@[simp] theorem setPanel_die (b : Body) (k : Nat) (p : Panel) : (setPanel b k p).die = b.die := rfl
@[simp] theorem setPanel_hub (b : Body) (k : Nat) (p : Panel) : (setPanel b k p).hub = b.hub := rfl
@[simp] theorem setPanel_ctx (b : Body) (k : Nat) (p : Panel) : (setPanel b k p).ctx = b.ctx := rfl
@[simp] theorem setPanel_mem (b : Body) (k : Nat) (p : Panel) : (setPanel b k p).mem = b.mem := rfl
@[simp] theorem setPanel_host (b : Body) (k : Nat) (p : Panel) : (setPanel b k p).host = b.host := rfl
@[simp] theorem setPanel_fab (b : Body) (k : Nat) (p : Panel) : (setPanel b k p).fab = b.fab := rfl
@[simp] theorem setPanel_kpr (b : Body) (k : Nat) (p : Panel) : (setPanel b k p).kpr = b.kpr := rfl
@[simp] theorem setPanel_brd (b : Body) (k : Nat) (p : Panel) : (setPanel b k p).brd = b.brd := rfl
@[simp] theorem setPanel_dir (b : Body) (k : Nat) (p : Panel) : (setPanel b k p).dir = b.dir := rfl

@[simp] theorem modPanel_uid (b : Body) (k : Nat) (f : Panel → Panel) : (modPanel b k f).uid = b.uid := rfl
@[simp] theorem modPanel_free (b : Body) (k : Nat) (f : Panel → Panel) : (modPanel b k f).free = b.free := rfl
@[simp] theorem modPanel_die (b : Body) (k : Nat) (f : Panel → Panel) : (modPanel b k f).die = b.die := rfl
@[simp] theorem modPanel_hub (b : Body) (k : Nat) (f : Panel → Panel) : (modPanel b k f).hub = b.hub := rfl
@[simp] theorem modPanel_ctx (b : Body) (k : Nat) (f : Panel → Panel) : (modPanel b k f).ctx = b.ctx := rfl
@[simp] theorem modPanel_mem (b : Body) (k : Nat) (f : Panel → Panel) : (modPanel b k f).mem = b.mem := rfl
@[simp] theorem modPanel_host (b : Body) (k : Nat) (f : Panel → Panel) : (modPanel b k f).host = b.host := rfl
@[simp] theorem modPanel_fab (b : Body) (k : Nat) (f : Panel → Panel) : (modPanel b k f).fab = b.fab := rfl
@[simp] theorem modPanel_kpr (b : Body) (k : Nat) (f : Panel → Panel) : (modPanel b k f).kpr = b.kpr := rfl
@[simp] theorem modPanel_brd (b : Body) (k : Nat) (f : Panel → Panel) : (modPanel b k f).brd = b.brd := rfl
@[simp] theorem modPanel_dir (b : Body) (k : Nat) (f : Panel → Panel) : (modPanel b k f).dir = b.dir := rfl

@[simp] theorem raiseVector_uid (b : Body) (v : Nat) : (raiseVector b v).uid = b.uid := by unfold raiseVector; split <;> rfl
@[simp] theorem raiseVector_free (b : Body) (v : Nat) : (raiseVector b v).free = b.free := by unfold raiseVector; split <;> rfl
@[simp] theorem raiseVector_panel (b : Body) (v : Nat) : (raiseVector b v).panel = b.panel := by unfold raiseVector; split <;> rfl
@[simp] theorem raiseVector_die (b : Body) (v : Nat) : (raiseVector b v).die = b.die := by unfold raiseVector; split <;> rfl
@[simp] theorem raiseVector_hub (b : Body) (v : Nat) : (raiseVector b v).hub = b.hub := by unfold raiseVector; split <;> rfl
@[simp] theorem raiseVector_ctx (b : Body) (v : Nat) : (raiseVector b v).ctx = b.ctx := by unfold raiseVector; split <;> rfl
@[simp] theorem raiseVector_mem (b : Body) (v : Nat) : (raiseVector b v).mem = b.mem := by unfold raiseVector; split <;> rfl
@[simp] theorem raiseVector_fab (b : Body) (v : Nat) : (raiseVector b v).fab = b.fab := by unfold raiseVector; split <;> rfl
@[simp] theorem raiseVector_kpr (b : Body) (v : Nat) : (raiseVector b v).kpr = b.kpr := by unfold raiseVector; split <;> rfl
@[simp] theorem raiseVector_brd (b : Body) (v : Nat) : (raiseVector b v).brd = b.brd := by unfold raiseVector; split <;> rfl
@[simp] theorem raiseVector_dir (b : Body) (v : Nat) : (raiseVector b v).dir = b.dir := by unfold raiseVector; split <;> rfl

@[simp] theorem modStack_uid (b : Body) (n : Nat) (f : Stack → Stack) : (modStack b n f).uid = b.uid := rfl
@[simp] theorem modStack_free (b : Body) (n : Nat) (f : Stack → Stack) : (modStack b n f).free = b.free := rfl
@[simp] theorem modStack_panel (b : Body) (n : Nat) (f : Stack → Stack) : (modStack b n f).panel = b.panel := rfl
@[simp] theorem modStack_die (b : Body) (n : Nat) (f : Stack → Stack) : (modStack b n f).die = b.die := rfl
@[simp] theorem modStack_hub (b : Body) (n : Nat) (f : Stack → Stack) : (modStack b n f).hub = b.hub := rfl
@[simp] theorem modStack_ctx (b : Body) (n : Nat) (f : Stack → Stack) : (modStack b n f).ctx = b.ctx := rfl
@[simp] theorem modStack_host (b : Body) (n : Nat) (f : Stack → Stack) : (modStack b n f).host = b.host := rfl
@[simp] theorem modStack_fab (b : Body) (n : Nat) (f : Stack → Stack) : (modStack b n f).fab = b.fab := rfl
@[simp] theorem modStack_kpr (b : Body) (n : Nat) (f : Stack → Stack) : (modStack b n f).kpr = b.kpr := rfl
@[simp] theorem modStack_brd (b : Body) (n : Nat) (f : Stack → Stack) : (modStack b n f).brd = b.brd := rfl
@[simp] theorem modStack_dir (b : Body) (n : Nat) (f : Stack → Stack) : (modStack b n f).dir = b.dir := rfl

@[simp] theorem modStr_uid (b : Body) (d : Nat) (f : Stratum → Stratum) : (modStr b d f).uid = b.uid := rfl
@[simp] theorem modStr_free (b : Body) (d : Nat) (f : Stratum → Stratum) : (modStr b d f).free = b.free := rfl
@[simp] theorem modStr_panel (b : Body) (d : Nat) (f : Stratum → Stratum) : (modStr b d f).panel = b.panel := rfl
@[simp] theorem modStr_die (b : Body) (d : Nat) (f : Stratum → Stratum) : (modStr b d f).die = b.die := rfl
@[simp] theorem modStr_hub (b : Body) (d : Nat) (f : Stratum → Stratum) : (modStr b d f).hub = b.hub := rfl
@[simp] theorem modStr_ctx (b : Body) (d : Nat) (f : Stratum → Stratum) : (modStr b d f).ctx = b.ctx := rfl
@[simp] theorem modStr_host (b : Body) (d : Nat) (f : Stratum → Stratum) : (modStr b d f).host = b.host := rfl
@[simp] theorem modStr_fab (b : Body) (d : Nat) (f : Stratum → Stratum) : (modStr b d f).fab = b.fab := rfl
@[simp] theorem modStr_kpr (b : Body) (d : Nat) (f : Stratum → Stratum) : (modStr b d f).kpr = b.kpr := rfl
@[simp] theorem modStr_brd (b : Body) (d : Nat) (f : Stratum → Stratum) : (modStr b d f).brd = b.brd := rfl
@[simp] theorem modStr_dir (b : Body) (d : Nat) (f : Stratum → Stratum) : (modStr b d f).dir = b.dir := rfl

@[simp] theorem modTb_uid (b : Body) (f : TierB → TierB) : (modTb b f).uid = b.uid := rfl
@[simp] theorem modTb_free (b : Body) (f : TierB → TierB) : (modTb b f).free = b.free := rfl
@[simp] theorem modTb_panel (b : Body) (f : TierB → TierB) : (modTb b f).panel = b.panel := rfl
@[simp] theorem modTb_die (b : Body) (f : TierB → TierB) : (modTb b f).die = b.die := rfl
@[simp] theorem modTb_hub (b : Body) (f : TierB → TierB) : (modTb b f).hub = b.hub := rfl
@[simp] theorem modTb_ctx (b : Body) (f : TierB → TierB) : (modTb b f).ctx = b.ctx := rfl
@[simp] theorem modTb_host (b : Body) (f : TierB → TierB) : (modTb b f).host = b.host := rfl
@[simp] theorem modTb_fab (b : Body) (f : TierB → TierB) : (modTb b f).fab = b.fab := rfl
@[simp] theorem modTb_kpr (b : Body) (f : TierB → TierB) : (modTb b f).kpr = b.kpr := rfl
@[simp] theorem modTb_brd (b : Body) (f : TierB → TierB) : (modTb b f).brd = b.brd := rfl
@[simp] theorem modTb_dir (b : Body) (f : TierB → TierB) : (modTb b f).dir = b.dir := rfl

@[simp] theorem setChan_uid (b : Body) (n ch v : Nat) : (setChan b n ch v).uid = b.uid := rfl
@[simp] theorem setChan_free (b : Body) (n ch v : Nat) : (setChan b n ch v).free = b.free := rfl
@[simp] theorem setChan_panel (b : Body) (n ch v : Nat) : (setChan b n ch v).panel = b.panel := rfl
@[simp] theorem setChan_die (b : Body) (n ch v : Nat) : (setChan b n ch v).die = b.die := rfl
@[simp] theorem setChan_hub (b : Body) (n ch v : Nat) : (setChan b n ch v).hub = b.hub := rfl
@[simp] theorem setChan_ctx (b : Body) (n ch v : Nat) : (setChan b n ch v).ctx = b.ctx := rfl
@[simp] theorem setChan_host (b : Body) (n ch v : Nat) : (setChan b n ch v).host = b.host := rfl
@[simp] theorem setChan_fab (b : Body) (n ch v : Nat) : (setChan b n ch v).fab = b.fab := rfl
@[simp] theorem setChan_kpr (b : Body) (n ch v : Nat) : (setChan b n ch v).kpr = b.kpr := rfl
@[simp] theorem setChan_brd (b : Body) (n ch v : Nat) : (setChan b n ch v).brd = b.brd := rfl
@[simp] theorem setChan_dir (b : Body) (n ch v : Nat) : (setChan b n ch v).dir = b.dir := rfl

@[simp] theorem hostWrite_uid (b : Body) (a : Nat) (d : List (BitVec 8)) : (hostWrite b a d).uid = b.uid := rfl
@[simp] theorem hostWrite_free (b : Body) (a : Nat) (d : List (BitVec 8)) : (hostWrite b a d).free = b.free := rfl
@[simp] theorem hostWrite_panel (b : Body) (a : Nat) (d : List (BitVec 8)) : (hostWrite b a d).panel = b.panel := rfl
@[simp] theorem hostWrite_die (b : Body) (a : Nat) (d : List (BitVec 8)) : (hostWrite b a d).die = b.die := rfl
@[simp] theorem hostWrite_hub (b : Body) (a : Nat) (d : List (BitVec 8)) : (hostWrite b a d).hub = b.hub := rfl
@[simp] theorem hostWrite_ctx (b : Body) (a : Nat) (d : List (BitVec 8)) : (hostWrite b a d).ctx = b.ctx := rfl
@[simp] theorem hostWrite_mem (b : Body) (a : Nat) (d : List (BitVec 8)) : (hostWrite b a d).mem = b.mem := rfl
@[simp] theorem hostWrite_fab (b : Body) (a : Nat) (d : List (BitVec 8)) : (hostWrite b a d).fab = b.fab := rfl
@[simp] theorem hostWrite_kpr (b : Body) (a : Nat) (d : List (BitVec 8)) : (hostWrite b a d).kpr = b.kpr := rfl
@[simp] theorem hostWrite_brd (b : Body) (a : Nat) (d : List (BitVec 8)) : (hostWrite b a d).brd = b.brd := rfl
@[simp] theorem hostWrite_dir (b : Body) (a : Nat) (d : List (BitVec 8)) : (hostWrite b a d).dir = b.dir := rfl

@[simp] theorem sendFrame_uid (b : Body) (f : Frame) : (sendFrame b f).uid = b.uid := rfl
@[simp] theorem sendFrame_free (b : Body) (f : Frame) : (sendFrame b f).free = b.free := rfl
@[simp] theorem sendFrame_panel (b : Body) (f : Frame) : (sendFrame b f).panel = b.panel := rfl
@[simp] theorem sendFrame_die (b : Body) (f : Frame) : (sendFrame b f).die = b.die := rfl
@[simp] theorem sendFrame_hub (b : Body) (f : Frame) : (sendFrame b f).hub = b.hub := rfl
@[simp] theorem sendFrame_ctx (b : Body) (f : Frame) : (sendFrame b f).ctx = b.ctx := rfl
@[simp] theorem sendFrame_mem (b : Body) (f : Frame) : (sendFrame b f).mem = b.mem := rfl
@[simp] theorem sendFrame_host (b : Body) (f : Frame) : (sendFrame b f).host = b.host := rfl
@[simp] theorem sendFrame_kpr (b : Body) (f : Frame) : (sendFrame b f).kpr = b.kpr := rfl
@[simp] theorem sendFrame_brd (b : Body) (f : Frame) : (sendFrame b f).brd = b.brd := rfl
@[simp] theorem sendFrame_dir (b : Body) (f : Frame) : (sendFrame b f).dir = b.dir := rfl

@[simp] theorem modDie_uid (b : Body) (d : Nat) (f : Die → Die) : (modDie b d f).uid = b.uid := rfl
@[simp] theorem modDie_free (b : Body) (d : Nat) (f : Die → Die) : (modDie b d f).free = b.free := rfl
@[simp] theorem modDie_panel (b : Body) (d : Nat) (f : Die → Die) : (modDie b d f).panel = b.panel := rfl
@[simp] theorem modDie_hub (b : Body) (d : Nat) (f : Die → Die) : (modDie b d f).hub = b.hub := rfl
@[simp] theorem modDie_ctx (b : Body) (d : Nat) (f : Die → Die) : (modDie b d f).ctx = b.ctx := rfl
@[simp] theorem modDie_mem (b : Body) (d : Nat) (f : Die → Die) : (modDie b d f).mem = b.mem := rfl
@[simp] theorem modDie_host (b : Body) (d : Nat) (f : Die → Die) : (modDie b d f).host = b.host := rfl
@[simp] theorem modDie_fab (b : Body) (d : Nat) (f : Die → Die) : (modDie b d f).fab = b.fab := rfl
@[simp] theorem modDie_kpr (b : Body) (d : Nat) (f : Die → Die) : (modDie b d f).kpr = b.kpr := rfl
@[simp] theorem modDie_brd (b : Body) (d : Nat) (f : Die → Die) : (modDie b d f).brd = b.brd := rfl
@[simp] theorem modDie_dir (b : Body) (d : Nat) (f : Die → Die) : (modDie b d f).dir = b.dir := rfl

@[simp] theorem modAcc_uid (b : Body) (r : Nat) (f : Access → Access) : (modAcc b r f).uid = b.uid := rfl
@[simp] theorem modAcc_free (b : Body) (r : Nat) (f : Access → Access) : (modAcc b r f).free = b.free := rfl
@[simp] theorem modAcc_panel (b : Body) (r : Nat) (f : Access → Access) : (modAcc b r f).panel = b.panel := rfl
@[simp] theorem modAcc_die (b : Body) (r : Nat) (f : Access → Access) : (modAcc b r f).die = b.die := rfl
@[simp] theorem modAcc_hub (b : Body) (r : Nat) (f : Access → Access) : (modAcc b r f).hub = b.hub := rfl
@[simp] theorem modAcc_ctx (b : Body) (r : Nat) (f : Access → Access) : (modAcc b r f).ctx = b.ctx := rfl
@[simp] theorem modAcc_mem (b : Body) (r : Nat) (f : Access → Access) : (modAcc b r f).mem = b.mem := rfl
@[simp] theorem modAcc_host (b : Body) (r : Nat) (f : Access → Access) : (modAcc b r f).host = b.host := rfl
@[simp] theorem modAcc_fab (b : Body) (r : Nat) (f : Access → Access) : (modAcc b r f).fab = b.fab := rfl
@[simp] theorem modAcc_kpr (b : Body) (r : Nat) (f : Access → Access) : (modAcc b r f).kpr = b.kpr := rfl
@[simp] theorem modAcc_brd (b : Body) (r : Nat) (f : Access → Access) : (modAcc b r f).brd = b.brd := rfl

@[simp] theorem noteWrite_uid (b : Body) (r : Nat) : (noteWrite b r).uid = b.uid := rfl
@[simp] theorem noteWrite_free (b : Body) (r : Nat) : (noteWrite b r).free = b.free := rfl
@[simp] theorem noteWrite_panel (b : Body) (r : Nat) : (noteWrite b r).panel = b.panel := rfl
@[simp] theorem noteWrite_die (b : Body) (r : Nat) : (noteWrite b r).die = b.die := rfl
@[simp] theorem noteWrite_hub (b : Body) (r : Nat) : (noteWrite b r).hub = b.hub := rfl
@[simp] theorem noteWrite_ctx (b : Body) (r : Nat) : (noteWrite b r).ctx = b.ctx := rfl
@[simp] theorem noteWrite_mem (b : Body) (r : Nat) : (noteWrite b r).mem = b.mem := rfl
@[simp] theorem noteWrite_host (b : Body) (r : Nat) : (noteWrite b r).host = b.host := rfl
@[simp] theorem noteWrite_fab (b : Body) (r : Nat) : (noteWrite b r).fab = b.fab := rfl
@[simp] theorem noteWrite_kpr (b : Body) (r : Nat) : (noteWrite b r).kpr = b.kpr := rfl
@[simp] theorem noteWrite_brd (b : Body) (r : Nat) : (noteWrite b r).brd = b.brd := rfl

@[simp] theorem regPut_uid (b : Body) (x : RegW) : (regPut b x).uid = b.uid := rfl
@[simp] theorem regPut_free (b : Body) (x : RegW) : (regPut b x).free = b.free := rfl
@[simp] theorem regPut_panel (b : Body) (x : RegW) : (regPut b x).panel = b.panel := rfl
@[simp] theorem regPut_die (b : Body) (x : RegW) : (regPut b x).die = b.die := rfl
@[simp] theorem regPut_hub (b : Body) (x : RegW) : (regPut b x).hub = b.hub := rfl
@[simp] theorem regPut_ctx (b : Body) (x : RegW) : (regPut b x).ctx = b.ctx := rfl
@[simp] theorem regPut_mem (b : Body) (x : RegW) : (regPut b x).mem = b.mem := rfl
@[simp] theorem regPut_host (b : Body) (x : RegW) : (regPut b x).host = b.host := rfl
@[simp] theorem regPut_fab (b : Body) (x : RegW) : (regPut b x).fab = b.fab := rfl
@[simp] theorem regPut_kpr (b : Body) (x : RegW) : (regPut b x).kpr = b.kpr := rfl
@[simp] theorem regPut_brd (b : Body) (x : RegW) : (regPut b x).brd = b.brd := rfl

@[simp] theorem modPort_uid (b : Body) (n : Nat) (f : Port → Port) : (modPort b n f).uid = b.uid := rfl
@[simp] theorem modPort_free (b : Body) (n : Nat) (f : Port → Port) : (modPort b n f).free = b.free := rfl
@[simp] theorem modPort_panel (b : Body) (n : Nat) (f : Port → Port) : (modPort b n f).panel = b.panel := rfl
@[simp] theorem modPort_die (b : Body) (n : Nat) (f : Port → Port) : (modPort b n f).die = b.die := rfl
@[simp] theorem modPort_hub (b : Body) (n : Nat) (f : Port → Port) : (modPort b n f).hub = b.hub := rfl
@[simp] theorem modPort_ctx (b : Body) (n : Nat) (f : Port → Port) : (modPort b n f).ctx = b.ctx := rfl
@[simp] theorem modPort_mem (b : Body) (n : Nat) (f : Port → Port) : (modPort b n f).mem = b.mem := rfl
@[simp] theorem modPort_host (b : Body) (n : Nat) (f : Port → Port) : (modPort b n f).host = b.host := rfl
@[simp] theorem modPort_kpr (b : Body) (n : Nat) (f : Port → Port) : (modPort b n f).kpr = b.kpr := rfl
@[simp] theorem modPort_brd (b : Body) (n : Nat) (f : Port → Port) : (modPort b n f).brd = b.brd := rfl
@[simp] theorem modPort_dir (b : Body) (n : Nat) (f : Port → Port) : (modPort b n f).dir = b.dir := rfl

@[simp] theorem takeGroup_uid (b : Body) (h : Holder) : (takeGroup b h).uid = b.uid := rfl
@[simp] theorem takeGroup_free (b : Body) (h : Holder) : (takeGroup b h).free = b.free := rfl
@[simp] theorem takeGroup_panel (b : Body) (h : Holder) : (takeGroup b h).panel = b.panel := rfl
@[simp] theorem takeGroup_die (b : Body) (h : Holder) : (takeGroup b h).die = b.die := rfl
@[simp] theorem takeGroup_hub (b : Body) (h : Holder) : (takeGroup b h).hub = b.hub := rfl
@[simp] theorem takeGroup_ctx (b : Body) (h : Holder) : (takeGroup b h).ctx = b.ctx := rfl
@[simp] theorem takeGroup_mem (b : Body) (h : Holder) : (takeGroup b h).mem = b.mem := rfl
@[simp] theorem takeGroup_fab (b : Body) (h : Holder) : (takeGroup b h).fab = b.fab := rfl
@[simp] theorem takeGroup_kpr (b : Body) (h : Holder) : (takeGroup b h).kpr = b.kpr := rfl
@[simp] theorem takeGroup_brd (b : Body) (h : Holder) : (takeGroup b h).brd = b.brd := rfl
@[simp] theorem takeGroup_dir (b : Body) (h : Holder) : (takeGroup b h).dir = b.dir := rfl

@[simp] theorem modLed_uid (b : Body) (slot : Nat) (f : Ledger → Ledger) : (modLed b slot f).uid = b.uid := rfl
@[simp] theorem modLed_free (b : Body) (slot : Nat) (f : Ledger → Ledger) : (modLed b slot f).free = b.free := rfl
@[simp] theorem modLed_panel (b : Body) (slot : Nat) (f : Ledger → Ledger) : (modLed b slot f).panel = b.panel := rfl
@[simp] theorem modLed_die (b : Body) (slot : Nat) (f : Ledger → Ledger) : (modLed b slot f).die = b.die := rfl
@[simp] theorem modLed_hub (b : Body) (slot : Nat) (f : Ledger → Ledger) : (modLed b slot f).hub = b.hub := rfl
@[simp] theorem modLed_mem (b : Body) (slot : Nat) (f : Ledger → Ledger) : (modLed b slot f).mem = b.mem := rfl
@[simp] theorem modLed_host (b : Body) (slot : Nat) (f : Ledger → Ledger) : (modLed b slot f).host = b.host := rfl
@[simp] theorem modLed_fab (b : Body) (slot : Nat) (f : Ledger → Ledger) : (modLed b slot f).fab = b.fab := rfl
@[simp] theorem modLed_kpr (b : Body) (slot : Nat) (f : Ledger → Ledger) : (modLed b slot f).kpr = b.kpr := rfl
@[simp] theorem modLed_brd (b : Body) (slot : Nat) (f : Ledger → Ledger) : (modLed b slot f).brd = b.brd := rfl
@[simp] theorem modLed_dir (b : Body) (slot : Nat) (f : Ledger → Ledger) : (modLed b slot f).dir = b.dir := rfl

@[simp] theorem setReason_uid (b : Body) (slot r : Nat) : (setReason b slot r).uid = b.uid := rfl
@[simp] theorem setReason_free (b : Body) (slot r : Nat) : (setReason b slot r).free = b.free := rfl
@[simp] theorem setReason_panel (b : Body) (slot r : Nat) : (setReason b slot r).panel = b.panel := rfl
@[simp] theorem setReason_die (b : Body) (slot r : Nat) : (setReason b slot r).die = b.die := rfl
@[simp] theorem setReason_hub (b : Body) (slot r : Nat) : (setReason b slot r).hub = b.hub := rfl
@[simp] theorem setReason_mem (b : Body) (slot r : Nat) : (setReason b slot r).mem = b.mem := rfl
@[simp] theorem setReason_host (b : Body) (slot r : Nat) : (setReason b slot r).host = b.host := rfl
@[simp] theorem setReason_fab (b : Body) (slot r : Nat) : (setReason b slot r).fab = b.fab := rfl
@[simp] theorem setReason_kpr (b : Body) (slot r : Nat) : (setReason b slot r).kpr = b.kpr := rfl
@[simp] theorem setReason_brd (b : Body) (slot r : Nat) : (setReason b slot r).brd = b.brd := rfl
@[simp] theorem setReason_dir (b : Body) (slot r : Nat) : (setReason b slot r).dir = b.dir := rfl

@[simp] theorem modPwr_uid (b : Body) (f : PowerSt → PowerSt) : (modPwr b f).uid = b.uid := rfl
@[simp] theorem modPwr_free (b : Body) (f : PowerSt → PowerSt) : (modPwr b f).free = b.free := rfl
@[simp] theorem modPwr_panel (b : Body) (f : PowerSt → PowerSt) : (modPwr b f).panel = b.panel := rfl
@[simp] theorem modPwr_die (b : Body) (f : PowerSt → PowerSt) : (modPwr b f).die = b.die := rfl
@[simp] theorem modPwr_hub (b : Body) (f : PowerSt → PowerSt) : (modPwr b f).hub = b.hub := rfl
@[simp] theorem modPwr_ctx (b : Body) (f : PowerSt → PowerSt) : (modPwr b f).ctx = b.ctx := rfl
@[simp] theorem modPwr_mem (b : Body) (f : PowerSt → PowerSt) : (modPwr b f).mem = b.mem := rfl
@[simp] theorem modPwr_host (b : Body) (f : PowerSt → PowerSt) : (modPwr b f).host = b.host := rfl
@[simp] theorem modPwr_fab (b : Body) (f : PowerSt → PowerSt) : (modPwr b f).fab = b.fab := rfl
@[simp] theorem modPwr_brd (b : Body) (f : PowerSt → PowerSt) : (modPwr b f).brd = b.brd := rfl
@[simp] theorem modPwr_dir (b : Body) (f : PowerSt → PowerSt) : (modPwr b f).dir = b.dir := rfl

@[simp] theorem modStart_uid (b : Body) (f : StartSt → StartSt) : (modStart b f).uid = b.uid := rfl
@[simp] theorem modStart_free (b : Body) (f : StartSt → StartSt) : (modStart b f).free = b.free := rfl
@[simp] theorem modStart_panel (b : Body) (f : StartSt → StartSt) : (modStart b f).panel = b.panel := rfl
@[simp] theorem modStart_die (b : Body) (f : StartSt → StartSt) : (modStart b f).die = b.die := rfl
@[simp] theorem modStart_hub (b : Body) (f : StartSt → StartSt) : (modStart b f).hub = b.hub := rfl
@[simp] theorem modStart_ctx (b : Body) (f : StartSt → StartSt) : (modStart b f).ctx = b.ctx := rfl
@[simp] theorem modStart_mem (b : Body) (f : StartSt → StartSt) : (modStart b f).mem = b.mem := rfl
@[simp] theorem modStart_host (b : Body) (f : StartSt → StartSt) : (modStart b f).host = b.host := rfl
@[simp] theorem modStart_fab (b : Body) (f : StartSt → StartSt) : (modStart b f).fab = b.fab := rfl
@[simp] theorem modStart_brd (b : Body) (f : StartSt → StartSt) : (modStart b f).brd = b.brd := rfl
@[simp] theorem modStart_dir (b : Body) (f : StartSt → StartSt) : (modStart b f).dir = b.dir := rfl

@[simp] theorem modFw_uid (b : Body) (f : FwSt → FwSt) : (modFw b f).uid = b.uid := rfl
@[simp] theorem modFw_free (b : Body) (f : FwSt → FwSt) : (modFw b f).free = b.free := rfl
@[simp] theorem modFw_panel (b : Body) (f : FwSt → FwSt) : (modFw b f).panel = b.panel := rfl
@[simp] theorem modFw_die (b : Body) (f : FwSt → FwSt) : (modFw b f).die = b.die := rfl
@[simp] theorem modFw_hub (b : Body) (f : FwSt → FwSt) : (modFw b f).hub = b.hub := rfl
@[simp] theorem modFw_ctx (b : Body) (f : FwSt → FwSt) : (modFw b f).ctx = b.ctx := rfl
@[simp] theorem modFw_mem (b : Body) (f : FwSt → FwSt) : (modFw b f).mem = b.mem := rfl
@[simp] theorem modFw_host (b : Body) (f : FwSt → FwSt) : (modFw b f).host = b.host := rfl
@[simp] theorem modFw_fab (b : Body) (f : FwSt → FwSt) : (modFw b f).fab = b.fab := rfl
@[simp] theorem modFw_brd (b : Body) (f : FwSt → FwSt) : (modFw b f).brd = b.brd := rfl
@[simp] theorem modFw_dir (b : Body) (f : FwSt → FwSt) : (modFw b f).dir = b.dir := rfl

@[simp] theorem modMbox_uid (b : Body) (f : MboxSt → MboxSt) : (modMbox b f).uid = b.uid := rfl
@[simp] theorem modMbox_free (b : Body) (f : MboxSt → MboxSt) : (modMbox b f).free = b.free := rfl
@[simp] theorem modMbox_panel (b : Body) (f : MboxSt → MboxSt) : (modMbox b f).panel = b.panel := rfl
@[simp] theorem modMbox_die (b : Body) (f : MboxSt → MboxSt) : (modMbox b f).die = b.die := rfl
@[simp] theorem modMbox_hub (b : Body) (f : MboxSt → MboxSt) : (modMbox b f).hub = b.hub := rfl
@[simp] theorem modMbox_ctx (b : Body) (f : MboxSt → MboxSt) : (modMbox b f).ctx = b.ctx := rfl
@[simp] theorem modMbox_mem (b : Body) (f : MboxSt → MboxSt) : (modMbox b f).mem = b.mem := rfl
@[simp] theorem modMbox_host (b : Body) (f : MboxSt → MboxSt) : (modMbox b f).host = b.host := rfl
@[simp] theorem modMbox_fab (b : Body) (f : MboxSt → MboxSt) : (modMbox b f).fab = b.fab := rfl
@[simp] theorem modMbox_brd (b : Body) (f : MboxSt → MboxSt) : (modMbox b f).brd = b.brd := rfl
@[simp] theorem modMbox_dir (b : Body) (f : MboxSt → MboxSt) : (modMbox b f).dir = b.dir := rfl

@[simp] theorem modFuse_uid (b : Body) (f : FuseSt → FuseSt) : (modFuse b f).uid = b.uid := rfl
@[simp] theorem modFuse_free (b : Body) (f : FuseSt → FuseSt) : (modFuse b f).free = b.free := rfl
@[simp] theorem modFuse_panel (b : Body) (f : FuseSt → FuseSt) : (modFuse b f).panel = b.panel := rfl
@[simp] theorem modFuse_die (b : Body) (f : FuseSt → FuseSt) : (modFuse b f).die = b.die := rfl
@[simp] theorem modFuse_hub (b : Body) (f : FuseSt → FuseSt) : (modFuse b f).hub = b.hub := rfl
@[simp] theorem modFuse_ctx (b : Body) (f : FuseSt → FuseSt) : (modFuse b f).ctx = b.ctx := rfl
@[simp] theorem modFuse_mem (b : Body) (f : FuseSt → FuseSt) : (modFuse b f).mem = b.mem := rfl
@[simp] theorem modFuse_host (b : Body) (f : FuseSt → FuseSt) : (modFuse b f).host = b.host := rfl
@[simp] theorem modFuse_fab (b : Body) (f : FuseSt → FuseSt) : (modFuse b f).fab = b.fab := rfl
@[simp] theorem modFuse_brd (b : Body) (f : FuseSt → FuseSt) : (modFuse b f).brd = b.brd := rfl
@[simp] theorem modFuse_dir (b : Body) (f : FuseSt → FuseSt) : (modFuse b f).dir = b.dir := rfl

@[simp] theorem modI3c_uid (b : Body) (f : I3cSt → I3cSt) : (modI3c b f).uid = b.uid := rfl
@[simp] theorem modI3c_free (b : Body) (f : I3cSt → I3cSt) : (modI3c b f).free = b.free := rfl
@[simp] theorem modI3c_panel (b : Body) (f : I3cSt → I3cSt) : (modI3c b f).panel = b.panel := rfl
@[simp] theorem modI3c_die (b : Body) (f : I3cSt → I3cSt) : (modI3c b f).die = b.die := rfl
@[simp] theorem modI3c_hub (b : Body) (f : I3cSt → I3cSt) : (modI3c b f).hub = b.hub := rfl
@[simp] theorem modI3c_ctx (b : Body) (f : I3cSt → I3cSt) : (modI3c b f).ctx = b.ctx := rfl
@[simp] theorem modI3c_mem (b : Body) (f : I3cSt → I3cSt) : (modI3c b f).mem = b.mem := rfl
@[simp] theorem modI3c_host (b : Body) (f : I3cSt → I3cSt) : (modI3c b f).host = b.host := rfl
@[simp] theorem modI3c_fab (b : Body) (f : I3cSt → I3cSt) : (modI3c b f).fab = b.fab := rfl
@[simp] theorem modI3c_brd (b : Body) (f : I3cSt → I3cSt) : (modI3c b f).brd = b.brd := rfl
@[simp] theorem modI3c_dir (b : Body) (f : I3cSt → I3cSt) : (modI3c b f).dir = b.dir := rfl

@[simp] theorem modBrd_uid (b : Body) (f : Brd → Brd) : (modBrd b f).uid = b.uid := rfl
@[simp] theorem modBrd_free (b : Body) (f : Brd → Brd) : (modBrd b f).free = b.free := rfl
@[simp] theorem modBrd_panel (b : Body) (f : Brd → Brd) : (modBrd b f).panel = b.panel := rfl
@[simp] theorem modBrd_die (b : Body) (f : Brd → Brd) : (modBrd b f).die = b.die := rfl
@[simp] theorem modBrd_hub (b : Body) (f : Brd → Brd) : (modBrd b f).hub = b.hub := rfl
@[simp] theorem modBrd_ctx (b : Body) (f : Brd → Brd) : (modBrd b f).ctx = b.ctx := rfl
@[simp] theorem modBrd_mem (b : Body) (f : Brd → Brd) : (modBrd b f).mem = b.mem := rfl
@[simp] theorem modBrd_host (b : Body) (f : Brd → Brd) : (modBrd b f).host = b.host := rfl
@[simp] theorem modBrd_fab (b : Body) (f : Brd → Brd) : (modBrd b f).fab = b.fab := rfl
@[simp] theorem modBrd_kpr (b : Body) (f : Brd → Brd) : (modBrd b f).kpr = b.kpr := rfl
@[simp] theorem modBrd_dir (b : Body) (f : Brd → Brd) : (modBrd b f).dir = b.dir := rfl

@[simp] theorem pinSync_uid (b : Body) : (pinSync b).uid = b.uid := rfl
@[simp] theorem pinSync_free (b : Body) : (pinSync b).free = b.free := rfl
@[simp] theorem pinSync_panel (b : Body) : (pinSync b).panel = b.panel := rfl
@[simp] theorem pinSync_die (b : Body) : (pinSync b).die = b.die := rfl
@[simp] theorem pinSync_hub (b : Body) : (pinSync b).hub = b.hub := rfl
@[simp] theorem pinSync_ctx (b : Body) : (pinSync b).ctx = b.ctx := rfl
@[simp] theorem pinSync_mem (b : Body) : (pinSync b).mem = b.mem := rfl
@[simp] theorem pinSync_host (b : Body) : (pinSync b).host = b.host := rfl
@[simp] theorem pinSync_fab (b : Body) : (pinSync b).fab = b.fab := rfl
@[simp] theorem pinSync_kpr (b : Body) : (pinSync b).kpr = b.kpr := rfl
@[simp] theorem pinSync_dir (b : Body) : (pinSync b).dir = b.dir := rfl

@[simp] theorem setStage_uid (b : Body) (n : Nat) : (setStage b n).uid = b.uid := rfl
@[simp] theorem setStage_free (b : Body) (n : Nat) : (setStage b n).free = b.free := rfl
@[simp] theorem setStage_panel (b : Body) (n : Nat) : (setStage b n).panel = b.panel := rfl
@[simp] theorem setStage_die (b : Body) (n : Nat) : (setStage b n).die = b.die := rfl
@[simp] theorem setStage_hub (b : Body) (n : Nat) : (setStage b n).hub = b.hub := rfl
@[simp] theorem setStage_ctx (b : Body) (n : Nat) : (setStage b n).ctx = b.ctx := rfl
@[simp] theorem setStage_mem (b : Body) (n : Nat) : (setStage b n).mem = b.mem := rfl
@[simp] theorem setStage_host (b : Body) (n : Nat) : (setStage b n).host = b.host := rfl
@[simp] theorem setStage_fab (b : Body) (n : Nat) : (setStage b n).fab = b.fab := rfl
@[simp] theorem setStage_brd (b : Body) (n : Nat) : (setStage b n).brd = b.brd := rfl
@[simp] theorem setStage_dir (b : Body) (n : Nat) : (setStage b n).dir = b.dir := rfl

@[simp] theorem setResult_uid (b : Body) (r : Nat) : (setResult b r).uid = b.uid := rfl
@[simp] theorem setResult_free (b : Body) (r : Nat) : (setResult b r).free = b.free := rfl
@[simp] theorem setResult_panel (b : Body) (r : Nat) : (setResult b r).panel = b.panel := rfl
@[simp] theorem setResult_die (b : Body) (r : Nat) : (setResult b r).die = b.die := rfl
@[simp] theorem setResult_hub (b : Body) (r : Nat) : (setResult b r).hub = b.hub := rfl
@[simp] theorem setResult_ctx (b : Body) (r : Nat) : (setResult b r).ctx = b.ctx := rfl
@[simp] theorem setResult_mem (b : Body) (r : Nat) : (setResult b r).mem = b.mem := rfl
@[simp] theorem setResult_host (b : Body) (r : Nat) : (setResult b r).host = b.host := rfl
@[simp] theorem setResult_fab (b : Body) (r : Nat) : (setResult b r).fab = b.fab := rfl
@[simp] theorem setResult_brd (b : Body) (r : Nat) : (setResult b r).brd = b.brd := rfl
@[simp] theorem setResult_dir (b : Body) (r : Nat) : (setResult b r).dir = b.dir := rfl

@[simp] theorem doorbellDrop_uid (b : Body) : (doorbellDrop b).uid = b.uid := rfl
@[simp] theorem doorbellDrop_free (b : Body) : (doorbellDrop b).free = b.free := rfl
@[simp] theorem doorbellDrop_panel (b : Body) : (doorbellDrop b).panel = b.panel := rfl
@[simp] theorem doorbellDrop_die (b : Body) : (doorbellDrop b).die = b.die := rfl
@[simp] theorem doorbellDrop_hub (b : Body) : (doorbellDrop b).hub = b.hub := rfl
@[simp] theorem doorbellDrop_ctx (b : Body) : (doorbellDrop b).ctx = b.ctx := rfl
@[simp] theorem doorbellDrop_mem (b : Body) : (doorbellDrop b).mem = b.mem := rfl
@[simp] theorem doorbellDrop_fab (b : Body) : (doorbellDrop b).fab = b.fab := rfl
@[simp] theorem doorbellDrop_kpr (b : Body) : (doorbellDrop b).kpr = b.kpr := rfl
@[simp] theorem doorbellDrop_brd (b : Body) : (doorbellDrop b).brd = b.brd := rfl
@[simp] theorem doorbellDrop_dir (b : Body) : (doorbellDrop b).dir = b.dir := rfl

@[simp] theorem fabDiscard_uid (b : Body) : (fabDiscard b).uid = b.uid := rfl
@[simp] theorem fabDiscard_free (b : Body) : (fabDiscard b).free = b.free := rfl
@[simp] theorem fabDiscard_panel (b : Body) : (fabDiscard b).panel = b.panel := rfl
@[simp] theorem fabDiscard_die (b : Body) : (fabDiscard b).die = b.die := rfl
@[simp] theorem fabDiscard_hub (b : Body) : (fabDiscard b).hub = b.hub := rfl
@[simp] theorem fabDiscard_ctx (b : Body) : (fabDiscard b).ctx = b.ctx := rfl
@[simp] theorem fabDiscard_mem (b : Body) : (fabDiscard b).mem = b.mem := rfl
@[simp] theorem fabDiscard_host (b : Body) : (fabDiscard b).host = b.host := rfl
@[simp] theorem fabDiscard_kpr (b : Body) : (fabDiscard b).kpr = b.kpr := rfl
@[simp] theorem fabDiscard_brd (b : Body) : (fabDiscard b).brd = b.brd := rfl
@[simp] theorem fabDiscard_dir (b : Body) : (fabDiscard b).dir = b.dir := rfl

@[simp] theorem squallIgnored_uid (b : Body) : (squallIgnored b).uid = b.uid := rfl
@[simp] theorem squallIgnored_free (b : Body) : (squallIgnored b).free = b.free := rfl
@[simp] theorem squallIgnored_panel (b : Body) : (squallIgnored b).panel = b.panel := rfl
@[simp] theorem squallIgnored_die (b : Body) : (squallIgnored b).die = b.die := rfl
@[simp] theorem squallIgnored_hub (b : Body) : (squallIgnored b).hub = b.hub := rfl
@[simp] theorem squallIgnored_ctx (b : Body) : (squallIgnored b).ctx = b.ctx := rfl
@[simp] theorem squallIgnored_mem (b : Body) : (squallIgnored b).mem = b.mem := rfl
@[simp] theorem squallIgnored_host (b : Body) : (squallIgnored b).host = b.host := rfl
@[simp] theorem squallIgnored_kpr (b : Body) : (squallIgnored b).kpr = b.kpr := rfl
@[simp] theorem squallIgnored_brd (b : Body) : (squallIgnored b).brd = b.brd := rfl
@[simp] theorem squallIgnored_dir (b : Body) : (squallIgnored b).dir = b.dir := rfl

@[simp] theorem addJob_uid (b : Body) (j : Job) : (addJob b j).uid = b.uid := rfl
@[simp] theorem addJob_free (b : Body) (j : Job) : (addJob b j).free = b.free := rfl
@[simp] theorem addJob_panel (b : Body) (j : Job) : (addJob b j).panel = b.panel := rfl
@[simp] theorem addJob_die (b : Body) (j : Job) : (addJob b j).die = b.die := rfl
@[simp] theorem addJob_hub (b : Body) (j : Job) : (addJob b j).hub = b.hub := rfl
@[simp] theorem addJob_mem (b : Body) (j : Job) : (addJob b j).mem = b.mem := rfl
@[simp] theorem addJob_host (b : Body) (j : Job) : (addJob b j).host = b.host := rfl
@[simp] theorem addJob_fab (b : Body) (j : Job) : (addJob b j).fab = b.fab := rfl
@[simp] theorem addJob_kpr (b : Body) (j : Job) : (addJob b j).kpr = b.kpr := rfl
@[simp] theorem addJob_brd (b : Body) (j : Job) : (addJob b j).brd = b.brd := rfl
@[simp] theorem addJob_dir (b : Body) (j : Job) : (addJob b j).dir = b.dir := rfl

@[simp] theorem d2dSet_uid (b : Body) (n : Nat) (f : D2d → D2d) : (d2dSet b n f).uid = b.uid := rfl
@[simp] theorem d2dSet_free (b : Body) (n : Nat) (f : D2d → D2d) : (d2dSet b n f).free = b.free := rfl
@[simp] theorem d2dSet_panel (b : Body) (n : Nat) (f : D2d → D2d) : (d2dSet b n f).panel = b.panel := rfl
@[simp] theorem d2dSet_die (b : Body) (n : Nat) (f : D2d → D2d) : (d2dSet b n f).die = b.die := rfl
@[simp] theorem d2dSet_hub (b : Body) (n : Nat) (f : D2d → D2d) : (d2dSet b n f).hub = b.hub := rfl
@[simp] theorem d2dSet_ctx (b : Body) (n : Nat) (f : D2d → D2d) : (d2dSet b n f).ctx = b.ctx := rfl
@[simp] theorem d2dSet_host (b : Body) (n : Nat) (f : D2d → D2d) : (d2dSet b n f).host = b.host := rfl
@[simp] theorem d2dSet_fab (b : Body) (n : Nat) (f : D2d → D2d) : (d2dSet b n f).fab = b.fab := rfl
@[simp] theorem d2dSet_kpr (b : Body) (n : Nat) (f : D2d → D2d) : (d2dSet b n f).kpr = b.kpr := rfl
@[simp] theorem d2dSet_brd (b : Body) (n : Nat) (f : D2d → D2d) : (d2dSet b n f).brd = b.brd := rfl
@[simp] theorem d2dSet_dir (b : Body) (n : Nat) (f : D2d → D2d) : (d2dSet b n f).dir = b.dir := rfl

@[simp] theorem errSync_uid (x y : Body) : (errSync x y).uid = y.uid := rfl
@[simp] theorem errSync_free (x y : Body) : (errSync x y).free = y.free := rfl
@[simp] theorem errSync_panel (x y : Body) : (errSync x y).panel = y.panel := rfl
@[simp] theorem errSync_die (x y : Body) : (errSync x y).die = y.die := rfl
@[simp] theorem errSync_hub (x y : Body) : (errSync x y).hub = y.hub := rfl
@[simp] theorem errSync_ctx (x y : Body) : (errSync x y).ctx = y.ctx := rfl
@[simp] theorem errSync_mem (x y : Body) : (errSync x y).mem = y.mem := rfl
@[simp] theorem errSync_host (x y : Body) : (errSync x y).host = y.host := rfl
@[simp] theorem errSync_fab (x y : Body) : (errSync x y).fab = y.fab := rfl
@[simp] theorem errSync_kpr (x y : Body) : (errSync x y).kpr = y.kpr := rfl
@[simp] theorem errSync_brd (x y : Body) : (errSync x y).brd = y.brd := rfl

/-! ### The changed part -/

@[simp] theorem setCtx_ctx (b : Body) (slot : Nat) (c : Ctx) : (setCtx b slot c).ctx = { b.ctx with slot := fset b.ctx.slot slot c } := rfl
@[simp] theorem modCtx_ctx (b : Body) (slot : Nat) (f : Ctx → Ctx) : (modCtx b slot f).ctx = { b.ctx with slot := fset b.ctx.slot slot (f (ctxAt b slot)) } := rfl
@[simp] theorem setPanel_panel (b : Body) (k : Nat) (p : Panel) : (setPanel b k p).panel = fset b.panel k p := rfl
@[simp] theorem modPanel_panel (b : Body) (k : Nat) (f : Panel → Panel) : (modPanel b k f).panel = fset b.panel k (f (panelAt b k)) := rfl
@[simp] theorem raise_ctx (b : Body) (f : FaultReq) : (raise b f).ctx = { b.ctx with faultq := b.ctx.faultq ++ [f] } := rfl
@[simp] theorem raiseVector_host (b : Body) (v : Nat) : (raiseVector b v).host =
    { b.host with vectors := if vecOpen b v then b.host.vectors ++ [v] else b.host.vectors
                  vpend := if vecOpen b v ∨ b.host.vpend.contains v then b.host.vpend else b.host.vpend ++ [v] } := by
  unfold raiseVector; split <;> simp_all
@[simp] theorem modStack_mem (b : Body) (n : Nat) (f : Stack → Stack) : (modStack b n f).mem = { b.mem with stack := fmod b.mem.stack n f } := rfl
@[simp] theorem modStr_mem (b : Body) (d : Nat) (f : Stratum → Stratum) : (modStr b d f).mem = { b.mem with str := fmod b.mem.str d f } := rfl
@[simp] theorem modTb_mem (b : Body) (f : TierB → TierB) : (modTb b f).mem = { b.mem with tb := f b.mem.tb } := rfl
@[simp] theorem hostWrite_host (b : Body) (a : Nat) (d : List (BitVec 8)) : (hostWrite b a d).host = { b.host with bytes := cellSetMany hostBg b.host.bytes a d } := rfl
@[simp] theorem sendFrame_fab (b : Body) (f : Frame) : (sendFrame b f).fab = { b.fab with sent := b.fab.sent ++ [f] } := rfl
@[simp] theorem modDie_die (b : Body) (d : Nat) (f : Die → Die) : (modDie b d f).die = fmod b.die d f := rfl
@[simp] theorem modAcc_dir (b : Body) (r : Nat) (f : Access → Access) : (modAcc b r f).dir = { b.dir with acc := fmod b.dir.acc r f } := rfl
@[simp] theorem modPort_fab (b : Body) (n : Nat) (f : Port → Port) : (modPort b n f).fab = { b.fab with port := fmod b.fab.port n f } := rfl
@[simp] theorem modPwr_kpr (b : Body) (f : PowerSt → PowerSt) : (modPwr b f).kpr = { b.kpr with pwr := f b.kpr.pwr } := rfl
@[simp] theorem modStart_kpr (b : Body) (f : StartSt → StartSt) : (modStart b f).kpr = { b.kpr with start := f b.kpr.start } := rfl
@[simp] theorem modFw_kpr (b : Body) (f : FwSt → FwSt) : (modFw b f).kpr = { b.kpr with fw := f b.kpr.fw } := rfl
@[simp] theorem modMbox_kpr (b : Body) (f : MboxSt → MboxSt) : (modMbox b f).kpr = { b.kpr with mbox := f b.kpr.mbox } := rfl
@[simp] theorem modFuse_kpr (b : Body) (f : FuseSt → FuseSt) : (modFuse b f).kpr = { b.kpr with fuse := f b.kpr.fuse } := rfl
@[simp] theorem modI3c_kpr (b : Body) (f : I3cSt → I3cSt) : (modI3c b f).kpr = { b.kpr with i3c := f b.kpr.i3c } := rfl
@[simp] theorem modBrd_brd (b : Body) (f : Brd → Brd) : (modBrd b f).brd = f b.brd := rfl

@[simp] theorem raiseIbi_uid (b : Body) (m p : Nat) : (raiseIbi b m p).uid = b.uid := by
  simp only [raiseIbi]; split <;> rfl
@[simp] theorem raiseIbi_free (b : Body) (m p : Nat) : (raiseIbi b m p).free = b.free := by
  simp only [raiseIbi]; split <;> rfl
@[simp] theorem raiseIbi_panel (b : Body) (m p : Nat) : (raiseIbi b m p).panel = b.panel := by
  simp only [raiseIbi]; split <;> rfl
@[simp] theorem raiseIbi_die (b : Body) (m p : Nat) : (raiseIbi b m p).die = b.die := by
  simp only [raiseIbi]; split <;> rfl
@[simp] theorem raiseIbi_hub (b : Body) (m p : Nat) : (raiseIbi b m p).hub = b.hub := by
  simp only [raiseIbi]; split <;> rfl
@[simp] theorem raiseIbi_ctx (b : Body) (m p : Nat) : (raiseIbi b m p).ctx = b.ctx := by
  simp only [raiseIbi]; split <;> rfl
@[simp] theorem raiseIbi_mem (b : Body) (m p : Nat) : (raiseIbi b m p).mem = b.mem := by
  simp only [raiseIbi]; split <;> rfl
@[simp] theorem raiseIbi_host (b : Body) (m p : Nat) : (raiseIbi b m p).host = b.host := by
  simp only [raiseIbi]; split <;> rfl
@[simp] theorem raiseIbi_fab (b : Body) (m p : Nat) : (raiseIbi b m p).fab = b.fab := by
  simp only [raiseIbi]; split <;> rfl
@[simp] theorem raiseIbi_brd (b : Body) (m p : Nat) : (raiseIbi b m p).brd = b.brd := by
  simp only [raiseIbi]; split <;> rfl
@[simp] theorem raiseIbi_dir (b : Body) (m p : Nat) : (raiseIbi b m p).dir = b.dir := by
  simp only [raiseIbi]; split <;> rfl
@[simp] theorem moduleEvent_uid (e : Env) (b : Body) (k c d h u n : Nat) : (moduleEvent e b k c d h u n).uid = b.uid := by
  simp only [moduleEvent, raiseIbi_uid, raiseVector_uid]
@[simp] theorem moduleEvent_free (e : Env) (b : Body) (k c d h u n : Nat) : (moduleEvent e b k c d h u n).free = b.free := by
  simp only [moduleEvent, raiseIbi_free, raiseVector_free]
@[simp] theorem moduleEvent_panel (e : Env) (b : Body) (k c d h u n : Nat) : (moduleEvent e b k c d h u n).panel = b.panel := by
  simp only [moduleEvent, raiseIbi_panel, raiseVector_panel]
@[simp] theorem moduleEvent_die (e : Env) (b : Body) (k c d h u n : Nat) : (moduleEvent e b k c d h u n).die = b.die := by
  simp only [moduleEvent, raiseIbi_die, raiseVector_die]
@[simp] theorem moduleEvent_hub (e : Env) (b : Body) (k c d h u n : Nat) : (moduleEvent e b k c d h u n).hub = b.hub := by
  simp only [moduleEvent, raiseIbi_hub, raiseVector_hub]
@[simp] theorem moduleEvent_ctx (e : Env) (b : Body) (k c d h u n : Nat) : (moduleEvent e b k c d h u n).ctx = b.ctx := by
  simp only [moduleEvent, raiseIbi_ctx, raiseVector_ctx]
@[simp] theorem moduleEvent_mem (e : Env) (b : Body) (k c d h u n : Nat) : (moduleEvent e b k c d h u n).mem = b.mem := by
  simp only [moduleEvent, raiseIbi_mem, raiseVector_mem]
@[simp] theorem moduleEvent_fab (e : Env) (b : Body) (k c d h u n : Nat) : (moduleEvent e b k c d h u n).fab = b.fab := by
  simp only [moduleEvent, raiseIbi_fab, raiseVector_fab]
@[simp] theorem moduleEvent_brd (e : Env) (b : Body) (k c d h u n : Nat) : (moduleEvent e b k c d h u n).brd = b.brd := by
  simp only [moduleEvent, raiseIbi_brd, raiseVector_brd]
@[simp] theorem moduleEvent_dir (e : Env) (b : Body) (k c d h u n : Nat) : (moduleEvent e b k c d h u n).dir = b.dir := by
  simp only [moduleEvent, raiseIbi_dir, raiseVector_dir]
@[simp] theorem classify_uid (e : Env) (b : Body) (ut u : Nat) (o : Bool) : (classify e b ut u o).uid = b.uid := by
  unfold classify; split
  · rfl
  · dsimp only; split
    · rfl
    · simp
@[simp] theorem histAdd_uid (e : Env) (b : Body) (ut u k st : Nat) (die : Option Nat) (cls sig row : Nat) :
    (histAdd e b ut u k st die cls sig row).uid = b.uid := by simp [histAdd, histPut]
@[simp] theorem classify_free (e : Env) (b : Body) (ut u : Nat) (o : Bool) : (classify e b ut u o).free = b.free := by
  unfold classify; split
  · rfl
  · dsimp only; split
    · rfl
    · simp
@[simp] theorem histAdd_free (e : Env) (b : Body) (ut u k st : Nat) (die : Option Nat) (cls sig row : Nat) :
    (histAdd e b ut u k st die cls sig row).free = b.free := by simp [histAdd, histPut]
@[simp] theorem classify_panel (e : Env) (b : Body) (ut u : Nat) (o : Bool) : (classify e b ut u o).panel = b.panel := by
  unfold classify; split
  · rfl
  · dsimp only; split
    · rfl
    · simp
@[simp] theorem histAdd_panel (e : Env) (b : Body) (ut u k st : Nat) (die : Option Nat) (cls sig row : Nat) :
    (histAdd e b ut u k st die cls sig row).panel = b.panel := by simp [histAdd, histPut]
@[simp] theorem classify_die (e : Env) (b : Body) (ut u : Nat) (o : Bool) : (classify e b ut u o).die = b.die := by
  unfold classify; split
  · rfl
  · dsimp only; split
    · rfl
    · simp
@[simp] theorem histAdd_die (e : Env) (b : Body) (ut u k st : Nat) (die : Option Nat) (cls sig row : Nat) :
    (histAdd e b ut u k st die cls sig row).die = b.die := by simp [histAdd, histPut]
@[simp] theorem classify_hub (e : Env) (b : Body) (ut u : Nat) (o : Bool) : (classify e b ut u o).hub = b.hub := by
  unfold classify; split
  · rfl
  · dsimp only; split
    · rfl
    · simp
@[simp] theorem histAdd_hub (e : Env) (b : Body) (ut u k st : Nat) (die : Option Nat) (cls sig row : Nat) :
    (histAdd e b ut u k st die cls sig row).hub = b.hub := by simp [histAdd, histPut]
@[simp] theorem classify_ctx (e : Env) (b : Body) (ut u : Nat) (o : Bool) : (classify e b ut u o).ctx = b.ctx := by
  unfold classify; split
  · rfl
  · dsimp only; split
    · rfl
    · simp
@[simp] theorem histAdd_ctx (e : Env) (b : Body) (ut u k st : Nat) (die : Option Nat) (cls sig row : Nat) :
    (histAdd e b ut u k st die cls sig row).ctx = b.ctx := by simp [histAdd, histPut]
@[simp] theorem classify_mem (e : Env) (b : Body) (ut u : Nat) (o : Bool) : (classify e b ut u o).mem = b.mem := by
  unfold classify; split
  · rfl
  · dsimp only; split
    · rfl
    · simp
@[simp] theorem histAdd_mem (e : Env) (b : Body) (ut u k st : Nat) (die : Option Nat) (cls sig row : Nat) :
    (histAdd e b ut u k st die cls sig row).mem = b.mem := by simp [histAdd, histPut]
@[simp] theorem classify_fab (e : Env) (b : Body) (ut u : Nat) (o : Bool) : (classify e b ut u o).fab = b.fab := by
  unfold classify; split
  · rfl
  · dsimp only; split
    · rfl
    · simp
@[simp] theorem histAdd_fab (e : Env) (b : Body) (ut u k st : Nat) (die : Option Nat) (cls sig row : Nat) :
    (histAdd e b ut u k st die cls sig row).fab = b.fab := by simp [histAdd, histPut]
@[simp] theorem classify_brd (e : Env) (b : Body) (ut u : Nat) (o : Bool) : (classify e b ut u o).brd = b.brd := by
  unfold classify; split
  · rfl
  · dsimp only; split
    · rfl
    · simp
@[simp] theorem histAdd_brd (e : Env) (b : Body) (ut u k st : Nat) (die : Option Nat) (cls sig row : Nat) :
    (histAdd e b ut u k st die cls sig row).brd = b.brd := by simp [histAdd, histPut]
@[simp] theorem classify_dir (e : Env) (b : Body) (ut u : Nat) (o : Bool) : (classify e b ut u o).dir = b.dir := by
  unfold classify; split
  · rfl
  · dsimp only; split
    · rfl
    · simp
@[simp] theorem histAdd_dir (e : Env) (b : Body) (ut u k st : Nat) (die : Option Nat) (cls sig row : Nat) :
    (histAdd e b ut u k st die cls sig row).dir = b.dir := by simp [histAdd, histPut]

end Sys2Proof.Machine
end

