-- ==== Sys2Proof/Laws/Run.lean ====
section
/-! SUPPORT. What a command answers, from what its effect makes of the body: for commands that raise no cause, the boundary adds
nothing (R310), and the error summaries and output pins are all that is added besides (R402, R375). -/

namespace Sys2Proof.Machine

/-- No cause, no effect of causes. -/
theorem applyFaults_none (e : Env) (b : Body) (h : b.ctx.faultq = []) : applyFaults e b = b := by
  obtain ⟨_, _, _, _, _, c, _, _, _, _, _, _⟩ := b
  obtain ⟨⟩ := c
  simp only at h; subst h; rfl

/-- A command that raises no cause leaves what its effect makes of the body. -/
theorem boundary_quiet (f : Env → Body → Body) (e : Env) (b : Body) (h : (f e (unqueued b)).ctx.faultq = []) :
    boundary f e b = requeued b.ctx.faultq (f e (unqueued b)) := by
  have h' : (f e { b with ctx := { b.ctx with faultq := [] } }).ctx.faultq = [] := h
  simp only [boundary, applyFaults_none _ _ h', requeued, unqueued]

/-- Setting summary bits changes nothing else of the directory. -/
theorem errAdd_shape (l : List (Nat × Nat)) (kept : Nat → Bool) (d : DirSt) :
    errAdd d kept l = { d with errSum := (errAdd d kept l).errSum, errNew := (errAdd d kept l).errNew } := by
  induction l generalizing d with
  | nil => rfl
  | cons x t ih =>
    simp only [errAdd, List.foldl_cons] at *
    rw [ih]; split <;> rfl

/-- The error summaries are all that `errSync` adds. -/
theorem leaves_errSync (s : State) (b : Body) : Leaves s { s with body := errSync s.body b } b := by
  exact congrArg (fun d => ({ s with body := { b with dir := d } } : State)) (errAdd_shape (errChanges s.body b) (errKept b) b.dir)

/-- The same with the output pins. -/
theorem leaves_pinSync (s : State) (b : Body) : Leaves s { s with body := errSync s.body (pinSync b) } b := by
  have h := leaves_errSync s (pinSync b)
  unfold Leaves at *
  exact h

variable {f : Env → Body → Body} {s : State} {b : Body}

/-- A command whose effect raises no cause answers what its effect makes of the body. -/
theorem answers_runCmd (hq : (f s.env (unqueued s.body)).ctx.faultq = [])
    (hb : requeued s.body.ctx.faultq (f s.env (unqueued s.body)) = b) : Answers (runCmd f s) s b := by
  refine ⟨_, rfl, ?_⟩
  rw [boundary_quiet f _ _ hq, hb]
  exact leaves_errSync s b

/-- The same for a command that may change what CN-H shows. -/
theorem answers_runPin (hq : (f s.env (unqueued s.body)).ctx.faultq = [])
    (hb : requeued s.body.ctx.faultq (f s.env (unqueued s.body)) = b) : Answers (runPin f s) s b := by
  refine ⟨_, rfl, ?_⟩
  rw [boundary_quiet (fun e b => pinSync (f e b)) _ _ hq, ← hb]
  exact leaves_pinSync s (requeued s.body.ctx.faultq (f s.env (unqueued s.body)))

/-- What runs on the whole body answers it. -/
theorem answers_runBody (hb : f s.env s.body = b) : Answers (runBody f s) s b := by
  refine ⟨_, rfl, ?_⟩
  rw [hb]; exact leaves_errSync s b

end Sys2Proof.Machine
end

