-- ==== Sys2Proof/Laws/Rings.lean ====
section
/-! SUPPORT. What a ring command that starts leaves, and lemmas about command words, rings, reads of memory and single ports. -/

namespace Sys2Proof.Machine

/-- What a register write over PCIe to a page that is served leaves, when it raises no cause. -/
theorem pcie_runs (s : State) (p : Pg) (o v : Nat) (b : Body) (h : served s.body p = true)
    (hq : (pageWrite s.env (noteWrite (unqueued s.body) (reqNum .pcie)) p o v).ctx.faultq = [])
    (hb : requeued s.body.ctx.faultq (pageWrite s.env (noteWrite (unqueued s.body) (reqNum .pcie)) p o v) = b) :
    Answers (runPin (fun e b => pcieWrite e b p o v) s) s b := by
  have h' : served (noteWrite (unqueued s.body) (reqNum .pcie)) p = true := h
  have e : pcieWrite s.env (unqueued s.body) p o v = pageWrite s.env (noteWrite (unqueued s.body) (reqNum .pcie)) p o v := by
    simp only [pcieWrite, h', if_true]
  exact answers_runPin (by rw [e]; exact hq) (by rw [e]; exact hb)
/-- Setting the causes aside and back. -/
theorem unq_self (b : Body) : requeued b.ctx.faultq (unqueued b) = b := rfl

section
variable {s : State} {r : RingRef} {w : BitVec 512} {opc : Nat} {k : CmdSpec}

/-- No field but the opcode depends on the opcode byte. -/
theorem hdr_putOpc (w : BitVec 512) (o hi lo opc : Nat) (ho : 1 ≤ o) : hdrField (putBits w 0 8 opc) o hi lo = hdrField w o hi lo := by
  have : (putBits w 0 8 opc).toNat / 2^8 = w.toNat / 2^8 := by
    simp only [putBits, BitVec.toNat_ofNat]; have := w.isLt; omega
  simp only [hdrField, fld, Nat.shiftRight_eq_div_pow]
  have e : ∀ x : Nat, x / 2^(8*o) = x / 2^8 / 2^(8*(o-1)) := by
    intro x; rw [Nat.div_div_eq_div_mul, ← Nat.pow_add]; congr 2; omega
  rw [e, this, ← e]

/-- What a command leaves is what its effect makes of the body, with its causes taken. -/
theorem answers_settled {f : Env → Body → Body} {b : Body} (hb : f s.env (unqueued s.body) = b) : Answers (runCmd f s) s (settled s b) := by
  subst hb; exact ⟨_, rfl, leaves_errSync s _⟩

/-- The current handles do not depend on the rings. -/
theorem handleOf_take (e : Env) (b : Body) (r : RingRef) (x : BitVec 512) (n : Nat) :
    handleOf e (takeEntry (unqueued b) r x).2 n = handleOf e b n := by
  cases r with
  | admin => rfl
  | ctx a k =>
    have h : (ctxAt (takeEntry (unqueued b) (.ctx a k) x).2 n).id = (ctxAt b n).id := by
      by_cases hn : n = a.val
      · subst hn; simp [takeEntry, modRing, freshUid, ctxAt, modCtx, setCtx, unqueued]
      · simp [takeEntry, modRing, freshUid, ctxAt, modCtx, setCtx, unqueued, fget_fset_ne _ _ hn]
    simp only [handleOf, h]; rfl

/-- A command that starts and is accepted leaves its own act. -/
theorem starts_run (h : Starts s r w opc k) :
    Answers (runCmd (startRow opc k r w) s) s (settled s (k.act (cmdOf s r w opc) (begun s r w opc))) := by
  refine answers_settled ?_
  have hq : handleOf s.env (takeEntry (unqueued s.body) r (putBits w 0 8 opc)).2 (wordSlot r (putBits w 0 8 opc)) =
      handleOf s.env s.body (wordSlot r (putBits w 0 8 opc)) := handleOf_take _ _ _ _ _
  have hm : mayStart s.env (unqueued s.body) r (putBits w 0 8 opc) = true := h.may
  have hr := h.ring
  have hh := h.handle
  have hc := h.clean
  have hl := h.logged
  have hs : ¬ (r = .admin ∧ 2 ≤ k.adm) →
      staleHandle s.env (takeEntry (unqueued s.body) r (putBits w 0 8 opc)).2 (wordSlot r (putBits w 0 8 opc)) (putBits w 0 8 opc) = false := by
    intro hn
    rw [if_neg hn] at hh
    simp [staleHandle, hdr_putOpc _ 4 _ _ _ (by omega), hq, ← hh.2, hh.1]
  have ha : acceptCommand (cmdOf s r w opc) k.adm k.fs k.act false (takeEntry (unqueued s.body) r (putBits w 0 8 opc)).2
      = k.act (cmdOf s r w opc) (begun s r w opc) := by
    simp only [acceptCommand, cmdOf, hdr_putOpc _ 4 _ _ _ (by omega), hdr_putOpc _ 1 _ _ _ (by omega)]
    by_cases hadm : r = .admin
    · subst hadm
      simp only [begun, if_true] at hh ⊢
      by_cases h2 : 2 ≤ k.adm
      · simp [h2] at hh hc hr ⊢
        simp [hr, hh, hc]
      · have := hs (by simp [h2])
        simp [h2] at hh hc hr ⊢
        simp [hr, hc, this]
    · have := hs (by simp [hadm])
      simp only [begun, hadm, if_false, false_and] at hh ⊢
      simp only [hadm, if_false] at hr
      simp [this, hc.1]
      intro a b; omega
  rw [← ha]
  simp only [startRow, startCommand, hm]
  simp only [Bool.not_true, Bool.false_eq_true, if_false]
  have hx : (!(if r = .admin ∨ staleHandle s.env (unqueued s.body) ((ringSlot r).getD (hdrField (putBits w 0 8 opc) 4 11 0)) (putBits w 0 8 opc) = true
        then ([] : List Nat) else buddyUnits (unqueued s.body) ((ringSlot r).getD (hdrField (putBits w 0 8 opc) 4 11 0))).isEmpty
      && (ringAt (unqueued s.body) r).logAcks != some []) = false := by
    rcases hl with hl | hl | hl
    · simp [hl]
    · have hl' : buddyUnits (unqueued s.body) ((ringSlot r).getD (hdrField (putBits w 0 8 opc) 4 11 0)) = [] := hl
      simp [hl']
    · have hl' : (ringAt (unqueued s.body) r).logAcks = some [] := by
        cases r <;> exact hl
      simp [hl']
  rw [hx]; rfl
end

/-- Byte 16 of a command whose sub-form is `k`. -/
theorem at16_put (w : BitVec 512) (k opc : Nat) : ((putBits (putBits w 128 8 k) 0 8 opc).toNat >>> (8*16)) % 256^1 = k % 256 := by
  simp only [putBits, BitVec.toNat_ofNat, Nat.shiftRight_eq_div_pow]
  have := w.isLt
  omega

/-- Bit 0 of byte 16 of a command whose sub-form is `k`. -/
theorem bit16_put (w : BitVec 512) (k opc : Nat) : fld ((putBits (putBits w 128 1 k) 0 8 opc).toNat >>> (8*16)) 0 0 = k % 2 := by
  simp only [fld, putBits, BitVec.toNat_ofNat, Nat.shiftRight_eq_div_pow]
  have := w.isLt
  omega

/-- The opcode of a command. -/
theorem at_opc (w : BitVec 512) (opc : Nat) : hdrField (putBits w 0 8 opc) 0 7 0 = opc % 256 := by
  simp only [hdrField, fld, putBits, BitVec.toNat_ofNat, Nat.shiftRight_eq_div_pow]
  have := w.isLt
  omega

/-- A command whose opcode is `c` already. -/
theorem putBits_opc_self (w : BitVec 512) (c : Nat) (h : w.toNat % 256 = c % 256) : putBits w 0 8 c = w := by
  apply BitVec.eq_of_toNat_eq
  simp only [putBits, BitVec.toNat_ofNat]
  have := w.isLt
  omega

/-- The opcode of a command that row `c` spells. -/
theorem opc_of (v w : BitVec 512) (c : Nat) (hc : c < 256) (h : putBits v 0 8 c = w) : hdrField w 0 7 0 = c := by
  rw [← h, at_opc, Nat.mod_eq_of_lt hc]

/-- Byte 16 of a SCAFFOLD command. -/
theorem at16_put2 (w : BitVec 512) (k a opc : Nat) : ((putBits (putBits (putBits w 128 8 k) 136 8 a) 0 8 opc).toNat >>> (8*16)) % 256^1 = k % 256 := by
  simp only [putBits, BitVec.toNat_ofNat, Nat.shiftRight_eq_div_pow]
  have := w.isLt
  omega

/-- Byte 17 of a SCAFFOLD command. -/
theorem at17_put2 (w : BitVec 512) (k a opc : Nat) : ((putBits (putBits (putBits w 128 8 k) 136 8 a) 0 8 opc).toNat >>> (8*17)) % 256^1 = a % 256 := by
  simp only [putBits, BitVec.toNat_ofNat, Nat.shiftRight_eq_div_pow]
  have := w.isLt
  omega

/-- A line that a cache takes changes the strata and their marks only. -/
theorem cacheFill_shape (b : Body) (a : Nat) : ∃ str sp, cacheFill b a = { b with mem := { b.mem with str := str, spoison := sp } } := by
  unfold cacheFill; dsimp only; split
  · exact ⟨_, _, rfl⟩
  · exact ⟨_, _, rfl⟩

/-- With no bad line, a line read finds nothing. -/
theorem findLine_nobad (e : Env) (by_ : Option Nat) (own : Bool) (b : Body) (l : Nat) (h : b.mem.bad = []) : findLine e by_ own b l = b := by
  unfold findLine; rw [h]; rfl

/-- With no bad line, a read changes the strata's caches only, with their marks. -/
theorem findSegs_nobad (e : Env) (by_ : Option Nat) (b : Body) (gs : List Seg) (h : b.mem.bad = []) :
    ∃ str sp, findSegs e by_ b gs = { b with mem := { b.mem with str := str, spoison := sp } } := by
  have hf : ∀ (ps : List (Nat × Nat)) (b : Body), b.mem.bad = [] → ∃ str sp,
      ps.foldl (fun b p => if serveRead b p.1 = .ok then cacheFill (findLine e by_ false b (p.1 / 64)) p.1 else b) b =
        { b with mem := { b.mem with str := str, spoison := sp } } := by
    intro ps
    induction ps with
    | nil => intro b _; exact ⟨b.mem.str, b.mem.spoison, rfl⟩
    | cons p t ih =>
      intro b hb
      simp only [List.foldl_cons]
      split
      · rw [findLine_nobad _ _ _ _ _ hb]
        obtain ⟨x, y, hxy⟩ := cacheFill_shape b p.1
        rw [hxy]
        obtain ⟨u, v, huv⟩ := ih { b with mem := { b.mem with str := x, spoison := y } } hb
        exact ⟨u, v, huv⟩
      · exact ih b hb
  unfold findSegs
  induction gs generalizing b with
  | nil => exact ⟨b.mem.str, b.mem.spoison, rfl⟩
  | cons g t ih =>
    simp only [List.foldl_cons]
    split
    · exact ih b h
    · obtain ⟨x, y, hxy⟩ := hf (linePieces (g.len / 64 + 2) g.addr g.len) b h
      rw [hxy]
      obtain ⟨u, v, huv⟩ := ih { b with mem := { b.mem with str := x, spoison := y } } h
      exact ⟨u, v, huv⟩

/-- With no bad line, a read of context memory changes the strata's caches only, with their marks. -/
theorem findRange_nobad (e : Env) (slot : Nat) (b : Body) (va n : Nat) (h : b.mem.bad = []) :
    ∃ str sp, findRange e slot b va n = { b with mem := { b.mem with str := str, spoison := sp } } := by
  unfold findRange; split
  · exact findSegs_nobad _ _ _ _ h
  · exact ⟨b.mem.str, b.mem.spoison, rfl⟩

/-- A ring change leaves the panels. -/
theorem modRing_panel (b : Body) (r : RingRef) (f : Ring → Ring) : (modRing b r f).panel = b.panel := by cases r <;> rfl

/-- Counting a record for its interrupt leaves the panels. -/
theorem countIrq_panel (e : Env) (b : Body) (r : RingRef) : (countIrq e b r).panel = b.panel := by
  unfold countIrq; split
  · exact raiseVector_panel _ _
  · dsimp only; split <;> simp only [raiseVector_panel, modRing_panel]

/-- A completion record leaves the panels. -/
theorem writeRecord_panel (e : Env) (b : Body) (r : RingRef) (k st i : Nat) (res u : BitVec 32) (q : Bool) : (writeRecord e b r k st i res u q).panel = b.panel := by
  unfold writeRecord; dsimp only
  split <;> (try rw [countIrq_panel]) <;> rw [modRing_panel] <;> split <;> rfl

/-- No ring depends on the causes that wait. -/
theorem ringAt_unq (b : Body) (r : RingRef) : ringAt (unqueued b) r = ringAt b r := by cases r <;> rfl

/-- A ring whose commands in flight change. -/
theorem ringAt_modRing_fly' (b : Body) (r : RingRef) (g : List Flight → List Flight) :
    (ringAt (modRing b r fun x => { x with fly := g x.fly }) r) = { ringAt b r with fly := g (ringAt b r).fly } := by
  cases r with
  | admin => rfl
  | ctx n k => simp [ringAt, modRing, modCtx, setCtx, ctxAt]

/-- A port after a change of one port. -/
theorem modPort_get (b : Body) (n m : Nat) (f : Port → Port) : fget (modPort b n f).fab.port m = if m = n then f (fget b.fab.port n) else fget b.fab.port m := by
  simp [modPort, fmod, fget_fset]

/-- The next segment that Sander takes. -/
theorem find_next (q : Sander) (n : Nat) (h1 : q.next = n) (h2 : n < 2564) (h3 : segOn q n = true) (h4 : n ∉ q.first) :
    (List.range 2564).find? (fun n => decide (q.next ≤ n) && segOn q n && !q.first.contains n) = some n := by
  rw [List.find?_range_eq_some]
  subst h1
  refine ⟨by simp [h3, h4], by simp; exact h2, ?_⟩
  intro j hj
  have h : decide (q.next ≤ j) = false := decide_eq_false (by omega)
  simp [h]

end Sys2Proof.Machine
end

