-- ==== Sys2Proof/Laws/Slots.lean ====
section
/-! SUPPORT. What a slot row leaves of its thread, its panel and the rest, from what its plan asks for; what ends a loop body. -/

namespace Sys2Proof.Machine

/-- The body once the tags and the token of a slot that asks for `a` are taken. -/
def slotTaken (b : Body) (k th : Nat) (a : Act) : Body :=
  let b0 := modPanel { b with uid := b.uid + 1 } k fun p => p.takeTags a.tags
  match a.tok with | some n => modPanel b0 k fun p => p.modThread th fun t => t.tokUp n | none => b0

/-- The body once a thread that issued `a` goes on at `pc` with `loops`. -/
def slotDone (ic : IC) (a : Act) (pc : Nat) (loops : List LoopEnt) (b2 : Body) : Body :=
  let b3 := modPanel b2 ic.k fun p => { p with seq := { p.seq with lastIssue := some ic.cyc } }
  let b4 : Body := { b3 with kpr := { b3.kpr with pwr := { b3.kpr.pwr with lastIssue := ic.e.clk.tick } } }
  modPanel b4 ic.k fun p => p.modThread ic.th fun t =>
        { t with pc := pc, loops := loops, mark := t.mark, idle := 0, st := if a.wait.isSome then .wait else t.st
                 wait := a.wait.map fun w => ⟨w, ic.cyc, ic.e.tick, false, ic.c.set.waitLim, ic.pc⟩ }

/-- What issuing a bundle of one slot leaves, when the slot is not skipped and has its tags and its token. -/
theorem issueCore_go (ic : IC) (b : Body) (sl opc : Nat) (loop : Bool) (a : Act) (ht : a.tags ≤ tagsFree ic.p)
    (hk : ∀ n, a.tok = some n → ic.t.token n ≤ 1022) (b2 : Body)
    (h2 : a.run (ic.ins (b.uid + 1) sl opc) (slotTaken b ic.k ic.th a) = b2) (hq : b2.ctx.faultq = b.ctx.faultq)
    (pc : Nat) (loops : List LoopEnt) (hf : follow ic.t ic.pc ic.next (if sl = 0 then a.flow else .seq) = some (pc, loops)) :
    issueCore ic b 0 [⟨sl, opc, loop, .go a⟩] =
      slotDone ic a pc loops b2 := by
  have htok : tokenTest ic.t [] [⟨sl, opc, loop, .go a⟩] = [⟨sl, opc, loop, .go a⟩] := by
    simp only [tokenTest]
    cases h : a.tok with
    | none => rfl
    | some n =>
      have h1 := hk n h
      have h2 : decide (1023 < ic.t.token n + ([].filter (fun x : Nat => x == n)).length + 1) = false := by
        apply decide_eq_false; simp only [List.filter_nil, List.length_nil]; omega
      simp only [h2]; simp
  simp only [issueCore, htok]
  have hn : ¬ tagsFree ic.p < tagsOf [⟨sl, opc, loop, .go a⟩] := by simp [tagsOf]; omega
  have hrun : runSlot ic b ⟨sl, opc, loop, .go a⟩ = b2 := by
    have hfa : faultedAt (ic.ins (b.uid + 1) sl opc) { b with uid := b.uid + 1 } b2 = false := by
      simp [faultedAt, hq]
    simp only [slotTaken] at h2
    cases hh : a.tok with
    | none =>
      simp only [hh] at h2
      simp only [runSlot, freshUid, hh, h2, hfa]; rfl
    | some n =>
      simp only [hh] at h2
      simp only [runSlot, freshUid, hh, h2, hfa]; rfl
  have hflow : flowOf [⟨sl, opc, loop, .go a⟩] = if sl = 0 then a.flow else .seq := by
    simp only [flowOf, List.find?]
    by_cases h : sl = 0
    · simp [h]
    · have h' : (sl == 0) = false := by simp [h]
      simp only [h', h, if_false]
  have hw : waitOf [⟨sl, opc, loop, .go a⟩] = a.wait := by
    simp [waitOf, List.findSome?]; cases a.wait <;> rfl
  rw [if_neg hn]
  have hz : (0 % 64 ≠ 0) = False := by simp
  simp only [List.foldl, hz, if_false, hrun, hflow, hf, hw]
  simp only [slotDone, bit, Nat.zero_testBit, fld]
  simp

theorem panelAt_modPanel (b : Body) (k j : Nat) (f : Panel → Panel) :
    panelAt (modPanel b k f) j = if j = k then f (panelAt b k) else panelAt b j := by
  simp only [panelAt, modPanel, setPanel, fget_fset]

theorem leaves_panel {s s' : State} {b : Body} (h : Leaves s s' b) : s'.body.panel = b.panel := by
  unfold Leaves at h; rw [h]

/-- The panel after thread `th` of panel `P` has issued a slot that asks for `a`, whose own effect on the panel is `f`. -/
def panelAfter (s : State) (t : ThreadRef) (k : Nat) (a : Act) (f : Panel → Panel) (pc : Nat) (loops : List LoopEnt) (P : Panel) : Panel :=
  let q := P.takeTags a.tags
  let q := match a.tok with | some n => q.modThread t.th.val fun x => x.tokUp n | none => q
  let q := f q
  let q := { q with seq := { q.seq with lastIssue := some s.clk.cyc } }
  q.modThread t.th.val fun x => { x with
          pc := pc, loops := loops, idle := 0, st := if a.wait.isSome then .wait else x.st
          wait := a.wait.map fun w => ⟨w, s.clk.cyc, s.clk.tick.toNat, false, (ctxAt s.body (threadAt s t k).slot).set.waitLim, (threadAt s t k).pc⟩ }

/-- What a slot row leaves, when the slot is not skipped and has its tags and its token: the thread's panel, the other panels, the rest. -/
theorem slot_runs {s : State} {t : ThreadRef} {k sl opc w : Nat} {plan : IC → Nat → Plan} {a : Act}
    (h : MayIssue s t k) (hp : plan (place s t k sl) (withOpc sl opc w) = .go a)
    (ht : a.tags ≤ tagsFree (panelAt s.body k)) (hk : ∀ n, a.tok = some n → (threadAt s t k).token n ≤ 1022)
    {pc : Nat} {loops : List LoopEnt}
    (hf : follow (threadAt s t k) (threadAt s t k).pc (((threadAt s t k).pc + 2 + slotBits sl / 8) % 2 ^ 48)
      (if sl = 0 then a.flow else .seq) = some (pc, loops))
    (f : Panel → Panel) (rest : Body → Body)
    (hr : ∀ b : Body, physOf b t.die.val t.lp.val = physOf s.body t.die.val t.lp.val → b.ctx = s.body.ctx →
       ∃ p1, a.run (insAt s t k sl opc) b = rest { b with panel := p1 } ∧ fget p1 k = f (panelAt b k) ∧ ∀ j, j ≠ k → fget p1 j = panelAt b j)
    (h1 : ∀ (b : Body), (rest b).panel = b.panel) (h2 : ∀ (b : Body), (rest b).ctx.faultq = b.ctx.faultq)
    (h3 : ∀ (b : Body) p l, rest { b with panel := p, kpr := { b.kpr with pwr := { b.kpr.pwr with lastIssue := l } } } =
      { rest b with panel := p, kpr := { (rest b).kpr with pwr := { (rest b).kpr.pwr with lastIssue := l } } }) :
    ∃ s', runSlotRow sl opc plan t w s = .next s' ∧
      panelAt s'.body k = panelAfter s t k a f pc loops (panelAt s.body k) ∧
      (∀ j, j ≠ k → panelAt s'.body j = panelAt s.body j) ∧
      Leaves s s' (rest { s.body with
        uid := s.body.uid + 1
        panel := s'.body.panel
        kpr := { s.body.kpr with pwr := { s.body.kpr.pwr with lastIssue := s.clk.tick } } }) := by
  obtain ⟨pp, e1, e2, e3, e4, e5, e6⟩ := h
  subst e2
  obtain ⟨p1, r1, r2, r3⟩ := hr (slotTaken s.body (pkey t.die.val pp) t.th.val a) (by simp only [slotTaken]; cases a.tok <;> rfl)
    (by simp only [slotTaken]; cases a.tok <;> rfl)
  have hY : { slotTaken s.body (pkey t.die.val pp) t.th.val a with panel := p1 } = ({ s.body with uid := s.body.uid + 1, panel := p1 } : Body) := by
    simp only [slotTaken]; cases a.tok <;> rfl
  have key : issueSlot sl opc plan t w s.env s.body =
      slotDone (place s t (pkey t.die.val pp) sl) a pc loops (rest { s.body with uid := s.body.uid + 1, panel := p1 }) := by
    unfold issueSlot
    simp only [e1]
    rw [if_pos ⟨e3, e4, e5, e6⟩]
    have hp' : plan (icOf s.env s.body (pkey t.die.val pp) t.die.val t.lp.val t.th.val
      ((panelAt s.body (pkey t.die.val pp)).thread t.th.val).pc
      ((((panelAt s.body (pkey t.die.val pp)).thread t.th.val).pc + 2 + slotBits sl / 8) % 2 ^ 48)) (withOpc sl opc w) = .go a := hp
    rw [hp', ← hY, ← r1]
    refine issueCore_go (place s t (pkey t.die.val pp) sl) s.body sl opc _ a ht hk _ rfl ?_ pc loops hf
    show (a.run (insAt s t (pkey t.die.val pp) sl opc) (slotTaken s.body (pkey t.die.val pp) t.th.val a)).ctx.faultq = s.body.ctx.faultq
    rw [r1, h2, hY]
  obtain ⟨s', hs, hl⟩ := answers_runBody (f := issueSlot sl opc plan t w) (s := s) key
  have hpan := leaves_panel hl
  have hk' : (place s t (pkey t.die.val pp) sl).k = pkey t.die.val pp := rfl
  have hth' : (place s t (pkey t.die.val pp) sl).th = t.th.val := rfl
  have pan : ∀ j, panelAt s'.body j = panelAt (slotDone (place s t (pkey t.die.val pp) sl) a pc loops (rest { s.body with uid := s.body.uid + 1, panel := p1 })) j := by
    intro j; simp only [panelAt, hpan]
  have prp : ∀ j, panelAt (rest { s.body with uid := s.body.uid + 1, panel := p1 }) j = fget p1 j := by intro j; simp only [panelAt, h1]
  have pk : ∀ (b : Body) v j, panelAt { b with kpr := v } j = panelAt b j := fun _ _ _ => rfl
  have pu : ∀ (b : Body) v j, panelAt { b with uid := v } j = panelAt b j := fun _ _ _ => rfl
  refine ⟨s', hs, ?_, ?_, ?_⟩
  · rw [pan]; simp only [panelAfter, slotDone, panelAt_modPanel, hk', hth', pk, if_true, prp, r2, slotTaken]
    cases a.tok <;> simp only [panelAt_modPanel, if_true, pu] <;> rfl
  · intro j hj; rw [pan]; simp only [slotDone, panelAt_modPanel, hk', hth', pk, if_neg hj, prp, r3 j hj, slotTaken]
    cases a.tok <;> simp only [panelAt_modPanel, if_neg hj, pu]
  · have h3' := h3 { s.body with uid := s.body.uid + 1, panel := p1 } s'.body.panel s.clk.tick
    have e : slotDone (place s t (pkey t.die.val pp) sl) a pc loops (rest { s.body with uid := s.body.uid + 1, panel := p1 }) =
       rest { s.body with
        uid := s.body.uid + 1
        panel := s'.body.panel
        kpr := { s.body.kpr with pwr := { s.body.kpr.pwr with lastIssue := s.clk.tick } } } := by
      refine Eq.trans ?_ h3'.symm
      rw [hpan]; rfl
    rw [e] at hl; exact hl

/-- The common case: no tags, no token, the slot's own effect a change `f` of its panel. -/
theorem issued_of {s : State} {t : ThreadRef} {k sl opc w : Nat} {plan : IC → Nat → Plan} {a : Act}
    (h : MayIssue s t k) (hp : plan (place s t k sl) (withOpc sl opc w) = .go a)
    (ht : a.tags ≤ tagsFree (panelAt s.body k)) (hk : ∀ n, a.tok = some n → (threadAt s t k).token n ≤ 1022)
    {pc : Nat} {loops : List LoopEnt}
    (hf : follow (threadAt s t k) (threadAt s t k).pc (((threadAt s t k).pc + 2 + slotBits sl / 8) % 2 ^ 48)
      (if sl = 0 then a.flow else .seq) = some (pc, loops))
    (f : Panel → Panel) (rest : Body → Body)
    (hr : ∀ b : Body, physOf b t.die.val t.lp.val = physOf s.body t.die.val t.lp.val → b.ctx = s.body.ctx →
       ∃ p1, a.run (insAt s t k sl opc) b = rest { b with panel := p1 } ∧ fget p1 k = f (panelAt b k) ∧ ∀ j, j ≠ k → fget p1 j = panelAt b j)
    (h1 : ∀ (b : Body), (rest b).panel = b.panel) (h2 : ∀ (b : Body), (rest b).ctx.faultq = b.ctx.faultq)
    (h3 : ∀ (b : Body) p l, rest { b with panel := p, kpr := { b.kpr with pwr := { b.kpr.pwr with lastIssue := l } } } =
      { rest b with panel := p, kpr := { (rest b).kpr with pwr := { (rest b).kpr.pwr with lastIssue := l } } })
    (x : Thread → Thread) (p : Panel → Panel)
    (hx : ∀ P : Panel, P = panelAt s.body k →
      let Q := panelAfter s t k a f pc loops P
      Q.thread t.th.val = x (P.thread t.th.val) ∧ (∀ th, th ≠ t.th.val → Q.thread th = P.thread th) ∧
      Q = p { P with seq := { P.seq with lastIssue := some s.clk.cyc, thr := Q.seq.thr } }) :
    Issued (runSlotRow sl opc plan t w s) s t k x p rest := by
  obtain ⟨s', g1, g2, g3, g4⟩ := slot_runs h hp ht hk hf f rest hr h1 h2 h3
  have hx' := hx _ rfl
  dsimp only at hx'
  rw [← g2] at hx'
  exact ⟨s', g1, hx'.1, hx'.2.1, hx'.2.2, g3, g4⟩

/-- The fields of a slot below its opcode are those of the word given. -/
theorem fld_withOpc {sl opc w hi lo : Nat} (h : hi + 1 ≤ slotBits sl - 6) : fld (withOpc sl opc w) hi lo = fld w hi lo := by
  apply Nat.eq_of_testBit_eq
  intro i
  simp only [fld, Nat.testBit_mod_two_pow, Nat.testBit_shiftRight, withOpc]
  by_cases hi' : i < hi + 1 - lo
  · simp only [hi', decide_true, Bool.true_and]
    rw [Nat.add_comm, Nat.mul_comm, Nat.testBit_two_pow_mul_add _ (Nat.mod_lt _ (Nat.two_pow_pos _))]
    rw [if_pos (by omega), Nat.testBit_mod_two_pow]
    simp; omega
  · simp [hi']

/-- The panel of the instruction a thread issues is the thread's. -/
theorem insKey_eq {s : State} {t : ThreadRef} {k sl opc : Nat} (h : MayIssue s t k) (b : Body)
   (hb : physOf b t.die.val t.lp.val = physOf s.body t.die.val t.lp.val) : insKey b (insAt s t k sl opc) = k := by
  obtain ⟨pp, e1, e2, -⟩ := h
  show pkey t.die.val ((physOf b t.die.val t.lp.val).getD 0) = k
  rw [hb, e1, e2]; rfl

/-- A result pushed changes the issuing thread only. -/
theorem run_res {s : State} {t : ThreadRef} {k sl opc : Nat} (h : MayIssue s t k) (d : Dest) (v : BitVec 64) (po : Bool) (lat : Nat) (b : Body)
   (hb : physOf b t.die.val t.lp.val = physOf s.body t.die.val t.lp.val) :
   ∃ p1, pushRes (insAt s t k sl opc) d v po lat b = id { b with panel := p1 } ∧
    fget p1 k = (panelAt b k).modThread t.th.val (fun x => { x with res := lands s lat d v po x }) ∧ ∀ j, j ≠ k → fget p1 j = panelAt b j := by
  refine ⟨_, rfl, ?_, ?_⟩
  · rw [insKey_eq h b hb, fget_fset_same]; rfl
  · intro j hj; rw [insKey_eq h b hb, fget_fset_ne _ _ hj]; rfl

/-- A slot that is no branch goes on where the loops that end here send it. -/
theorem seq_flow (s : State) (t : ThreadRef) (k n : Nat) : follow (threadAt s t k) (threadAt s t k).pc n .seq =
   some ((loopEnds (threadAt s t k).pc n (threadAt s t k).loops).1, (loopEnds (threadAt s t k).pc n (threadAt s t k).loops).2) := rfl

/-- What a scalar slot whose only effect is a result leaves. -/
theorem scalar_result {s : State} {t : ThreadRef} {k sl opc w lat : Nat} {plan : IC → Nat → Plan} {d : Dest} {v : BitVec 64} {po : Bool}
    (h : MayIssue s t k) (hsl : slotBits sl = 32)
    (hp : plan (place s t k sl) (withOpc sl opc w) = .go { run := fun i b => pushRes i d v po lat b }) :
    Issued (runSlotRow sl opc plan t w s) s t k (fun q =>
      { goesOn 6 q with res := lands s lat d v po q }) id id := by
  refine issued_of h hp (Nat.zero_le _) (by intro n hn; cases hn) (pc := (loopEnds (threadAt s t k).pc (((threadAt s t k).pc + 6) % 2^48) (threadAt s t k).loops).1)
    (loops := (loopEnds (threadAt s t k).pc (((threadAt s t k).pc + 6) % 2^48) (threadAt s t k).loops).2) ?_
    (fun p => p.modThread t.th.val (fun x => { x with res := lands s lat d v po x })) id ?_ (fun _ => rfl) (fun _ => rfl) (fun _ _ _ => rfl) _ _ ?_
  · simp only [hsl, ite_self]; rfl
  · intro b hb _; exact run_res h d v po lat b hb
  · intro P hP
    simp only [panelAfter, Panel.takeTags, Panel.modThread, Panel.setThread, Panel.thread, fget_fset_same, goesOn, threadAt, ← hP]
    refine ⟨?_, ?_, ?_⟩
    · simp [Option.map]
    · intro th hth; rw [fget_fset_ne _ _ hth, fget_fset_ne _ _ hth]
    · rfl

/-- Entries that end here with one time left go, and the entry below decides. -/
theorem loopEnds_outs (pc next : Nat) (outs rest : List LoopEnt) (h : ∀ x ∈ outs, x.last = pc ∧ x.cnt = 1) :
    loopEnds pc next (outs ++ rest) = loopEnds pc next rest := by
  induction outs with
  | nil => rfl
  | cons x xs ih =>
    have := h x (by simp)
    simp only [List.cons_append, loopEnds, this.1, this.2, if_true]
    simpa using ih fun y hy => h y (by simp [hy])

end Sys2Proof.Machine
end

