-- ==== Sys2Proof/Tests/Slice0.lean ====
section
/-! SUPPORT. Tests on small states: ill-formed terms that WellFormed refuses, effects of single commands on fixed values, and for each
statement of `Certificates/Slice0/Obligations.lean` a witness: a concrete state and operands that meet its hypotheses. -/

namespace Sys2Proof.Tests
open Sys2Proof Sys2Proof.Machine

set_option Elab.async false

/-- Thread 0 of logical panel 0 of die 0. -/
def t0 : ThreadRef := ⟨0, 0, 0⟩

/-- The machine after reset with context `c` in slot 5 and thread `q` as thread 0 of panel 0 of die 0, owner of roller position 0, in C cycle
1,600; the panel is changed by `f`. -/
def world (q : Thread) (c : Ctx) (f : Panel → Panel := id) : State :=
  { State.reset with clk := ⟨0, 1600, 1600⟩, body := { Body.reset with
    panel := (0, f { (default : Panel) with seq := { (default : Seq) with roller := [(0, some 0)], thr := [(0, q)] } }) :: Body.reset.panel
    ctx := { Body.reset.ctx with slot := [(5, c)] } } }

/-- A LIVE context of job 7 whose first 2 MiB are module memory. -/
def live : Ctx :=
  { (default : Ctx) with id := { (default : CtxId) with st := .live, job := 7 }, xl := [(0, ⟨true, false, 3, true, false⟩)] }

/-- A running thread of that context. -/
def runs : Thread := { (default : Thread) with st := .run, slot := 5, pc := 0x1000 }

theorem may (q : Thread) (c : Ctx) (f : Panel → Panel) (h : q.st = .run) (h' : q.idle = 0)
    (hf : let p := f { (default : Panel) with seq := { (default : Seq) with roller := [(0, some 0)], thr := [(0, q)] } };
      p.seq.roller = [(0, some 0)] ∧ p.seq.thr = [(0, q)] ∧ p.st = .active ∧ p.rotUntil = 0 ∧ p.seq.lastIssue = none) :
    MayIssue (world q c f) t0 0 := by
  obtain ⟨h1, h2, h3, h4, h5⟩ := hf
  refine ⟨0, rfl, rfl, ?_, ?_, ?_, ?_⟩
  · have : panelAt (world q c f).body 0 = f { (default : Panel) with seq := { (default : Seq) with roller := [(0, some 0)], thr := [(0, q)] } } := rfl
    rw [this]; simp only [panelRuns, h3, h4, h5]; rfl
  · have h0 : dieCyc (world q c f).body 0 1600 % 16 = 0 := by
      have : (fget (world q c f).body.die 0).cycBase = 0 := rfl
      simp [dieCyc, this]
    show fget (f _).seq.roller (dieCyc (world q c f).body 0 1600 % 16) = some 0
    rw [h0, h1]; rfl
  · show (fget (f _).seq.thr 0).st = .run
    rw [h2]; exact h
  · show (fget (f _).seq.thr 0).idle = 0
    rw [h2]; exact h'

theorem witness_issue : MayIssue (world runs live) t0 0 := may _ _ _ rfl rfl ⟨rfl, rfl, rfl, rfl, rfl⟩

/-! ### Registers and logs: witnesses -/

theorem witness_LogsAndCountersClear : served Body.reset (.ctx 0) = true ∧ served Body.reset (.ctx 4095) = true ∧
    (∀ n : Fin 8, served Body.reset (.hbm n.val) = true) ∧ served Body.reset .tb = true ∧
    (∀ d : Fin 4, served Body.reset (.str d.val) = true) ∧ served Body.reset .kpr = true := by decide +kernel

theorem witness_RetireMarksPanel : served Body.reset (.pnl (pkey 3 7)) = true ∧ (panelAt Body.reset (pkey 3 7)).st = .active := by
  decide +kernel

theorem witness_ErrorSummaryTestAndClear : pageAt 0x8FFF = some (.ctx 4095) ∧ served Body.reset (.ctx 4095) = true ∧
    pageAt 0 = some .dir ∧ served Body.reset .dir = true := by decide +kernel

theorem witness_AccessesAreReceivedOrCounted :
    pageAt (0x8005040 / 4096) = some (.ctx 5) ∧ mayWrite (world runs live).body .pcie (.ctx 5) = true ∧
    mayWrite (world runs live).body (.thread ⟨0, 0⟩ 0) (.ctx 5) = true ∧ mayWrite Body.reset .i3c .kpr = true ∧
    malformed 2 4 = true ∧ malformed 4 8 = true ∧ malformed 0 1 = true ∧
    Body.reset.kpr.pwr.off = false ∧ Body.reset.kpr.pwr.hold = 0 ∧ Body.reset.kpr.pwr.st ≠ .night := by decide +kernel

/-- The reset state with a held low word of `HST_ARCPL`. -/
def heldLow : State :=
  { State.reset with body := { Body.reset with dir := { Body.reset.dir with acc := [(0, ⟨none, 0, some 0x1204C, 9, []⟩)] } } }

theorem witness_PairWritesGoTogether : pageAt (0x12044 / 4096) = some .hst ∧ pageAt (0x12050 / 4096) = some .hst ∧
    served heldLow.body .hst = true ∧ 0x12044 % 4096 = 0x44 ∧ 0x12050 % 4096 = 0x50 ∧
    (accOf heldLow.body 0).heldOff = some (0x12050 - 4) ∧ (accOf State.reset.body 0).heldOff ≠ some (0x12050 - 4) ∧
    0x12040 % 4096 ≠ 0x44 ∧ 0x12040 % 4096 ≠ 0x4C := by decide +kernel

theorem witness_PairReadsShareAnInstant : pageAt (0x48 / 4096) = some .dir ∧ isLo .dir (0x48 % 4096) = true ∧ isHi .dir (0x48 % 4096) = false ∧
    isHi .dir (0x4C % 4096) = true ∧ isLo .dir (0x4C % 4096) = false ∧
    (fget [(0, (⟨some 0x48, 1, none, 0, []⟩ : Access))] 0).capOff = some (0x4C - 4) := by decide +kernel

/-! ### Slots: witnesses -/

/-- The running thread with registers: s1 = 0x1000, s2 = 8, s4 and s5 small, p1 true, a1 = 16. -/
def armed : Thread :=
  { runs with s := [(1, ⟨0x1000, false⟩), (2, ⟨8, false⟩), (3, ⟨0x40, false⟩)], p := [(1, ⟨true, false⟩)], a := [(1, 16)], dshare := 1
              dline := [(0, ⟨true, 0x40, true, false, 0x1122334455667788, default⟩)] }

/-- The panel whose banks, engines and first latch set belong to context slot 5; bank group 0 is sealed and latch set 0 is loaded. -/
def owned (p : Panel) : Panel :=
  { p with
    seq := { p.seq with bank := (List.range 128).map fun i => (i, some 5), trowel := some 5, skim := some 5, mitre := some 5, sealed := [(7, true)] }
    latch := [(0, { (default : Latch) with fmt := some 0 })] }

/-- The context with a route to unit 9 as peer 1, and a chain of one stage that takes stream A. -/
def routed : Ctx :=
  { live with
    far := { live.far with sets := [(0, [(1, 0x80000009#32)])] }
    chain := [(0, [(0, 0x2841e78000000000000000000000000080000000#512)])] }

/-- The world in which `armed` may issue. -/
def field : State := world armed routed owned

theorem may_field : MayIssue field t0 0 := may _ _ _ rfl rfl ⟨rfl, rfl, rfl, rfl, rfl⟩

/-- `Carried` as a Bool (`carried_iff`), which the kernel evaluates on concrete states. -/
def carries (plan : IC → Nat → Plan) (s : State) (t : ThreadRef) (k sl opc w : Nat) : Bool :=
  match plan (place s t k sl) (withOpc sl opc w) with
  | .go _ => true
  | .skip .. => false

theorem carried_iff (plan : IC → Nat → Plan) (s : State) (t : ThreadRef) (k sl opc w : Nat) :
    Carried plan s t k sl opc w ↔ carries plan s t k sl opc w = true := by
  unfold Carried carries
  cases plan (place s t k sl) (withOpc sl opc w) <;> simp

theorem witness_ScalarRegisterSlots : MayIssue field t0 0 ∧ fld (0x03E20800#32).toNat 10 0 = 0 := ⟨may_field, by decide⟩

theorem witness_ScalarImmediateSlots : MayIssue field t0 0 ∧ fld (0x0041003F#32).toNat 15 6 = 0 ∧ fld (0x0040FFFF#32).toNat 20 16 = 0 :=
  ⟨may_field, by decide⟩

theorem witness_PredicateLineAndTickSlots : MayIssue field t0 0 ∧
    (fld (0x00811500#32).toNat 22 21 = 0 ∧ fld (0x00811500#32).toNat 7 0 = 0 ∧ fld (0x00811500#32).toNat 10 8 = 5) ∧
    (fld (0x0021FFFF#32).toNat 25 25 = 0 ∧ ((threadAt field t0 0).sreg (fld (0x0021FFFF#32).toNat 20 16)).poison = false) ∧
    fld (0x00200000#32).toNat 20 0 = 0 ∧ fld (0x03800000#32).toNat 22 0 = 0 ∧ fld (0x03F80000#32).toNat 18 0 = 0 :=
  ⟨may_field, by decide +kernel⟩

theorem witness_NoOperationSlots : MayIssue field t0 0 ∧ fld (0#32).toNat 25 0 = 0 ∧ fld (0#64).toNat 57 0 = 0 := ⟨may_field, by decide⟩

theorem witness_WaitingAndEventSlots : MayIssue field t0 0 ∧ fld (0x03FFF000#32).toNat 11 0 = 0 ∧ fld (0x03FFFC00#32).toNat 9 0 = 0 ∧
    fld (0x03F00000#32).toNat 19 0 = 0 ∧ (fld (0x01000000#32).toNat 23 0 = 0 ∧ fld (0x01000000#32).toNat 25 24 ≠ 0) ∧
    (fld (0x00220000#32).toNat 15 0 = 0 ∧ fld (0x00220000#32).toNat 25 21 = 1 ∧ fld (0x00220000#32).toNat 20 16 = 2 ∧ Clean field t0 0 [1, 2]) ∧
    fld (0#32).toNat 25 0 = 0 ∧ fld (0x03FC0000#32).toNat 17 0 = 0 := by
  refine ⟨may_field, by decide, by decide, by decide, by decide, ⟨by decide, by decide, by decide, ?_⟩, by decide, by decide⟩
  intro r h
  have : r = 1 ∨ r = 2 := by simpa using h
  rcases this with rfl | rfl <;> decide +kernel

/-- A thread in a loop whose body ends at its bundle, with the next bundle's header resident. -/
def looper : Thread :=
  { armed with
    loops := [⟨1, 0x0F00, 0x1000⟩, ⟨2, 0x0E00, 0x1000⟩]
    ient := [(0, ⟨true, 0x1000, 64, List.replicate 64 0x20, [], []⟩)] }

theorem witness_BranchAndLoopSlots : MayIssue field t0 0 ∧ (armed.preg 1).poison = false ∧ (armed.preg 1).val ≠ false ∧
    armed.loops.head? = none ∧ armed.loops.length < 4 ∧ (armed.sreg 1).val.toNat % 2 ^ 48 % 2 = 0 ∧
    fld (0x00410000#32).toNat 21 21 = 0 ∧ fld (0x00410000#32).toNat 15 0 = 0 ∧
    MayIssue (world looper live) t0 0 ∧ looper.loops ≠ [] ∧ (looper.loops.head?.map (·.last)) = some looper.pc ∧
    (afterBundle looper 0x1000).isSome = true ∧ fld (0x00400000#32).toNat 21 0 = 0 ∧
    fld (0x0020FFFF#32).toNat 20 16 = 0 ∧ (armed.sreg 1).poison = false ∧ 0x1006 ≤ (0x1000 + 2 * fld (0x0020FFFF#32).toNat 15 0) % 2 ^ 48 := by
  refine ⟨may_field, ?_, ?_, ?_, ?_, ?_, ?_, ?_, may _ _ _ rfl rfl ⟨rfl, rfl, rfl, rfl, rfl⟩, ?_⟩ <;> decide +kernel

theorem witness_DataCacheSlots : MayIssue field t0 0 ∧
    let q0 := threadAt field t0 0
    let a := ((q0.sreg 1).val + (8#16).signExtend 64).toNat
    (q0.sreg 1).poison = false ∧ a % 8 = 0 ∧ q0.dshare ≠ 0 ∧ (fget q0.dline (a / 64 % (q0.dshare * 16))).valid = true ∧
    (fget q0.dline (a / 64 % (q0.dshare * 16))).addr = a / 64 := ⟨may_field, by decide +kernel⟩

theorem clean_field (r : Nat) (h : r ∈ [0, 1, 2, 3]) : ((threadAt field t0 0).sreg r).poison = false := by
  revert r; decide +kernel

theorem witness_ScheduledScalarSlots : MayIssue field t0 0 ∧ Clean field t0 0 [fld (0x00430000#32).toNat 20 16] ∧
    carries planLdsp field t0 0 0 0x22 (0x00430000#32).toNat = true ∧ carries planStsp field t0 0 0 0x23 (0x00430000#32).toNat = true ∧
    csrLat (place field t0 0 0) 0x8005040 = some (64, 128) ∧ 0x8005040 / 4096 = 0x8000 + (threadAt field t0 0).slot := by
  refine ⟨may_field, ?_, by decide +kernel, by decide +kernel, by decide +kernel, by decide +kernel⟩
  intro r h
  exact clean_field r (by revert h; decide +revert)

/-- Did the translation succeed? -/
def isOk : Xlate → Bool
  | .ok _ => true
  | .fault _ => false

theorem witness_LoadsStart : MayIssue field t0 0 ∧
    (let w : BitVec 64 := BitVec.ofNat 64 (1 * 2 ^ 53 + 1 * 2 ^ 49 + 3 * 2 ^ 41)
     Clean field t0 0 [fld w.toNat 57 53, fld w.toNat 12 8] ∧ carries planLdxLd field t0 0 3 0x01 w.toNat = true ∧ carries planLdk field t0 0 3 0x03 w.toNat = true ∧
     (tagsFor 64 ≤ tagsFree (panelAt field.body 0) ∧ (threadAt field t0 0).token 3 ≤ 1022) ∧
     isOk (xlateAll field.body 5 false (rowRanges 1 64 0x1000 (strideOf 0 ⟨0, false⟩ 1024))) = true) ∧
    (let w : BitVec 64 := BitVec.ofNat 64 (1 * 2 ^ 53 + 1 * 2 ^ 49 + 3 * 2 ^ 41 + 1 * 2 ^ 31 + 3 * 2 ^ 27)
     carries planLdk field t0 0 3 0x03 w.toNat = true ∧ ((threadAt field t0 0).sreg 2).poison = false ∧
     isOk (xlateAll field.body 5 false [(8, (ldkBytes 3 2).2)]) = true) ∧
    (let w : BitVec 64 := BitVec.ofNat 64 (1 * 2 ^ 53 + 1 * 2 ^ 49 + 3 * 2 ^ 41 + 7 * 2 ^ 31 + 8 * 2 ^ 27)
     carries planLdk field t0 0 3 0x03 w.toNat = true ∧ isOk (xlateAll field.body 5 false [(0x1000, (ldkBytes 8 8).1)]) = true) ∧
    (let w : BitVec 32 := BitVec.ofNat 32 (1 * 2 ^ 21)
     let q := { armed with ishare := 1 }
     MayIssue (world q live) t0 0 ∧ carries planIfill (world q live) t0 0 5 0x10 w.toNat = true ∧
     isOk (xlateAll (world q live).body 5 false [(0x1000, 64)]) = true) := by
  refine ⟨may_field, ⟨?_, by decide +kernel, by decide +kernel, by decide +kernel, by decide +kernel⟩,
    ⟨by decide +kernel, by decide +kernel⟩, ⟨by decide +kernel, by decide +kernel⟩,
    may _ _ _ rfl rfl ⟨rfl, rfl, rfl, rfl, rfl⟩, by decide +kernel, by decide +kernel⟩
  intro r h
  exact clean_field r (by revert h; decide +revert)

theorem witness_FarGetAndMitreLoadStart : MayIssue field t0 0 ∧
    (let w : BitVec 64 := BitVec.ofNat 64 (1 * 2 ^ 53 + 1 * 2 ^ 49 + 3 * 2 ^ 41 + 1 * 2 ^ 13)
     carries planFget field t0 0 3 0x04 w.toNat = true ∧ peerEntry (ctxAt field.body 5) (fld w.toNat 26 13) = some 0x80000009#32) ∧
    (let w : BitVec 64 := BitVec.ofNat 64 (1 * 2 ^ 53 + 1 * 2 ^ 49 + 3 * 2 ^ 41 + 511 * 2 ^ 31)
     carries planLdt field t0 0 3 0x02 w.toNat = true ∧ (panelAt field.body 0).ldt.length < 4 ∧
     isOk (xlateAll field.body 5 false ((List.range 128).map fun r => (0x1000 + r * 256, 256))) = true) ∧
    (let s := world armed routed fun p => { owned p with ldt := List.replicate 4 (⟨{ (default : Ins) with slot := 5 }, 1, 1, 0, none, 1, 0, 0, 0, 0, 0, [], [], []⟩ : LdtOp) }
     let w : BitVec 64 := BitVec.ofNat 64 (1 * 2 ^ 53 + 1 * 2 ^ 49 + 3 * 2 ^ 41 + 511 * 2 ^ 31)
     MayIssue s t0 0 ∧ carries planLdt s t0 0 3 0x02 w.toNat = true ∧
     4 ≤ ((panelAt s.body 0).ldt.filter fun x => x.ins.slot == 5 && x.ins.handle == (threadAt s t0 0).handle).length ∧
     ((panelAt s.body 0).seen.all fun x => x.uid != s.body.uid + 1) = true) := by
  refine ⟨may_field, ⟨by decide +kernel, by decide +kernel⟩, ⟨by decide +kernel, by decide +kernel, by decide +kernel⟩,
    may _ _ _ rfl rfl ⟨rfl, rfl, rfl, rfl, rfl⟩, by decide +kernel, by decide +kernel, by decide +kernel⟩

theorem witness_StoresStart : MayIssue field t0 0 ∧
    (let w : BitVec 64 := BitVec.ofNat 64 (1 * 2 ^ 53 + 1 * 2 ^ 49 + 3 * 2 ^ 41)
     carries planStxSt field t0 0 4 0x01 w.toNat = true ∧ carries planStc field t0 0 4 0x02 w.toNat = true ∧ carries planStk field t0 0 4 0x03 w.toNat = true ∧
     (Target.ofCode 0).isSome = true ∧ Clean field t0 0 [fld w.toNat 57 53, fld w.toNat 9 5] ∧
     isOk (xlateAll field.body 5 true (rowRanges 1 64 0x1000 (strideOf 0 ⟨0, false⟩ 1024))) = true) ∧
    (let w : BitVec 64 := BitVec.ofNat 64 (1 * 2 ^ 53 + 1 * 2 ^ 49 + 3 * 2 ^ 41 + 31 * 2 ^ 31 + 7 * 2 ^ 27)
     carries planStk field t0 0 4 0x03 w.toNat = true ∧ isOk (xlateAll field.body 5 true [(8, 8)]) = true) ∧
    (let w : BitVec 64 := BitVec.ofNat 64 (1 * 2 ^ 53 + 1 * 2 ^ 49 + 3 * 2 ^ 41 + 1 * 2 ^ 10)
     carries planFput field t0 0 4 0x04 w.toNat = true ∧ peerEntry (ctxAt field.body 5) (fld w.toNat 23 10) = some 0x80000009#32) := by
  refine ⟨may_field, ⟨by decide +kernel, by decide +kernel, by decide +kernel, by decide +kernel, ?_,
    by decide +kernel⟩, ⟨by decide +kernel, by decide +kernel⟩, by decide +kernel, by decide +kernel⟩
  intro r h
  exact clean_field r (by revert h; decide +revert)

/-- A dirty line at address 0x1000. -/
def dirtied : Thread := { armed with dline := [(0, ⟨true, 0x40, true, false, 5, default⟩)] }

theorem witness_CacheTransfersStart : (let s := world dirtied routed owned
    let w : BitVec 32 := BitVec.ofNat 32 (3 * 2 ^ 21 + 1 * 2 ^ 16 + 1)
    MayIssue s t0 0 ∧ Clean s t0 0 [fld w.toNat 20 16] ∧ w.getLsbD 25 = false ∧ fld w.toNat 15 0 ≠ 0 ∧ dirtied.dshare ≠ 0 ∧
    tagsFor 64 ≤ tagsFree (panelAt s.body 0) ∧ (threadAt s t0 0).token 3 ≤ 1022 ∧
    (match writeBacks s.body 5 (dirtyLines dirtied 0x1000 1 false) with | .ok _ => true | .error _ => false) = true ∧
    (match writeBacks s.body 5 (dirtyLines dirtied 0x1000 1 true) with | .ok x => !x.isEmpty | .error _ => false) = true ∧
    (match writeBacks s.body 5 (dirtyLines { armed with dline := [] } 0x1000 1 true) with | .ok x => x.isEmpty | .error _ => false) = true ∧
    isOk (xlate s.body 5 (0x1000 / 64 * 64) 64 false) = true) := by
  refine ⟨may _ _ _ rfl rfl ⟨rfl, rfl, rfl, rfl, rfl⟩, ?_, ?_⟩
  · intro r h
    have : r = 1 := by revert h; decide +revert
    subst this
    decide +kernel
  · decide +kernel

theorem witness_TrowelSlotsStart : MayIssue field t0 0 ∧
    (let w : BitVec 64 := BitVec.ofNat 64 (1 * 2 ^ 54 + 1 * 2 ^ 49)
     carries planLoadw field t0 0 2 0x01 w.toNat = true ∧ loadwBusy (panelAt field.body 0) field.clk.cyc (fld w.toNat 49 49) = false) ∧
    (let q := { armed with a := [(1, 0x70)] }
     let s := world q routed owned
     let w : BitVec 64 := BitVec.ofNat 64 (1 * 2 ^ 34 + 0xF * 2 ^ 26)
     MayIssue s t0 0 ∧ carries planPass s t0 0 2 0x02 w.toNat = true ∧
     passBusy (panelAt s.body 0) s.clk.cyc 0 1 1 false = false) := by
  refine ⟨may_field, ⟨by decide +kernel, by decide +kernel⟩, may _ _ _ rfl rfl ⟨rfl, rfl, rfl, rfl, rfl⟩, by decide +kernel,
    by decide +kernel⟩

theorem witness_SkimSlotsStart : MayIssue field t0 0 ∧ (panelAt field.body 0).skimBusy ≤ field.clk.cyc ∧
    carries (fun ic w => chainPlan ic w false) field t0 0 1 0x01 (0xF * 2 ^ 20) = true ∧
    carries (fun ic w => chainPlan ic w true) field t0 0 1 0x02 0 = true ∧ carries planFill field t0 0 1 0x03 (0xF * 2 ^ 20) = true :=
  ⟨may_field, by decide +kernel, by decide +kernel, by decide +kernel, by decide +kernel⟩

theorem witness_SkippedSlotIsRecorded : MayIssue field t0 0 ∧ fld (0x400#32).toNat 10 0 ≠ 0 ∧ (ctxAt field.body 5).set.illThresh = 0 ∧
    (ctxAt field.body 5).log.ill.length < 64 := ⟨may_field, by decide, by decide +kernel, by decide +kernel⟩

/-- A thread whose residency entry holds the bundle of one ADD at its pc. -/
def fetched : Thread :=
  { armed with ient := [(0, ⟨true, 0x1000, 64, (Bundle.encode ⟨0, [(0, withOpc 0 0x01 0)]⟩) ++ List.replicate 58 0, [], []⟩)] }

theorem witness_BundleOfOneSlotIsItsRow : MayIssue (world fetched routed owned) t0 0 ∧
    (Instr.add t0 0, 0, 0x01) ∈ slotRows t0 0 0 ∧
    let bytes := Bundle.encode ⟨0, [(0, withOpc 0 0x01 0)]⟩
    ∀ n, n ≤ bytes.length → fetchBytes fetched fetched.pc n = some (bytes.take n, false) :=
  ⟨may _ _ _ rfl rfl ⟨rfl, rfl, rfl, rfl, rfl⟩, by simp [slotRows], by
    intro bytes n h
    have h6 : bytes.length = 6 := by decide
    have : n ≤ 6 := by omega
    have hn : n = 0 ∨ n = 1 ∨ n = 2 ∨ n = 3 ∨ n = 4 ∨ n = 5 ∨ n = 6 := by omega
    rcases hn with rfl | rfl | rfl | rfl | rfl | rfl | rfl <;> decide⟩

theorem witness_BundleIssueFetchesAndIssues : (tickN 0 (world fetched routed owned)) = world fetched routed owned ∧
    MayIssue (world fetched routed owned) t0 0 ∧ (fetchBytes fetched fetched.pc 2).map (·.2) = some false ∧
    (fetchBytes fetched fetched.pc 6).map (·.2) = some false ∧ hdrLen (bytesVal (((fetchBytes fetched fetched.pc 2).getD ([], false)).1)) = 6 :=
  ⟨rfl, may _ _ _ rfl rfl ⟨rfl, rfl, rfl, rfl, rfl⟩, by decide, by decide, by decide⟩

theorem witness_BundleEncodingRoundTrips :
    (let x : Bundle := ⟨1023, [(0, 2 ^ 32 - 1), (1, 2 ^ 64 - 1), (5, 0)]⟩
     x.ctl < 1024 ∧ (x.slots.map (·.1)).Pairwise (· < ·) ∧ ∀ p ∈ x.slots, p.1 < 6 ∧ p.2 < 2 ^ slotBits p.1) := by decide

theorem witness_LoopBodyEnds : MayIssue (world looper routed owned) t0 0 ∧ fld (0#32).toNat 25 0 = 0 ∧
    looper.loops = [⟨1, 0x0F00, 0x1000⟩] ++ [⟨2, 0x0E00, 0x1000⟩] ∧ (∀ x ∈ [(⟨1, 0x0F00, 0x1000⟩ : LoopEnt)], x.last = looper.pc ∧ x.cnt = 1) :=
  ⟨may _ _ _ rfl rfl ⟨rfl, rfl, rfl, rfl, rfl⟩, by decide, rfl, by decide⟩

theorem witness_TestovfReadsTheStepFlag : MayIssue field t0 0 ∧ fld (0x03800000#32).toNat 22 0 = 0 ∧
    (ctxAt field.body (threadAt field t0 0).slot).led.openStep = none ∧
    (let s := world armed { live with led := { live.led with openStep := some 3 } }
     MayIssue s t0 0 ∧ (ctxAt s.body (threadAt s t0 0).slot).led.openStep.isSome = true) :=
  ⟨may_field, by decide, by decide +kernel, may _ _ _ rfl rfl ⟨rfl, rfl, rfl, rfl, rfl⟩, by decide +kernel⟩

/-! ### Arrivals, rotation: witnesses -/

/-- An instruction of the LIVE context of slot 5 (handle 4101), issued in cycle 100 on panel 0 of die 0 by thread 0. -/
def insOf (uid : Nat) : Ins := { (default : Ins) with uid := uid, slot := 5, handle := 4101, issue := 100 }

/-- A load of the first `n` of two lines. -/
def loadOf (kd : LdKind) (n : Nat) : LoadOp :=
  ⟨insOf 1, 3, 1, kd, 0, [⟨16, 0, [⟨false, 0x600000, 64⟩], [], [0]⟩, ⟨17, 1, [⟨false, 0x600040, 64⟩], [], [0]⟩].take n, [], [], 0, false, []⟩

/-- The world of a panel with that load, whose arrival port has served the banks `bank` in this cycle. -/
def loadWorld (kd : LdKind) (n : Nat) (bank : List Nat) : State :=
  world armed live fun p => { owned p with load := [loadOf kd n], arrBank := bank }

/-- One piece of a store. -/
def piece : Chunk := ⟨[⟨false, 0x600080, 64⟩], List.replicate 64 7, false, [0]⟩

/-- A store with `n` pieces left. -/
def storeOf (n : Nat) : StoreOp := { newStore (insOf 2) 4 1 .st ⟨16, none⟩ 1 [] [] false 0 with out := List.replicate n piece }

/-- The world of a panel with that store. -/
def storeWorld (n : Nat) : State := world armed live fun p => { owned p with store := [storeOf n] }

/-- A tile in Mitre, and the world of its panel. -/
def tile : LdtOp := ⟨insOf 3, 5, 4, 0, none, 1, 0, 0, 0, 0, 0, List.replicate 128 [⟨false, 0x601000, 256⟩], [], []⟩
def tileWorld : State := world armed live fun p => { owned p with ldt := [tile] }

/-- A thread that waits, with its condition met. -/
def woken (w : WaitOn) : Thread := { runs with st := .wait, wait := some ⟨w, 0, 0, true, 0, 0x1000⟩ }

theorem witness_PanelArrivalsAndAcknowledgements :
    (∀ w ∈ [WaitOn.rotate, .evClear 3], ∀ v ∈ [0, 8], let s := world (woken w) { live with ev := BitVec.ofNat 64 v, evOld := BitVec.ofNat 64 v }
     physOf s.body 0 0 = some 0 ∧ panelRuns s.env s.body 0 (panelAt s.body 0) = true ∧ ownerNow s.env s.body 0 (panelAt s.body 0) = some 0 ∧
     (threadAt s t0 0).st = .wait ∧ (threadAt s t0 0).wait = some ⟨w, 0, 0, true, 0, 0x1000⟩ ∧
     ((ctxAt s.body 5).evView 0 s.clk.cyc).getLsbD 3 = decide (v = 8)) ∧
    (∀ kd ∈ [LdKind.ld, .dfill, .ifill 0], ∀ n ∈ [1, 2], ∀ bank ∈ [[], [16]], let s := loadWorld kd n bank
     let P := panelAt s.body 0
     let x := loadOf kd n
     let l : LdLine := ⟨16, 0, [⟨false, 0x600000, 64⟩], [], [0]⟩
     P.load.find? (·.ins.uid == 1) = some x ∧ x.left.find? (·.idx == 0) = some l ∧ x.todo.find? (·.idx == 0) = some l ∧ mayArrive s.env s.body 0 x l = true ∧
     insLive s.env s.body x.ins = true ∧ s.body.mem.bad = [] ∧ P.arrq = [] ∧ P.ldt = [] ∧ P.arrBank = bank ∧ (∀ w ∈ P.load, w = x) ∧
     (x.todo.filter (·.idx != 0) = [] ↔ n = 1)) ∧
    (∀ n ∈ [1, 2], let s := storeWorld n
     let P := panelAt s.body 0
     P.store.find? (fun x => x.ins.uid == 2 && !x.out.isEmpty) = some (storeOf n) ∧ (storeOf n).out[0]? = some piece ∧ segsHeld s.body piece.segs = none ∧
     insLive s.env s.body (insOf 2) = true ∧ ((storeOf n).out.eraseIdx 0 = [] ↔ n = 1) ∧
     (putSegs s.env (some 5) false (unqueued s.body) piece.segs piece.data).isSome = true) ∧
    (let P := panelAt tileWorld.body 0
     P.ldt.find? (fun x => decide (x.next < x.tiles)) = some tile ∧ tile.ins.issue < tileWorld.clk.cyc ∧ mitreWaits tileWorld.body tile = false ∧
     insLive tileWorld.env tileWorld.body tile.ins = true ∧ P.mitreHeld.length < 2) := by
  decide +kernel

/-- A thread at a rotation point, with a dirty cache line of its first page. -/
def resting : Thread :=
  { runs with st := .wait, wait := some ⟨.rotate, 0, 0, false, 0, 0x1000⟩, dline := [(0, ⟨true, 0x40, true, false, 7, default⟩)] }

/-- The world of that panel, marked to retire, or with the next rotation advance of its die due elsewhere. -/
def restWorld (retire : Bool) : State :=
  let s := world resting live fun p => { p with retire := retire }
  { s with body := { s.body with die := fmod s.body.die 0 fun d => { d with next := 3 } } }

/-- The world with panel 0, which served or did not serve a logical panel, in quarantine, and its test holding its scaffold or not; its
die has logical panel 0 mapped or not, and a spare or none. -/
def quarWorld (test served mapped spare : Bool) : State :=
  let s := world default live fun p => { p with st := .quarantine, served := served }
  { s with body := { s.body with
    die := fmod s.body.die 0 fun d => { d with map := if mapped then d.map else fset d.map 0 none, spare := if spare then d.spare else none }
    host := { s.body.host with holders := if test then [⟨grpKey 2 0, 1, false, none, 0⟩] else [] } } }

theorem witness_RotationAndQuarantine :
    (∀ r : Bool, let P := panelAt (restWorld r).body 0
      rotReady (restWorld r).clk.cyc P = true ∧ P.rotUntil = 0 ∧ (restWorld r).body.mem.bad = [] ∧ P.st = .active ∧
      (P.seq.thr.all fun x => x.2.dline.all fun l => isOk (xlate (restWorld r).body x.2.slot (l.2.addr * 64) 64 true)) = true) ∧
    advances (restWorld true).env (restWorld true).body 0 = some 8 ∧
    advances (restWorld false).env (restWorld false).body 0 = none ∧
    (let p := panelAt (world resting live fun p => { p with rotUntil := 1600 }).body 0
     p.rotUntil ≠ 0 ∧ p.rotUntil ≤ 1600) ∧
    (panelAt (world default live).body 0).st = .active ∧ panelSlots (panelAt (world default live).body 0) = [] ∧
    (let s := quarWorld false true false false
     (panelAt s.body 0).st = .quarantine ∧ holds s.body (grpKey 2 0) 1 false = false ∧ blocker s.body (grpKey 2 0) 1 = none) ∧
    (∀ x y z : Bool, let s := quarWorld true x y z
     (panelAt s.body 0).st = .quarantine ∧ holds s.body (grpKey 2 0) 1 false = true ∧ (panelAt s.body 0).served = x ∧
     (fget (fget s.body.die 0).map 0).isSome = y ∧ (fget s.body.die 0).spare.isSome = z) := by decide +kernel

/-! ### Ring commands: witnesses -/

/-- The bytes of a list at an address, as cells. -/
def cells (a : Nat) (d : List Nat) : List Host.Cell :=
  ((List.range d.length).zip d).filterMap fun x => if x.2 = 0 then none else some (a + x.1, BitVec.ofNat 8 x.2)

/-- A ring with one command at its head. -/
def ring1 : Ring := { (default : Ring) with present := true, cmdBase := 0x10000, cplBase := 0x20000, logn := 4, tail := 1, cplPhase := true }

/-- The machine after reset with context `c` in slot 5, whose ring 0 holds one command, the admin ring enabled with one command, NOP, and
`mem` in the module's memory. -/
def ringWorld (c : Ctx) (mem : List Host.Cell := []) (host : List Host.Cell := [(0x10000, 1)]) : State :=
  { State.reset with body := { Body.reset with
    ctx := { Body.reset.ctx with slot := [(5, { c with ring := [(0, ring1)] })] }
    mem := { Body.reset.mem with bytes := mem }
    host := { Body.reset.host with
      bytes := host
      master := true
      ar := { (default : AdminRing) with en := true, logn := 4, base := 0x10000, cpl := 0x20000, ring := { (default : Ring) with tail := 1 } } } } }

/-- A command word: opcode, handle, and body fields as (byte, value). -/
def word (opc h : Nat) (fs : List (Nat × Nat) := []) : BitVec 512 :=
  BitVec.ofNat 512 (opc + h * 2 ^ 32 + (fs.map fun f => f.2 * 2 ^ (8 * f.1)).sum)

/-- `Starts` as one condition that can be decided. -/
def startsB (s : State) (r : RingRef) (w : BitVec 512) (opc : Nat) (k : CmdSpec) : Bool :=
  mayStart s.env s.body r (putBits w 0 8 opc) &&
  (decide (r = .admin) || decide (buddyUnits s.body (wordSlot r (putBits w 0 8 opc)) = []) || decide ((ringAt s.body r).logAcks = some [])) &&
  (if r = .admin then decide (k.adm ≠ 0) else decide (k.adm = 0 ∨ k.adm = 3)) &&
  (if r = .admin ∧ 2 ≤ k.adm then decide (hdrField w 4 31 0 = 0)
    else decide (hdrField w 4 31 0 ≠ 0 ∧ hdrField w 4 31 0 = handleOf s.env s.body (wordSlot r (putBits w 0 8 opc)))) &&
  !rsvdSet (putBits w 0 8 opc) k.fs && (decide (r ≠ .admin) || decide (k.adm < 2) || decide (hdrField w 1 2 1 = 0))

theorem starts_iff (s : State) (r : RingRef) (w : BitVec 512) (opc : Nat) (k : CmdSpec) : Starts s r w opc k ↔ startsB s r w opc k = true := by
  unfold startsB
  constructor
  · rintro ⟨h1, h2, h3, h4, h5, h6⟩
    simp only [h1, h5, Bool.true_and, Bool.not_false, Bool.and_true, Bool.and_eq_true, Bool.or_eq_true, decide_eq_true_eq]
    refine ⟨⟨⟨?_, ?_⟩, ?_⟩, ?_⟩
    · rcases h2 with h | h | h <;> simp [h]
    · split at h3 <;> simp_all
    · by_cases hc : r = .admin ∧ 2 ≤ k.adm
      · rw [if_pos hc] at h4 ⊢; exact decide_eq_true h4
      · rw [if_neg hc] at h4 ⊢; exact decide_eq_true h4
    · by_cases hr : r = .admin
      · by_cases hk : k.adm < 2
        · simp [hk]
        · exact .inr (h6 hr (by omega))
      · simp [hr]
  · intro h
    simp only [Bool.and_eq_true, Bool.or_eq_true, decide_eq_true_eq, Bool.not_eq_true'] at h
    obtain ⟨⟨⟨⟨⟨h1, h2⟩, h3⟩, h4⟩, h5⟩, h6⟩ := h
    refine ⟨h1, ?_, ?_, ?_, h5, ?_⟩
    · rcases h2 with (h | h) | h <;> simp [h]
    · split at h3 <;> simp_all
    · by_cases hc : r = .admin ∧ 2 ≤ k.adm
      · rw [if_pos hc] at h4 ⊢; exact of_decide_eq_true h4
      · rw [if_neg hc] at h4 ⊢; exact of_decide_eq_true h4
    · intro hr hk
      rcases h6 with (h | h) | h
      · exact absurd hr h
      · omega
      · exact h

/-- Ring 0 of slot 5. -/
def ring0 : RingRef := .ctx 5 0

theorem witness_RingHeadRunsAsItsRow :
    (ringAt (ringWorld live).body .admin).head ≠ (ringAt (ringWorld live).body .admin).tail ∧ (ringWorld live).body.host.master = true ∧
    word 1 0 = BitVec.ofNat 512 (bytesVal (hostRead (ringWorld live).body 0x10000 64)) ∧
    startsB (ringWorld live) .admin (word 1 0) 0x01 nopSpec = true ∧ putBits (word 1 0) 0 8 0x01 = word 1 0 ∧
    (Instr.nopCmd .admin (word 1 0), word 1 0) ∈ cmdRows .admin (word 1 0) := by
  have h : putBits (word 1 0) 0 8 0x01 = word 1 0 := by decide +kernel
  refine ⟨by decide +kernel, rfl, by decide +kernel, by decide +kernel, h, ?_⟩
  simp only [cmdRows, h, List.mem_append, List.mem_cons, true_or]

theorem witness_CommandTakesTheHeadOfItsRing :
    let s := ringWorld live
    startsB s .admin (word 1 0) 0x01 nopSpec = true ∧ startsB s ring0 (word 1 4101) 0x01 nopSpec = true ∧
    (∀ f ∈ (ringAt s.body .admin).fly, f.seq ≠ s.body.uid + 1) ∧
    mayStart State.reset.env State.reset.body .admin (putBits (word 1 0) 0 8 0x01) = false ∧
    mayStart s.env s.body .admin (putBits (word 4 4101) 0 8 0x04) = true ∧ mayStart s.env s.body .admin (putBits (word 1 4101) 0 8 0x01) = true ∧
    hdrField (word 1 4101) 4 31 0 = handleOf s.env s.body (wordSlot .admin (word 1 4101)) ∧
    mayStart s.env s.body .admin (putBits (word 1 5) 0 8 0x01) = true ∧ hdrField (word 1 5) 4 31 0 ≠ 0 ∧
    hdrField (word 1 5) 4 31 0 ≠ handleOf s.env s.body (wordSlot .admin (word 1 5)) ∧
    mayStart s.env s.body ring0 (putBits (word 4 9) 0 8 0x04) = true ∧
    hdrField (word 4 9) 4 31 0 ≠ handleOf s.env s.body (wordSlot ring0 (word 4 9)) := by
  decide +kernel

/-- The bytes of a program image's requirement block for chain table offset 64 and three descriptors. -/
def image : List Nat :=
  [0x49, 0x4C, 0x50, 0x32, 1, 0, 0, 0, 0, 2, 128, 0, 8, 0, 0, 16, 0, 0, 0, 0, 3, 0, 0, 0, 64]

/-- A LIVE context of job 7 with this module as peer 1 and unit 9 as peer 2, with one retained, one pending and one dropped slot. -/
def member : Ctx :=
  { live with
    xl := [(0, ⟨true, false, 3, true, false⟩)] ++ (List.range 4).map fun i => (16 + i, ⟨true, false, 4 + i, true, false⟩)
    far := { live.far with sets := [(0, [(1, 0x80000000#32), (2, 0x80000009#32)])], loaded := [(1, 4)] }
    ret := { live.ret with size := 4, base := 16, slot := [(1, ⟨.retained, 3, 1, 0, 0⟩), (2, ⟨.pending, 3, 1, 1, 7⟩), (3, ⟨.dropped, 3, 0, 0, 0⟩)] } }

theorem witness_EventTagRouteAndTransferCommands :
    (let s := ringWorld member
     startsB s ring0 (putBits (word 2 4101 [(24, 8)]) 128 8 0) 0x02 eventSpec = true ∧ startsB s ring0 (putBits (word 2 4101 [(24, 8)]) 128 8 1) 0x02 eventSpec = true ∧
     startsB s ring0 (word 0x0C 4101 [(16, 63)]) 0x0C tagSpec = true ∧ tagForeign (begun s ring0 (word 0x0C 4101 [(16, 63)]) 0x0C) 5 63 = false ∧
     startsB s ring0 (word 0x0A 4101 [(16, 1), (20, 1), (24, 0x1000)]) 0x0A routeSpec = true ∧ setFitted s.body 1 = true ∧ member.far.active = 0 ∧
     (ctxBytes (findRange s.env 5 (begun s ring0 (word 0x0A 4101 [(16, 1), (20, 1), (24, 0x1000)]) 0x0A) 0x1000 4) 5 0x1000 4).isSome = true ∧
     1 ≤ routeFree (findRange s.env 5 (begun s ring0 (word 0x0A 4101 [(16, 1), (20, 1), (24, 0x1000)]) 0x0A) 0x1000 4) + fget member.far.loaded 1 ∧
     startsB s ring0 (word 0x0B 4101 [(16, 1), (17, 63)]) 0x0B redrawSpec = true ∧ member.far.pend = none ∧ fget member.far.loaded 1 ≠ 0 ∧
     startsB s ring0 (word 0x05 4101 [(24, 0x1000)]) 0x05 progSpec = true ∧
     (ctxBytes (findRange s.env 5 (begun s ring0 (word 0x05 4101 [(24, 0x1000)]) 0x05) 0x1000 64) 5 0x1000 64).map imageOk = some false) ∧
    (let s := ringWorld member (cells 0x601000 image)
     (ctxBytes (findRange s.env 5 (begun s ring0 (word 0x05 4101 [(24, 0x1000)]) 0x05) 0x1000 64) 5 0x1000 64).map imageOk = some true) ∧
    (let s := ringWorld member
     let w := word 0x04 4101 [(16, 0x1000), (24, 0x2000), (32, 65)]
     startsB s ring0 w 0x04 copySpec = true ∧ isOk (xlate (begun s ring0 w 0x04) 5 0x1000 65 false) = true ∧ isOk (xlate (begun s ring0 w 0x04) 5 0x2000 65 true) = true) ∧
    (∀ k : Fin 4, let s := ringWorld member
     let v := putBits (word 0x07 4101 [(17, 63), (18, 63), (20, 1), (22, 2), (24, 64), (32, 0x1000), (40, 0x2000)]) 128 2 k.val
     startsB s ring0 v 0x07 gatherSpec = true ∧ (cmdOf s ring0 v 0x07).at 16 1 = k.val ∧
     (members (ctxAt (begun s ring0 v 0x07) 5) 0 1 2 = some [0, 9] ∧ ownRank (begun s ring0 v 0x07) [0, 9] = some 0) ∧
     (k.val ≤ 1 → gatherRefusal (begun s ring0 v 0x07) 5 (moveOf (cmdOf s ring0 v 0x07)) true = 0)) ∧
    retRoom member 1 = some 2 ∧ retRoom member 4 = none ∧ (fget member.ret.slot 63).st = .free ∧ (fget member.ret.slot 1).st = .retained ∧
    (fget member.ret.slot 2).st = .pending ∧ (fget member.ret.slot 3).st = .dropped ∧
    (let s := ringWorld member
     let w := word 0x08 4101 [(20, 1), (22, 2), (24, 64), (32, 0x1000), (40, 0x2000)]
     startsB s ring0 w 0x08 scatterSpec = true ∧ scatterRefusal (begun s ring0 w 0x08) 5 (moveOf (cmdOf s ring0 w 0x08)) true = 0) ∧
    (∀ k : Fin 2, let s := ringWorld member
     let v := putBits (word 0x09 4101 [(20, 1), (22, 2), (24, 5), (28, 64), (32, 0x1000), (44, 0x2000)]) 128 1 k.val
     startsB s ring0 v 0x09 reduceSpec = true ∧ reduceUnits (cmdOf s ring0 v 0x09) (begun s ring0 v 0x09) = some [0, 9] ∧
     reduceRefusal (begun s ring0 v 0x09) (reduceOf (cmdOf s ring0 v 0x09) (begun s ring0 v 0x09) 0) true = 0) := by
  decide +kernel

/-- A context with a Tier B page at its page 8 and Tier A pages 0 to 3, whose command names step 1. -/
def stepper : Ctx :=
  { live with xl := [(0, ⟨true, false, 3, true, false⟩), (8, ⟨true, false, 2 ^ 19 + 5, true, false⟩)] }

/-- The ledger of `stepper` changed. -/
def withLed (f : Ledger → Ledger) : Ctx := { stepper with led := f stepper.led }

theorem witness_StepCommands :
    startsB (ringWorld stepper) ring0 (word 3 4101) 0x03 fenceSpec = true ∧
    (∀ k : Fin 2,
      let s := ringWorld stepper (cells 0x601000 [0, 0, 0, 1, 0, 0, 0, 0, 1, 0, 0, 0, 63])
      let w := word 0x10 4101 [(16, 1), (24, 0x1000), (32, k.val)]
      startsB s ring0 w 0x10 openSpec = true ∧
      let b := findRange s.env 5 (begun s ring0 w 0x10) 0x1000 (16 * k.val)
      (match (if k.val = 0 then some [] else ctxBytes b 5 0x1000 (16 * k.val)) with
        | none => false
        | some d => decide (openRefusal b 5 1 (some ((List.range k.val).map fun i => rbEntry ((d.drop (16 * i)).take 16))) = none)) = true) ∧
    startsB (ringWorld (withLed fun l => { l with openStep := some 1 })) ring0 (word 0x11 4101 [(16, 1)]) 0x11 closeSpec = true ∧
    (∀ k : Fin 2, let g : Region := ⟨0, 65536, 15, 0, false⟩
      let s := ringWorld (if k.val = 0 then stepper else withLed fun l => { l with regions := [g] })
      let v := putBits (word 0x12 4101 [(17, 15), (32, 65536)]) 128 8 k.val
      startsB s ring0 v 0x12 declareSpec = true ∧ (k.val = 0 → declareRefusal (begun s ring0 v 0x12) 5 g = 0)) ∧
    (∀ k : Fin 2, let s := ringWorld (withLed fun l => { l with gens := [(k.val, { (default : GenRec) with st := .sealed, manifest := List.replicate 256 0 })] })
      let w := word 0x2B 4101 [(16, k.val), (32, 256)]
      startsB s .admin w 0x2B readoutSpec = true ∧ (fget (ctxAt (begun s .admin w 0x2B) 5).led.gens k.val).st = .sealed ∧
      rdLen (fget (ctxAt (begun s .admin w 0x2B) 5).led.gens k.val) ≤ 256) := by decide +kernel

/-- The machine with a plan that names the group of prefix length 4 and value 0, of which it is the head when the outcome is 1. -/
def planned (outcome : Nat) : State :=
  let s := ringWorld live
  { s with body := { s.body with fab := { s.body.fab with plan := some (List.replicate 243 0 ++ [0x84#8] ++ List.replicate 60 0), outcome := outcome, beats := 255 } } }

theorem witness_QueryCommands : (∀ k : Fin 3, startsB (planned 1) .admin (putBits (word 0x1F 0 [(24, 0x3000)]) 128 8 k.val) 0x1F querySpec = true) ∧
    (let v := putBits (word 0x1F 4101 [(20, 4 * 2 ^ 24), (24, 0x1000)]) 128 8 1
     startsB (planned 1) ring0 v 0x1F querySpec = true ∧ isOk (xlate (begun (planned 1) ring0 v 0x1F) 5 0x1000 64 true) = true ∧
     4 * 2 ^ 20 ∈ planGroups (begun (planned 1) ring0 v 0x1F) ∧ answersFor (begun (planned 1) ring0 v 0x1F) (4 * 2 ^ 20) = true ∧
     answersFor (begun (planned 0) ring0 v 0x1F) (4 * 2 ^ 20) = false) := by decide +kernel

/-- The machine whose host holds margining of stack 7, or nothing. -/
def heldWorld (h : Bool) : State :=
  let s := ringWorld default
  { s with body := { s.body with host := { s.body.host with holders := if h then [⟨grpKey 3 7, 3, true, none, 0⟩] else [] } } }

/-- The machine of `heldWorld` in DUSK. -/
def darkWorld : State :=
  let s := heldWorld false
  { s with body := { s.body with kpr := { s.body.kpr with pwr := { s.body.kpr.pwr with st := .dusk } } } }

/-- The keeper with a second valid image. -/
def modSlot1 (k : Kpr) : Kpr := { k with fw := { k.fw with slot := k.fw.slot ++ [(1, ⟨[], true, 0, []⟩)] } }

theorem witness_ScaffoldCommands :
    (∀ op : Fin 3, op.val ≠ 0 → ∀ h : Bool, startsB (heldWorld h) .admin (putBits (putBits (word 0x26 0 [(18, 3), (19, 7)]) 128 8 op.val) 136 8 3) 0x26 scafSpec = true) ∧
    actAccepts 3 3 7 = true ∧ blocker (heldWorld false).body (grpKey 3 7) 3 = none ∧ (blocker (heldWorld true).body (grpKey 3 7) 3).isSome = true ∧
    holds (heldWorld true).body (grpKey 3 7) 3 true = true ∧
    (∀ x ∈ [(1, 0, 0), (2, 3, 7), (4, 3, 7), (5, 3, 7), (6, 8, 3), (6, 7, 5), (6, 6, 15), (7, 0, 0), (8, 2, 8), (9, 0, 0)],
      let v := putBits (putBits (word 0x26 0 [(18, x.2.1), (19, x.2.2)]) 128 8 0) 136 8 x.1
      let b := begun (heldWorld false) .admin v 0x26
      startsB (heldWorld false) .admin v 0x26 scafSpec = true ∧ runBad b x.1 x.2.1 x.2.2 0 = false ∧ runInUse b x.1 x.2.1 x.2.2 = false ∧
      blocker b (grpKey x.2.1 x.2.2) x.1 = none) ∧
    (∀ op : Fin 3, let v := putBits (putBits (word 0x26 0 [(18, 3), (19, 7)]) 128 8 op.val) 136 8 3
      startsB darkWorld .admin v 0x26 scafSpec = true ∧ (begun darkWorld .admin v 0x26).kpr.pwr.st = .dusk) ∧
    fwRefusal (heldWorld false).body ≠ 0 ∧
    fwRefusal { (heldWorld false).body with kpr := modSlot1 (heldWorld false).body.kpr } = 0 := by decide +kernel

/-- A create block at 0x30000 in host memory: one ring of 16 entries at 0x40000, completions at 0x50000, vector 1; no job. -/
def block : List Nat :=
  List.replicate 12 0 ++ [1, 0] ++ List.replicate 34 0 ++ [0, 0, 4, 0, 0, 0, 0, 0, 0, 0, 5, 0, 0, 0, 0, 0, 4, 0, 1]

/-- The context of slot 5 in a state. -/
def inState (st : CState) (resetting : Bool) : State := ringWorld { live with id := { live.id with st := st, resetting := resetting } }

/-- A HALTED context whose third run asks for an exchange of panel 0 of die 0, which has a spare or none. -/
def exchanging (keep : Bool) : State :=
  let s := ringWorld { live with id := { live.id with st := .halted }, led := { live.led with adj := { live.led.adj with run := 3, exchange := [(0, 0)] } } }
  { s with body := { s.body with die := fmod s.body.die 0 fun d => { d with spare := if keep then none else d.spare } } }

theorem witness_ContextCommands :
    (let s := ringWorld live [] (cells 0x30000 block)
     let w := word 0x20 0 [(24, 0x30000)]
     startsB s .admin w 0x20 createSpec = true ∧ createCheck (begun s .admin w 0x20) (hostRead (begun s .admin w 0x20) 0x30000 256) = 0 ∧
     freeChoice (begun s .admin w 0x20) = some 0) ∧
    (∀ k : Fin 2, let s := ringWorld live
     let w := word 0x24 4101 [(16, k.val), (17, if k.val = 0 then 3 else 1), (20, 1), (24, 2 ^ 21), (32, 2 ^ 22)]
     startsB s .admin w 0x24 mapSpec = true ∧ mapCheck (begun s .admin w 0x24) 5 (k.val == 1) ((cmdOf s .admin w 0x24).bits 17 1 1 == 1) [1] [2] = 0) ∧
    (let s := ringWorld live
     let w := word 0x25 4101 [(20, 1)]
     startsB s .admin w 0x25 unmapSpec = true ∧ (fget (ctxAt (begun s .admin w 0x25) 5).xl 0).valid = true ∧
     pagesInUse (ctxAt (begun s .admin w 0x25) 5) 0 1 = false) ∧
    (∀ r : Bool, startsB (inState .live r) .admin (word 0x22 4101) 0x22 resetSpec = true ∧ startsB (inState .live r) .admin (word 0x21 4101) 0x21 destroySpec = true) ∧
    startsB (inState .halted false) .admin (word 0x21 4101) 0x21 destroySpec = true ∧
    startsB (inState .halted false) .admin (word 0x23 4101) 0x23 resumeSpec = true ∧
    (∀ keep : Bool, let s := exchanging keep
     let b := begun s .admin (word 0x23 4101) 0x23
     startsB s .admin (word 0x23 4101) 0x23 resumeSpec = true ∧ (ctxAt b 5).id.st = .halted ∧ (ctxAt b 5).id.resetting = false ∧
     decide ((ctxAt (exchangeNow s.env (leaveHaze s.env b) 5) 5).led.adj.exchange = []) = !keep) := by decide +kernel

/-- The manifest of a generation of step 4 with no chunk; its last 32 bytes are the SHA-256 of the others. -/
def manifest : List (BitVec 8) :=
  [0x49, 0x4C, 0x4D, 0x4E, 0, 0, 0, 0, 4] ++ List.replicate 215 0 ++ [26, 153, 37, 152, 122, 166, 241, 34, 253, 167, 122, 65, 136, 201, 26, 185, 48, 62, 208, 93, 223, 180, 184, 160, 72, 76, 199, 230, 46, 209, 163, 40]

/-- A HALTED context whose step 4 is sealed and held, with one chunk of another size or none. -/
def halted : Ctx :=
  { live with
    id := { live.id with st := .halted }
    led := { live.led with sealedStep := 4, buddies := [⟨9, true, true, [], []⟩]
                           gens := [(0, { (default : GenRec) with st := .sealed, step := 4, manifest := manifest, copies := [⟨0, 0, 0⟩] })] } }

theorem manifest_whole : manifestOk manifest = true := by decide +kernel

theorem witness_RecoveryCommands :
    (∀ d : Fin 2, startsB (ringWorld live) .admin (word 0x28 4101 [(16, 2 + d.val), (20, 9), (24, 7 * d.val)]) 0x28 buddySpec = true) ∧
    startsB (ringWorld halted) .admin (word 0x29 4101 [(16, 4)]) 0x29 rollSpec = true ∧
    (fget halted.led.gens (genOfStep 4)).step = 4 ∧ chunksOk manifest [] = true ∧
    chunksOk (manifest.take 104 ++ [1#8] ++ manifest.drop 105) [] = false ∧
    (∀ k : Fin 3, startsB (ringWorld halted) .admin (putBits (word 0x2A 4101 [(24, 4), (32, if k.val = 0 then 0 else 0x30000)]) 128 8 k.val) 0x2A restoreSpec = true) ∧
    regionsMatch halted manifest = true ∧
    (let b := (ringWorld halted [] (cells 0x30000 (manifest.map (·.toNat)))).body
     (hostStream b 0x30000).1 = manifest ∧ (hostStream b 0x30000).2 = [] ∧ bytesAt manifest 0 4 = 0x4E4D4C49 ∧ bytesAt manifest 8 8 = 4) ∧
    (let b := (ringWorld halted [] (cells 0x30000 [3, 0, 0, 0, 9])).body
     (∀ y ∈ (hostRead b 0x30000 64).drop 12, y = 0) ∧ bytesAt (hostRead b 0x30000 64) 0 4 = 3 ∧ bytesAt (hostRead b 0x30000 64) 4 4 = 9) := by
  decide +kernel

theorem witness_rollback_accepted : (rollRefusal halted.led 4 = 0) := by
  decide +kernel

/-! ### Launch, completions, ring controls: witnesses -/

/-- An allocation descriptor at 0x1000 of one thread, at position 0, with a fill of 64 bytes at 0x2000. -/
def descriptor : List Host.Cell := cells 0x601012 [1] ++ cells 0x601040 [0, 0, 1, 0, 1, 0, 0, 0, 0, 0x20, 0, 0, 0, 0, 0, 0, 64]

/-- A LAUNCH of it on panel 0 of die 0. -/
def launchWord : BitVec 512 := word 6 4101 [(24, 0x1000)]

/-- The launch's world; the panel is rotating or not. -/
def launchWorld (rot : Bool) : State :=
  let s := ringWorld live descriptor
  { s with body := { s.body with panel := (0, { (default : Panel) with rotUntil := if rot then 1600 else 0 }) :: s.body.panel } }

theorem witness_LaunchAssignsThePanel : ∀ rot : Bool,
    let s := launchWorld rot
    let c := cmdOf s ring0 launchWord 6
    let b0 := findRange s.env c.slot (leaveHaze s.env (begun s ring0 launchWord 6)) 0x1000 64
    let b := findRange s.env c.slot b0 0x1000 (allocLen ((ctxBytes b0 c.slot 0x1000 64).getD []))
    startsB s ring0 launchWord 6 launchSpec = true ∧ (c.at 16 1, c.at 17 1, c.at 18 1, c.at 24 8) = (0, 0, 0, 0x1000) ∧
    ((readAlloc b c.slot 0x1000).any fun a => (flightOf b c).any fun f =>
      let b1 := modCtx b c.slot fun x => { x with launch := x.launch ++ [⟨0, 0, a.ents.map (·.th), ringNum ring0, f, none, false, a, 0, []⟩] }
      !allocBad a && !allocBusy (reserved b 0 0 (panelAt b 0)) c.slot a && !allocUnmapped b c.slot a && !fillsWait b1 c.slot a &&
        b1.mem.bad.isEmpty && a.ents.length == 1) = true ∧
    physOf b 0 0 = some 0 ∧ (decide ((panelAt b 0).rotUntil = 0) = !rot) ∧ fget b.kpr.running 0 = none := by
  decide +kernel

/-- A command in flight. -/
def flight (opc seq : Nat) (done : Option (Nat × BitVec 32)) : Flight := ⟨3, opc, false, false, 0, 0, seq, done⟩

/-- A launch of one thread, started or waiting, with event 4 or none as its DONE event. -/
def launched (wait dev : Bool) : State :=
  let l : LaunchRec := ⟨0, 0, [0], 0, flight 6 9 none, if dev then some 4 else none, !wait, default, 0, []⟩
  world { runs with st := .stopped } { live with ring := [(0, ring1)], launch := [l] }

theorem witness_LaunchAssignsThePanel_done :
    (∀ w dev : Bool, ((ctxAt (launched w dev).body 5).launch.find? (fun l => l.fly.seq == 9)).isSome = true) ∧
    (∀ dev : Bool, ∀ l ∈ (ctxAt (launched false dev).body 5).launch, launchComplete (launched false dev).body 5 l = true ∧ l.dev.isSome = dev) ∧
    (∀ l ∈ (ctxAt (launched true true).body 5).launch, launchComplete (launched true true).body 5 l = false) := by decide +kernel

/-- Slot 5 with ring 0 as given. -/
def ringOf (f : Ctx → Ctx) (x : Ring) : State :=
  { State.reset with
    clk := ⟨5, 0, 9000⟩
    body := { Body.reset with ctx := { Body.reset.ctx with slot := [(5, { f live with ring := [(0, x)] })] } } }

/-- That ring with commands in flight. -/
def flying (l : List Flight) : State := ringOf (fun c => { c with led := { c.led with waits := [⟨1, 0, 9⟩], openStep := some 1 } }) { ring1 with fly := l }

/-- Slot 5 with records that wait for the moderation timer of ring 0, the vector masked or not. -/
def moderated (openV : Bool) : State :=
  let s := ringOf id { ring1 with irqCnt := 1, modTick := 2, irqTick := 3, vec := 1 }
  { s with body := { s.body with host := { s.body.host with master := true, vtable := if openV then [(7, 1)] else [] } } }

theorem witness_CompletionRecordsAndRingControls :
    (let s := flying [flight 1 9 (some (0, 0))]
     (ringAt s.body ring0).fly.find? (·.seq == 9) = some (flight 1 9 (some (0, 0))) ∧ s.body.kpr.pwr.stopped = false) ∧
    (let s := flying [flight 3 9 none]
     (ringAt s.body ring0).fly.find? (·.seq == 9) = some (flight 3 9 none) ∧ ∀ q ∈ ctxRings 5, ∀ g ∈ (ringAt s.body q).fly, 9 ≤ g.seq) ∧
    (let s := flying [flight 3 9 none, flight 4 8 none]
     (ringAt s.body ring0).fly.find? (·.seq == 9) = some (flight 3 9 none) ∧ ∃ q ∈ ctxRings 5, ∃ g ∈ (ringAt s.body q).fly, g.seq < 9) ∧
    (∀ busy : Bool, let s := flying (flight 0x11 9 none :: if busy then [flight 4 8 none] else [])
     (ringAt s.body ring0).fly.find? (·.seq == 9) = some (flight 0x11 9 none) ∧
     (ctxAt s.body 5).led.waits.find? (·.seq == 9) = some ⟨1, 0, 9⟩ ∧ closeReady s.body 5 1 = !busy) ∧
    (let s := ringOf id ring1
     handleOf s.env s.body 5 = 4101 ∧ (ctxAt s.body 5).id.st = .live ∧ (ctxAt s.body 5).id.resetting = false ∧ (ringAt s.body ring0).present = true ∧
     (1 : Nat) < 2 ^ (ringAt s.body ring0).logn) ∧
    ((ringWorld live).body.host.ar.en = true ∧ (15 : Nat) < 2 ^ (ringWorld live).body.host.ar.logn) ∧
    (∀ o : Bool, let s := moderated o
     let x := ringAt s.body ring0
     x.irqCnt ≠ 0 ∧ x.modTick ≠ 0 ∧ x.irqTick + x.modTick ≤ s.clk.tick.toNat ∧ vecOpen s.body x.vec = o ∧ x.vec ∉ s.body.host.vpend) ∧
    (let s := ringOf (fun c => { c with led := { c.led with replay := some 1 } }) ring1
     replaying s.body 5 = true ∧ (ctxAt s.body 5).led.replayQ = [] ∧ shadowing s.body 5 = false) ∧
    (served State.reset.body .hst = true ∧ State.reset.body.host.ar.en = false ∧ State.reset.body.kpr.start.phase = 0) ∧
    (∀ v ∈ [4, 12], 4 ≤ fld (BitVec.ofNat 32 (v * 2 ^ 16)).toNat 19 16 ∧ fld (BitVec.ofNat 32 (v * 2 ^ 16)).toNat 19 16 ≤ 12) ∧
    served (ringWorld live).body .hst = true := by decide +kernel

/-! ### Snapshots, seals, Contrail: witnesses -/

/-- Slot 5 with a context changed by `f`. -/
def ctxWorld (f : Ctx → Ctx) : State :=
  { State.reset with body := { Body.reset with ctx := { Body.reset.ctx with slot := [(5, f live)] } } }

/-- The first 64 KiB of a context, declared. -/
def firstRegion : Region := ⟨0, 2 ^ 16, 0, 0, false⟩

/-- A context whose snapshot of step 2 runs, holding stacks `h`, with stacks `d` done, of that region. -/
def snapping (h d : List Nat) (c : Ctx) : Ctx :=
  { c with led := { c.led with
    regions := [firstRegion], snap := some ⟨2, [], d, h, [0], []⟩
    gens := [(0, { (default : GenRec) with st := .writing, step := 2 })]
    step := [(2, { (default : StepRec) with used := true, closed := true, regions := [firstRegion] })] } }

/-- The same, as a shadow. -/
def snapShadow (c : Ctx) : Ctx := { snapping [0, 1] [0, 1] c with con := { c.con with role := 2, active := true, peer := 9 } }

/-- The same, with stack 0 held by margining of the host or not. -/
def snapWorld (busy : Bool) (h d : List Nat) : State :=
  let s := ctxWorld (snapping h d)
  { s with body := { s.body with host := { s.body.host with holders := if busy then [⟨grpKey 3 0, 3, true, none, 0⟩] else [] } } }

/-- A context whose closed step 1 waits for its snapshot, the step before it still open to decision or not. -/
def waitingCtx (busy : Bool) (c : Ctx) : Ctx :=
  { c with led := { c.led with step :=
    (if busy then [(0, { (default : StepRec) with used := true, closed := true, snapDone := true })] else []) ++
    [(1, { (default : StepRec) with used := true, closed := true })] } }

theorem witness_SnapshotEvents :
    (∀ busy : Bool, let l := (ctxAt (ctxWorld (waitingCtx busy)).body 5).led
     l.snap = none ∧ l.waitingSnaps.head? = some (1, { (default : StepRec) with used := true, closed := true }) ∧ (fget l.step 0).used = busy ∧
     l.readout = []) ∧
    (∀ busy : Bool, let s := snapWorld busy [] []
     (ctxAt s.body 5).led.snap.isSome = true ∧ stackImage s.body 5 [firstRegion] 0 ≠ [] ∧ (blocker s.body (grpKey 3 0) 4).isSome = busy) := by
  decide +kernel

theorem witness_SnapshotEvents_copy : ∀ held : Bool,
    let s := snapWorld false (if held then [0, 1] else []) []
    (((List.range (stackImage s.body 5 [firstRegion] 0).length).zip (stackImage s.body 5 [firstRegion] 0)).take 2048).isEmpty = false ∧
    (((List.range 32).filterMap fun i => granStack s.body (ctxAt s.body 5) (2048 * i)).all fun q =>
      (if held then [0, 1] else []).contains q || ([] : List Nat).contains q) = held := by decide +kernel

theorem witness_SnapshotEvents_complete :
    (let s := snapWorld false [0, 1] [0, 1]
     ((ctxAt s.body 5).led.snap.all fun sn => snapAll s.body 5 sn) = true ∧ shadowing s.body 5 = false) ∧
    (let s := snapWorld false [0, 1] []
     ((ctxAt s.body 5).led.snap.any fun sn => snapAll s.body 5 sn) = false) ∧
    (let s := ctxWorld snapShadow
     ((ctxAt s.body 5).led.snap.all fun sn => snapAll s.body 5 sn) = true ∧ shadowing s.body 5 = true) := by
  decide +kernel

/-- A frame of job 7 that comes from this module itself. -/
def via (n : Nat) : Via := ⟨none, ⟨0, n, 7, 0, 0, 0⟩⟩

/-- `IsNew` and `Arrives`, as conditions that can be decided. -/
def newB (s : State) (v : Via) : Bool := portTakes s.body v.port v.hdr.src == .yes && !s.body.fab.seen.contains (v.hdr.src, v.hdr.seq)
def arrivesB (s : State) (slot : Nat) (v : Via) (need : CtxId → Bool) : Bool :=
  newB s v && v.hdr.job != 0 && (ctxAt s.body slot).id.job == v.hdr.job && need (ctxAt s.body slot).id &&
  jobLevel (ctxAt s.body slot) == (v.hdr.trn, v.hdr.col, v.hdr.ldg)

theorem isNew_of {s : State} {v : Via} (h : newB s v = true) : IsNew s v := by
  simp only [newB, Bool.and_eq_true, beq_iff_eq, Bool.not_eq_true', List.contains_eq_mem, decide_eq_false_iff_not] at h
  exact h

theorem arrives_of {s : State} {slot : Nat} {v : Via} {need : CtxId → Bool} (h : arrivesB s slot v need = true) : Arrives s slot v need := by
  simp only [arrivesB, Bool.and_eq_true, beq_iff_eq, bne_iff_ne] at h
  obtain ⟨⟨⟨⟨h1, h2⟩, h3⟩, h4⟩, h5⟩ := h
  exact ⟨isNew_of h1, ⟨h2, h3⟩, h4, h5⟩

/-- The context of job `j` with step 1 as given. -/
def stepped (j : Nat) (r : StepRec) (c : Ctx) : Ctx := { c with id := { c.id with job := j }, led := { c.led with step := [(1, { r with used := true, closed := true })] } }

/-- The same, as a Contrail leader (1) or shadow (2), with its generation complete; a shadow is admitted at its second match. -/
def contrail (role : Nat) (c : Ctx) : Ctx :=
  let d := stepped 7 { (default : StepRec) with snapDone := true } c
  { d with con := { d.con with role := role, active := decide (role ≠ 0), peer := 9, admitAt := 2 }
           led := { d.led with gens := [(1, { (default : GenRec) with st := .complete, step := 1, manifest := List.replicate 256 0 })] } }

/-- A shadow with one match. -/
def nearAdmission (c : Ctx) : Ctx := { contrail 2 c with con := { (contrail 2 c).con with hits := 1 } }

theorem witness_SealAndContrailEvents :
    (∀ clean dirty : Bool, let s := ctxWorld (stepped 7 { (default : StepRec) with snapDone := clean, dirtyOther := dirty })
     let l := (ctxAt s.body 5).led
     let r := fget l.step 1
     r.used = true ∧ shadowing s.body 5 = false ∧ r.report = none ∧ stepClean r = (clean && !dirty) ∧ stepDirty l 1 = dirty ∧
     (∀ x ∈ r.reports, x.1 ≠ 17) ∧ arrivesB s 5 (via 3) isHeld = true ∧ r.refused = false) ∧
    (let s := ctxWorld fun c => { stepped 7 default c with id := { c.id with st := .halted } }
     arrivesB s 5 (via 3) isHeld = true ∧ (ctxAt s.body 5).id.st = .halted ∧ (fget (ctxAt s.body 5).led.step 2).used = false) ∧
    (let r (own : Nat) (rep : Option Bool) : StepRec := { (default : StepRec) with own := some own, report := rep, kids := [(1, 17)] }
     let q (own : Nat) (rep : Option Bool) : StepRec := fget (ctxAt (ctxWorld (stepped 7 (r own rep))).body 5).led.step 1
     let ok (q : StepRec) : Bool := !(q.report == some false || q.reports.any (!·.2))
     let all (q : StepRec) : Bool := q.report.isSome && q.kids.all fun k => q.reports.any (·.1 == k.1)
     (ok (q 0 (some true)) = true ∧ all (q 0 (some true)) = false) ∧
     ∀ own ∈ [0, 1], ok (q own (some false)) = false ∧ (q own (some false)).own.getD 0 = own ∧ (q own (some false)).sentUp = false ∧
       (q own (some false)).used = true ∧ (q own (some false)).refused = false) ∧
    (∀ role ∈ [0, 1, 2], let s := ctxWorld (contrail role)
     served s.body (.ctx 5) = true ∧ (ctxAt s.body 5).con.active = decide (role ≠ 0)) ∧
    (∀ r : Fin 4, fld (BitVec.ofNat 32 (r.val * 2 ^ 30 + 9)).toNat 31 30 = r.val) ∧
    (let s := ctxWorld (contrail 2)
     shadowing s.body 5 = true ∧ arrivesB s 5 (via 3) isLive = true ∧ arrivesB s 5 (via 3) isHeld = true ∧
     isOk (xlate s.body 5 0x1000 64 true) = true ∧ (ctxAt s.body 5).con.admitted = false ∧
     min 65535 ((ctxAt s.body 5).con.hits + 1) < (ctxAt s.body 5).con.admitAt) ∧
    (let s := ctxWorld nearAdmission
     shadowing s.body 5 = true ∧ arrivesB s 5 (via 3) isHeld = true ∧ (ctxAt s.body 5).con.admitted = false ∧ 0 < (ctxAt s.body 5).con.admitAt ∧
     (ctxAt s.body 5).con.admitAt ≤ min 65535 ((ctxAt s.body 5).con.hits + 1)) ∧
    (let s := ctxWorld (contrail 1)
     let c := ctxAt s.body 5
     let g := fget c.led.gens 1
     arrivesB s 5 (via 3) isHeld = true ∧ c.con.role = 1 ∧ c.con.active = true ∧ g.step = 1 ∧ g.st = .complete) := by decide +kernel

/-! ### Lining, acknowledgements, memory: witnesses -/

/-- The bytes of the SHA-256 of nothing (FIPS 180-4). -/
def emptyDigest : List (BitVec 8) :=
  [227, 176, 196, 66, 152, 252, 28, 20, 154, 251, 244, 200, 153, 111, 185, 36, 39, 174, 65, 228, 100, 155, 147, 76, 164, 149, 153, 27, 120, 82, 184, 85]

/-- A partner's manifest of step 4 with no chunk: its digest of the chunks is that of nothing, and it ends in its own digest. -/
def copyManifest : List (BitVec 8) :=
  [0x49, 0x4C, 0x4D, 0x4E, 0, 0, 0, 0, 4] ++ List.replicate 31 0 ++ emptyDigest ++ List.replicate 152 0 ++
  [37, 44, 191, 88, 171, 226, 165, 80, 175, 80, 116, 152, 175, 243, 83, 152, 251, 192, 164, 109, 67, 152, 224, 251, 134, 194, 131, 198, 165, 165, 88, 162]

/-- The machine whose Lining holds copies for `n` partners of job 3, unit 9 first, with step 4 being written or complete, and whose context
of job 7 shadows unit 9; of `logged` commands in its log. -/
def lining (n : Nat) (st : GState) (logged : Nat) : State :=
  let s := ctxWorld fun c => { contrail 2 c with led := { (contrail 2 c).led with replayQ := List.replicate logged ⟨1, 0, 0⟩ } }
  { s with body := { s.body with
    mem := { s.body.mem with tb := { s.body.mem.tb with liningIn := if logged = 0 then 1 else 0 } }
    fab := { s.body.fab with partner := (List.range n).map fun i =>
      { (default : Partner) with job := 3, unit := 9 + i, genA := { (default : GenRec) with st := st, step := 4 } } } } }

theorem witness_LiningMessages :
    (∀ n ∈ [1, 2], ∀ st ∈ [GState.writing, .complete], newB (lining n st 0) (via 3) = true) ∧
    (let put (p : Partner) : Partner := p.modGen 4 fun g => storeChunk g 4 (chunkOf 0 0 [] emptyDigest [])
     liningRoom (lining 1 .writing 0).body 3 9 put = true ∧ liningRoom (lining 2 .writing 0).body 3 8 put = false) ∧
    sha256 [] = emptyDigest ∧ sha256 [] ≠ [0] ∧
    (∀ m : Bool, let b := (lining 1 .writing 0).body
     ((partnerOf b 3 9).any fun p => copyOk (if m then copyManifest else []) (p.gen 4) && (p.gen 4).step == 4) = m) ∧
    (∀ f ∈ [(fun p : Partner => { p with inputs := p.inputs ++ [(4, 0x1000, [1#8])] }), (Partner.logged · 4 0 0), id],
      liningRoom (lining 1 .writing 0).body 3 9 f = true ∧ liningRoom (lining 2 .writing 0).body 3 8 f = false) ∧
    shadowOf (lining 1 .writing 0).body 3 9 = none ∧ (partnerOf (lining 1 .complete 0).body 3 9).isSome = true ∧
    (∀ st ∈ [GState.writing, .complete], ((partnerOf (lining 1 st 0).body 3 9).any fun p => (p.gen 4).step == 4 && (p.gen 4).st == .complete) = decide (st = .complete)) ∧
    (∀ k ∈ [0, 1], shadowOf (lining 1 .writing k).body 7 9 = some 5 ∧
      (64 * ((ctxAt (lining 1 .writing k).body 5).led.replayQ.length + 1) ≤ partSize (lining 1 .writing k).body 1 / 3 ↔ k = 0)) := by decide +kernel

/-- The machine after reset with its body changed, in tick 5,000,000. -/
def made (f : Body → Body) : State := { State.reset with clk := ⟨5000000, 0, 1600⟩, body := f Body.reset }

def withMem (f : MemSt → MemSt) (b : Body) : Body := { b with mem := f b.mem }
def withFab (f : FabSt → FabSt) (b : Body) : Body := { b with fab := f b.fab }
def withKpr (f : Kpr → Kpr) (b : Body) : Body := { b with kpr := f b.kpr }
def withPwr (f : PowerSt → PowerSt) (b : Body) : Body := { b with kpr := { b.kpr with pwr := f b.kpr.pwr } }
def withStart (f : StartSt → StartSt) (b : Body) : Body := { b with kpr := { b.kpr with start := f b.kpr.start } }
def withBrd (f : Brd → Brd) (b : Body) : Body := { b with brd := f b.brd }
def withCtx (f : Ctx → Ctx) (b : Body) : Body := { b with ctx := { b.ctx with slot := [(5, f live)] } }

/-- The group `g` held for activity `a`, by the host or not. -/
def withHolder (g a : Nat) (host : Bool) (b : Body) : Body :=
  { b with host := { b.host with holders := b.host.holders ++ [⟨g, a, host, none, 0⟩] } }

/-- A context in reset whose panels `l` are still to be scrubbed. -/
def scrubbing (l : List Nat) : State := made (withCtx fun c => { c with id := { c.id with resetting := true, scrubs := l } })

/-- A COPY of one line. -/
def copying : State :=
  made fun b => { withCtx id b with ctx := { (withCtx id b).ctx with
    jobs := [⟨77, 5, 4101, 0, 9, 0, [⟨0, [⟨false, 0x600000, 64⟩], [⟨false, 0x602000, 64⟩], [], false⟩], 0, false, none, 0⟩] } }

/-- A context of job 7 whose buddy is unit 9, which refused the chunk 0 of stack 0 of step 1 before or not, with a BUDDY_SET that asks it. -/
def buddied (again : Bool) : State := made (withCtx fun c => { c with led := { c.led with
  buddies := [⟨9, false, false, if again then [(1 * 8 + 0) * 2 ^ 16 + 0] else [], []⟩]
  bset := some ⟨9, false, 2, [9], [], false, []⟩
  gens := [(1, { (default : GenRec) with st := .complete, step := 1, chunks := [{ (default : GenChunk) with len := 64 }] })] } })

theorem witness_AcknowledgementsRelease :
    (∀ again : Bool, let s := buddied again
     let l := (ctxAt s.body 5).led
     arrivesB s 5 (via 3) isHeld = true ∧ (l.bset.all fun x => decide (∀ r : Fin 4, (9, 2, r.val) ∉ x.acks) && x.want.contains 9 && x.got.isEmpty) = true ∧
     l.bset.isSome = true ∧ (l.buddies.find? (·.unit == 9)).any (fun y => y.refusedOnce.contains ((1 * 8 + 0) * 2 ^ 16 + 0)) = again ∧
     (l.buddies.find? (·.unit == 9)).isSome = true ∧ (fget l.gens (1 % 2)).step = 1 ∧
     ((fget l.gens (1 % 2)).chunks.find? (fun x => x.stack == 0 && x.idx == 0)).isSome = true) ∧
    (∀ l ∈ [[0], [0, 1]], let x := (ctxAt (scrubbing l).body 5).id
     x.resetting = true ∧ physKey ⟨0, 0⟩ ∈ x.scrubs ∧ x.dying = false ∧ x.scrubs = l) ∧
    (let s := copying
     memRuns s.body = true ∧ s.body.fab.puts.find? (·.uid == 77) = none ∧
     ((s.body.ctx.jobs.find? (·.uid == 77)).any fun j => (j.todo.find? (fun x => x.id == 0 && !x.remote)).any fun x =>
       !segsWait s.body x.src && x.pool.isEmpty &&
         (let b0 := findSegs s.env (some j.slot) (unqueued s.body) x.src
          (putPiece s.env b0 j.slot 77 0 x.dst (readSegsB b0 x.src)).2)) = true) := by decide +kernel

/-- Sander at segment `n`; stack 0, Tier B's group or stratum 3 held by the host or not. -/
def sweeping (n : Nat) (busy : Bool) : State :=
  made fun b => (if busy then withHolder (grpKey (segGroup n).1 (segGroup n).2) 3 true else id) (withMem (fun m => { m with snd := { m.snd with next := n } }) b)

/-- Stack 7 with its channel 31 in state `x`, retained for retraining (`r`) or held by the host (`h`). -/
def channel (x : Nat) (r h : Bool) : State :=
  made fun b => (if r then withHolder (grpKey 3 7) 6 false else id) ((if h then withHolder (grpKey 3 7) 3 true else id)
    (withBrd (fun r => { r with stackTemp := fset r.stackTemp 7 240 })
      (withMem (fun m => { m with stack := fmod m.stack 7 fun k => { k with ch := fset k.ch 31 x, retryAt := fset k.retryAt 31 1000000 } }) b)))

/-- A margin run of channel 31 of stack 7. -/
def margining : State := made (withMem fun m => { m with mrg := { m.mrg with busy := true, run := some (0, 255) } })

theorem witness_MemoryMaintenance :
    (∀ n ∈ [0, 2563], ∀ busy : Bool, let s := sweeping n busy
     let q := s.body.mem.snd
     q.period ≠ 0 ∧ memRuns s.body = true ∧ q.again = [] ∧ q.next = n ∧ segOn q n = true ∧ q.first = [] ∧
     (blocker s.body (grpKey (segGroup n).1 (segGroup n).2) 2).isSome = busy ∧ segWritten s.body n = false) ∧
    (∀ h : Bool, let s := channel 0 false h
     memRuns s.body = true ∧ chState s.body 7 31 = 0 ∧ (∀ t ∈ [6, 7], ∀ j ∈ List.range 32, chState s.body t j ≠ 1) ∧
     240 ≤ (fget s.body.brd.stackTemp 7 - fget (fget s.body.mem.stack 7).trainTemp 31).natAbs ∧
     (blocker s.body (grpKey 3 7) 6).isSome = h ∧ fget (fget s.body.mem.stack 7).retryAt 31 ≠ 0 ∧
     fget (fget s.body.mem.stack 7).retryAt 31 ≤ s.clk.tick.toNat) ∧
    retrainDue State.reset.env State.reset.body 7 31 = false ∧ memRuns (made (withPwr fun p => { p with st := .dusk })).body = false ∧
    (made (withMem fun m => { m with snd := { m.snd with period := 0 } })).body.mem.snd.period = 0 ∧
    (chState (channel 1 true false).body 7 31 = 1 ∧ holds (channel 1 true false).body (grpKey 3 7) 6 false = true) ∧
    margining.body.mem.mrg.run = some (0, 32 * 7 + 31) ∧ chState margining.body 7 31 = 0 ∧
    fget State.reset.body.mem.tb.out 23 = false ∧ State.reset.body.mem.mrg.run ≠ some (1, 23) := by decide +kernel

/-- Memory initialisation at page `k`. -/
def initialising (k : Nat) : State := made (withMem fun m => { m with initAt := some k })

theorem witness_MarginAndInitialisation :
    memRuns State.reset.body = true ∧ served State.reset.body .mrg = true ∧
    (∀ h : Bool, marginOk (channel 0 false h).body (fld (255 * 2 ^ 19) 29 27) (fld (255 * 2 ^ 19) 26 19) = h) ∧
    margining.body.mem.mrg.busy = true ∧ margining.body.mem.mrg.run = some (0, 255) ∧
    (let n := ((initRanges State.reset.body).map (·.2)).sum
     (∀ k ∈ [0, n - 1], (initialising k).body.mem.initAt = some k ∧ memRuns (initialising k).body = true ∧ (initialising k).body.kpr.start.phase = 0) ∧
     0 + 1 < n ∧ n ≤ n - 1 + 1) := by decide +kernel

/-! ### Griand ports, packets: witnesses -/

/-- Port 5 as given. -/
def port (p : Port) : State := made (withFab fun f => { f with port := fset f.port 5 p })

/-- A port that trains. -/
def listening : Port := { (default : Port) with st := 2, hello := true, lanes := 8 }

/-- What training finds: version ranges of the other end, and a lane that has failed. -/
def trains (phy link : Nat × Nat) (lane : Option Nat) (second : Bool) : PortTrain := ⟨phy, link, (1, 2), (1, 2), (1, 2), lane, second⟩

/-- This module, unit 8, with port 5 UP, qualified in a group of prefix length 4 which it heads, alone, with unit 9 heard, or below unit 7. -/
def grouped (others : List Nat) : State :=
  let s := planned 1
  { s with body := withFab (fun f => { f with
      addr := 8, valid := true, port := fset f.port 5 { (default : Port) with st := 1 }
      watch := others.map fun u => (u, { (default : Watch) with used := true, outcome := 1 }) }) s.body }

theorem witness_GriandPortEvents :
    griandTrains State.reset.body = true ∧ griandTrains (made (withBrd fun r => { r with mateOpen := true })).body = false ∧
    (∀ t ∈ [trains (3, 4) (3, 4) none false, trains (1, 2) (5, 6) none false, trains (1, 2) (3, 4) none true, trains (1, 2) (3, 3) (some 9) false,
        trains (1, 2) (3, 4) (some 9) false, trains (1, 2) (3, 4) none false],
      let r (k : Nat) : Nat × Nat := (fget State.reset.body.fab.range k, fget State.reset.body.fab.range (k + 1))
      let bad := noRange (common (r 4) t.phy) || noRange (common (r 2) t.link)
      let two := t.second || (t.lane.isSome && decide ((common (r 2) t.link).2 < 4))
      bad = (t.phy == (3, 4) || t.link == (5, 6)) ∧ two = (t.second || t.link == (3, 3))) ∧
    (fget (port { listening with failLane := some 1 }).body.fab.port 5).failLane = some 1 ∧
    (fget (port listening).body.fab.port 5).st ≠ 0 ∧ (fget (port listening).body.fab.port 5).hello = true ∧
    (fget (port { listening with hello := false }).body.fab.port 5).hello = false ∧
    (∀ n ∈ [6, 7], (fget (port { listening with run := n }).body.fab.port 5).run = n) ∧
    (fget (port default).body.fab.port 5).st = 0 ∧ griandTrains (port default).body = true ∧
    (∀ l ∈ [[], [9], [7]], let b := (grouped l).body
      clocksRun b = true ∧ portUp b 5 = true ∧ b.fab.addr = 8 ∧ b.fab.valid = true ∧ 4 * 2 ^ 20 ∈ planGroups b ∧
      answersFor b (4 * 2 ^ 20) = decide (l ≠ [7]) ∧ (l ≠ [7] → askKeys b 20 (4 * 2 ^ 20) = l.map fun u => 20 * 2 ^ 20 + u) ∧ b.fab.asks = []) ∧
    portUp State.reset.body 5 = false ∧ 19 * 2 ^ 20 + (2 ^ 20 - 1) ∉ planGroups (grouped []).body := by decide +kernel

/-- A LIVE context of job 7 of level (2, 2, 2), ports 3 and 5 UP with that level, port 5 in Drizzle or not, the packets of unit 9 up to 3 seen. -/
def networked (drz : Bool) : State := made fun b =>
  let p : Port := { (default : Port) with st := 1, lanes := 8, trn := (1, 2), col := (1, 2), ldg := (1, 2) }
  withCtx (fun c => { c with id := { c.id with trn := 2, col := 2, ldg := 2 } })
    (withFab (fun f => { f with addr := 8, port := fset (fset f.port 3 p) 5 { p with drz := drz }, seen := [(9, 3)] }) b)

/-- The header of a packet of unit `src` with number `n`. -/
def hdr (src n job trn : Nat) : PktHdr := ⟨src, n, job, trn, 2, 2⟩

/-- A put of one line. -/
def put (a : Nat) : InPkt := .put a (List.replicate 64 1) [false]

theorem witness_PacketsAndAcknowledgements :
    (∀ drz : Bool, let s := networked drz
     portTakes s.body (some 5) 9 = (if drz then .drop else .yes) ∧ portTakes s.body (some 0) 9 = .no ∧ portTakes s.body none 8 = .yes ∧
     (9, 3) ∈ s.body.fab.seen ∧ (9, 4) ∉ s.body.fab.seen ∧ jobCtx s.body 6 = none ∧
     (jobCtx s.body 7).any (fun x => x.1 == 5 && jobLevel x.2 == (2, 2, 2)) = true ∧
     (packetItems s.body 5 (put (2 ^ 40))).isNone = true ∧ (packetItems s.body 5 (put 0x1000)).isSome = true ∧ s.body.host.queries.isEmpty = true ∧
     s.body.fab.asks.isEmpty = true ∧ newB s ⟨some 3, hdr 9 4 7 2⟩ = true ∧ arrivesB s 5 ⟨some 3, hdr 9 4 7 2⟩ isLive = true ∧
     (ctxAt s.body 5).id.job ≠ 6 ∧ jobLevel (ctxAt s.body 5) ≠ (1, 2, 2)) := by
  decide +kernel

/-- A packet of this module that has been sent `n` times. -/
def outPkt (f : Frame) (n : Nat) : OutPkt := ⟨12, 5, 4101, 3, 1, f, n, false, 7, (2, 2, 2), if n = 0 then none else some 5, false⟩

/-- A far put or get, and a question to a buddy. -/
def farPut : Frame := .put 9 12 3 0x1000 (List.replicate 64 1) [false]
def farGet : Frame := .get 9 12 3 0x1000 64

/-- Panel 4 with a far put and a far get, of which this module has sent `f`, `n` times. -/
def sentWorld (n : Nat) (f : Frame) : State :=
  let s := networked false
  let i : Ins := { (default : Ins) with uid := 3, slot := 5, handle := 4101 }
  { s with body := { s.body with
    panel := fset s.body.panel 4 { (default : Panel) with
      store := [newStore i 4 1 (.fput 9) ⟨16, none⟩ 1 [] [] false 0]
      load := [⟨i, 3, 1, .fget 9, 0, [⟨16, 0, [], [], [0]⟩], [], [], 0, false, []⟩] }
    fab := { s.body.fab with out := [outPkt f n] } } }

theorem witness_PacketsAndAcknowledgements_sent :
    (let c := (sentWorld 1 farPut).body
     carriers c (2, 2, 2) = List.replicate 8 3 ++ List.replicate 8 5 ∧ carriers c (3, 2, 2) = [] ∧ frameDst farPut = some 9 ∧ c.fab.addr = 8 ∧
     c.fab.tags + frameTags farPut ≤ portTags ∧ shadowing c 5 = false ∧ planeOf 3 ≠ planeOf 5) ∧
    (∀ f ∈ [farPut, .buddyAsk 9 7], ∀ n ∈ [7, 8], let b := (sentWorld n f).body
     b.fab.out.find? (fun q => q.seq == 12 && !q.receipt && !q.held && decide (0 < q.sends)) = some (outPkt f n)) ∧
    (ctxAt (sentWorld 8 farPut).body 5).id.job = 7 ∧
    (let s := sentWorld 1 farPut
     s.body.fab.out.find? (fun q => q.seq == 12 && decide (0 < q.sends) && isTransfer q.frame && ackTaken s.body q.frame) = some (outPkt farPut 1) ∧
     ((putPanel s.body 3).any fun x => x.1 == 4) = true ∧ (∀ z ∈ s.body.fab.out, z.seq = 12)) ∧
    (let s := sentWorld 1 farGet
     s.body.fab.out.find? (fun q => q.seq == 12 && decide (0 < q.sends) && isTransfer q.frame && ackTaken s.body q.frame) = some (outPkt farGet 1) ∧
     loadPanel s.body 3 = some 4) ∧
    liveHandle (sentWorld 1 farPut).env (sentWorld 1 farPut).body 5 4101 = true := by decide +kernel

/-! ### Phases, Cumulus, heartbeats, watchdogs: witnesses -/

/-- A context of step 1 that has reached token 3, whose set 0 has this module (unit 8) as peer `own` and unit 9 as the other of peers 0, 1. -/
def phased (own : Nat) (live : Bool) : State :=
  made fun b => withFab (fun f => { f with addr := 8 }) (withCtx (fun c => { c with
    id := { c.id with resetting := !live }
    led := { c.led with openStep := some 1 }
    far := { c.far with reached := [3], sets := [(0, [(0, if own = 0 then 0x80000008#32 else 0x80000009#32), (1, if own = 0 then 0x80000009#32 else 0x80000008#32)])] } }) b)

theorem witness_PhaseAgreementMessages :
    (∀ own : Fin 2, let s := phased own.val true
     let c := ctxAt s.body 5
     arrivesB s 5 ⟨none, ⟨8, 3, 7, 0, 0, 0⟩⟩ isLive = true ∧ 3 ∈ c.far.reached ∧ 4 ∉ c.far.reached ∧ c.far.agreed = [] ∧
     c.led.openStep = some 1 ∧ pendingSet c 3 = none) ∧
    (let s := phased 0 true
     let c := ctxAt s.body 5
     ownPeer s.body c = some 0 ∧ phaseKids c 0 = [1] ∧
     (∀ x ∈ [(1, none), (2, none), (1, some 5)], let reps := (c.far.childReports ++ [PhaseRep.mk 1 3 x.1 x.2]).filter fun r => r.step == stepNum c && r.k == 3
       (reps.all fun r => r.set == pendingSet c 3) = x.2.isNone ∧ ([1].all fun q => reps.any fun r => r.peer == q) = (x.1 == 1))) ∧
    (let s := phased 1 true
     let c := ctxAt s.body 5
     ownPeer s.body c = some (0 + 1) ∧ phaseKids c 1 = [] ∧ peerUnit c 0 = some 9) := by decide +kernel

/-- A sum of 64 BF16 elements over peers 0 and 1. -/
def sumOf2 : CumParams := { (default : CumParams) with n := 2, e := 64 }

/-- A module of rank 0 of that reduction, which holds its own contribution of zeros or none, and has formed its chunk or not. -/
def reducing (own formed : Bool) : State :=
  let s := phased 0 true
  let z : CumOut := { (default : CumOut) with data := List.replicate 128 0, poison := List.replicate 32 false }
  let r : Reduce :=
    { (default : Reduce) with
      slot := 5, handle := 4101, fly := 9, step := 1, seq := 4, p := sumOf2, src := 0x1000, dst := 0x2000, out := if formed then some z else none }
  { s with body := { s.body with fab := { s.body.fab with
    red := [r], contrib := if own then [⟨5, 4, 0, sumOf2, List.replicate 32 (.zero false), List.replicate 32 false, 0, 0⟩] else [] } } }

/-- The contribution of peer 1, of zeros. -/
def contribution (p : CumParams) (key : BitVec 64) : ContribIn := ⟨4, 1, p, List.replicate 64 0, [], List.replicate 32 false, 0, key⟩

theorem witness_CumulusFrames_contributions :
    (∀ own : Bool, let s := reducing own false
     let c := ctxAt s.body 5
     let key := cumKey c 4
     (s.body.fab.red.find? fun r => r.slot == 5 && r.seq == 4).any (fun r =>
       ([(contribution sumOf2 key, own), (contribution sumOf2 (key + 1), own), (contribution { sumOf2 with e := 32 } key, own)].all fun x =>
         let v : Contrib := ⟨5, 4, 1, x.1.p, cumDecode x.1.p 32 x.1.data [], x.1.poison, x.1.sigma, x.1.key⟩
         let xs := cumHeld { s.body with fab := { s.body.fab with contrib := s.body.fab.contrib ++ [v] } } r
         decide (xs.length = r.p.n) == own && sumOk r.p.op xs && decide (v.p = r.p) == decide (x.1.p.e = 64)) &&
       decide (r.out = none) && r.p.cnt r.rank != 0 && decide (r.p = sumOf2) && decide (key ≠ key + 1)) = true) ∧
    arrivesB (reducing true true) 5 ⟨none, ⟨8, 3, 7, 0, 0, 0⟩⟩ isLive = true ∧
    ((phased 0 true).body.fab.red.find? fun r => r.slot == 5 && r.seq == 4).isNone = true := by decide +kernel

theorem witness_CumulusFrames_chunks :
    (∀ formed : Bool, let s := reducing true formed
     shadowing s.body 5 = false ∧
     (s.body.fab.red.find? fun r => r.slot == 5 && r.seq == 4).any (fun r =>
       r.due.contains 0 && r.due.contains 1 && !r.due.contains 2 && r.done.isEmpty && r.rank == 0 && r.out.isSome == formed &&
       ([0, 1].all fun q =>
         let y : CumOut := { (default : CumOut) with data := List.replicate 128 0, poison := List.replicate 32 false }
         let ps := outPieces s.body r q y
         (ps.all fun z => (segsHeld s.body z.1).isNone) && (putAll s.env 5 ps (unqueued s.body)).isSome)) = true) := by decide +kernel

/-- The machine that has sent its last heartbeats at tick `t`, and heard unit 9 on each plane, but for the planes lost, at tick 1. -/
def beating (t : Nat) (lost : List Nat) (heard : BitVec 64) : State :=
  let s := made (withFab fun f => { f with
    hbTick := t, watch := fset f.watch 9 { (default : Watch) with used := true, lost := lost, pwrOn := some 1, last := [(0, 1), (1, 1), (2, 1)] } })
  { s with clk := { s.clk with tick := heard } }

/-- A context of Contrail role `role` and port 5 UP. -/
def hearing (role : Nat) : State :=
  made fun b => withCtx (fun c => { c with con := { c.con with role := role } })
    (withFab (fun f => { f with port := fset (fset f.port 4 default) 5 { (default : Port) with st := 1 } }) b)

theorem witness_HeartbeatsAndSqualls :
    (∀ t ∈ [0, 5000000], let s := beating t [] 5000000
     clocksRun s.body = true ∧ decide (s.body.fab.hbTick + s.body.kpr.hbPeriod ≤ s.clk.tick.toNat) = decide (t = 0)) ∧
    (∀ l ∈ [[], [1], [0, 2]], (fget (beating 0 l 5000000).body.fab.watch 9).lost = l) ∧
    (let s := networked false
     clocksRun s.body = true ∧ 1 ∈ upPlanes s.body ∧ 0 ∉ upPlanes s.body) ∧
    (∀ x ∈ [([], 5000000), ([0, 2], 5000000), ([], 4000), ([], 4001)], let s := beating 0 x.1 (BitVec.ofNat 64 x.2)
     let w := fget s.body.fab.watch 9
     decide (w.used = true ∧ 1 ∉ w.lost ∧ fget w.last 1 + s.body.kpr.hbMiss * s.body.kpr.hbPeriod ≤ s.clk.tick.toNat) = decide (4001 ≤ x.2) ∧
     decide ((w.lost ++ [1]).length = 3) = decide (x.1 = [0, 2])) ∧
    (∀ role ∈ [0, 2], let s := hearing role
     clocksRun s.body = true ∧ (fget s.body.fab.port 5).st = 1 ∧ (fget s.body.fab.port 4).st = 0 ∧
     (9, 4101) ∉ s.body.fab.squalls ∧ (jobCtx s.body 7).any (fun x => x.1 == 5 && x.2.con.role == role) = true ∧ jobCtx s.body 6 = none) ∧
    (let s := made (withFab fun f => { f with squalls := [(9, 4101)], port := fset f.port 5 { (default : Port) with st := 1 } })
     (9, 4101) ∈ s.body.fab.squalls ∧ (fget s.body.fab.port 5).st = 1) := by decide +kernel

/-- A thread that has waited since tick 1 with a limit of 10 ticks. -/
def overdue : State :=
  let s := world { runs with st := .wait, wait := some ⟨.ev 3, 0, 1, false, 10, 0x1000⟩ } live
  { s with clk := { s.clk with tick := 5000000 } }

/-- A context whose step began at tick 1 with a limit of 10 ticks, or whose reset began then. -/
def lateCtx (reset : Bool) : State :=
  made (withCtx fun c => { c with
    id := { c.id with resetting := reset, resetTick := 1, scrubs := if reset then [0] else [] }, plumb := ⟨some 1, 10⟩ })

/-- The keeper with its stage, its automatic module reset as given, and the module stopped or not. -/
def watching (stage : Nat) (noAuto stopped : Bool) : State :=
  made fun b => withPwr (fun p => { p with stopped := stopped }) (withKpr (fun k => { k with stage := stage, noAutoMod := noAuto, noAutoDie := noAuto }) b)

/-- C-die 2 with polls unanswered. -/
def quietDie (n : Nat) (noAuto : Bool) : State :=
  let s := watching 0 noAuto false
  { s with body := { s.body with die := fmod s.body.die 2 fun d => { d with noAnswer := n } } }

/-- Die-to-die port 15 as given. -/
def d2dWorld (x : D2d) : State := made (withMem fun m => { m with d2d := fset m.d2d 15 x })

theorem witness_WatchdogsAndRecovery :
    (limitWaits overdue.env overdue.body 5).length = 1 ∧ (limitWaits State.reset.env State.reset.body 5).length = 0 ∧
    (∀ x ∈ [(1, true), (0, false)], let s := { lateCtx false with clk := ⟨BitVec.ofNat 64 (10 + x.1), 0, 0⟩ }
     let c := ctxAt s.body 5
     c.id.st = .live ∧ (c.plumb.startTick.any fun t => decide (t.toNat + c.plumb.limit ≤ s.clk.tick.toNat)) = x.2) ∧
    (∀ st ∈ [0, 3, 4], ∀ a h : Bool, let s := watching st a h
     s.body.kpr.pwr.off = false ∧ s.body.kpr.pwr.hold = 0 ∧ s.body.kpr.pwr.st = .clear ∧ s.body.kpr.start.phase = 0 ∧ s.body.kpr.stage = st ∧
     s.body.kpr.noAutoMod = a ∧ s.body.kpr.pwr.stopped = h) ∧
    (∀ n ∈ [0, 1], ∀ a : Bool, let s := quietDie n a
     (fget s.body.die 2).inReset = false ∧ (fget s.body.die 2).noAnswer = n ∧ s.body.kpr.noAutoDie = a ∧ s.body.kpr.ev.length < 64) ∧
    (∀ x ∈ [(10000, false), (10001, true)], let s := { lateCtx true with clk := ⟨BitVec.ofNat 64 x.1, 0, 0⟩ }
     let id := (ctxAt s.body 5).id
     decide (id.resetting = true ∧ id.resetTick.toNat + 1000 * s.body.kpr.ctxto ≤ s.clk.tick.toNat) = x.2) ∧
    (∀ x ∈ [{ (default : D2d) with up := false }, { (default : D2d) with up := true, run := 6 }, { (default : D2d) with up := true, run := 7 }],
      fget (d2dWorld x).body.mem.d2d 15 = x) ∧
    (let p := State.reset.body.kpr.pwr
     p.off = false ∧ p.hold = 0 ∧ p.st ≠ .night ∧ p.unlocked = false) := by decide +kernel

/-! ### Sensors, power, start, keeper: witnesses -/

/-- A reading at 50 °C inlet coolant with C-die 0 at `t` sixteenths of a degree. -/
def reading (t : Int) : Sensors :=
  ⟨4800, 100, 3000, List.replicate 11 (1000, 10), [], [t, 800, 800, 800, 800], 700, 760⟩

/-- Panel 8 of die 3 in state `st`, running a swatch or not. -/
def swatching (st : PState) (run : Bool) : State :=
  made fun b => withKpr (fun k => { k with running := if run then fset k.running 35 (some ⟨none, 0, none, 0⟩) else k.running, swatch := [(4, ⟨[], true⟩)] })
    { b with panel := fset b.panel 35 { (default : Panel) with st := st } }

theorem witness_SensorsAndSwatches :
    (∀ x ∈ [(1000, true), (1840, false)], let s := made id
     let c := modBrd (takeSensors s.body (reading x.1)) coolFlags
     s.body.kpr.pwr.off = false ∧ s.body.kpr.start.phase = 0 ∧ s.body.brd.crit = false ∧ s.body.kpr.pwr.hold = 0 ∧ s.body.kpr.pwr.st ≠ .night ∧
     ((critValues c).all fun v => decide (v.1 < v.2.2)) = x.2) ∧
    (∀ x ∈ [(1000, true), (1001, false)], let s := made (withBrd fun r => { r with fast := true, fastTick := BitVec.ofNat 64 (5000000 - 2001 + x.1) })
     s.body.brd.fast = true ∧ decide (s.body.brd.fastTick.toNat + 1000 ≤ s.clk.tick.toNat) = decide (x.1 ≤ 1001)) ∧
    (∀ st ∈ [PState.spare, .standby, .active], let s := swatching st false
     let p := panelAt s.body 35
     p.st = st ∧ s.body.kpr.pwr.st = .clear ∧ fget s.body.kpr.running 35 = none ∧ panelOwned p = false ∧ (blocker s.body (grpKey 2 35) 8).isNone = true ∧
     swatchNext s.body p = some 4 ∧ swSigned s.body (fget s.body.kpr.swatch 4).bytes = false) ∧
    swatchNext State.reset.body default = none ∧
    (panelAt (swatching .active false).body 35).ownedAt + 1000000 ≤ 5000000 ∧
    (let s := swatching .spare true
     fget s.body.kpr.running 35 = some ⟨none, 0, none, 0⟩ ∧ s.body.kpr.ev.length < 63 ∧ bandMissed s.env s.body 35 ⟨none, 0, none, 0⟩ = false) ∧
    (let s := made (withKpr fun k => { k with swatch := [(4, ⟨List.replicate 17 0 ++ [1] ++ List.replicate 2 0 ++ [50, 0, 60, 0], true⟩)] })
     bandMissed s.env s.body 35 ⟨some 4, 0, none, 0⟩ = true) ∧
    (wvGroup 0 0 = wvGroup 0 0 ∧ (blocker State.reset.body (grpKey (wvGroup 0 0).1 (wvGroup 0 0).2) 7).isNone = true) := by decide +kernel

/-- The module in power state `st`, its power registers changed by `f`. -/
def powered (st : Power) (f : PowerSt → PowerSt := id) : State := made (withPwr fun p => f { p with st := st })

theorem witness_PowerTransitions :
    (∀ st ∈ [Power.clear, .haze, .dusk, .night], let p := (powered st).body.kpr.pwr
     p.st = st ∧ p.off = false ∧ p.busy = false ∧ p.hold = 0 ∧ (powered st).body.kpr.start.phase = 0 ∧ hostHolds (powered st).body = false ∧
     quiet (powered st).env (powered st).body = true ∧ (st ≠ .night → powerRefusal (powered st).body 2 false = 0) ∧ powerRefusal (powered st).body 3 false = 0) ∧
    (let s := made (withHolder (grpKey 3 7) 3 true)
     hostHolds s.body = true ∧ powerRefusal s.body 2 false = 3 ∧ powerRefusal s.body 3 true = 3) ∧
    quiet (world runs live).env (world runs live).body = false ∧
    (powered .clear fun p => { p with off := true }).body.kpr.pwr.off = true ∧ (powered .clear fun p => { p with hold := 4 }).body.kpr.pwr.hold = 4 ∧
    (∀ g ∈ [0, 1, 2, 3], let p := (powered .clear fun p => { p with busy := true, goal := g }).body.kpr.pwr
     p.busy = true ∧ p.goal = g ∧ p.hazeWait = false) ∧
    (let b := (powered .dusk fun p => { p with busy := true, goal := 0 }).body
     (∀ d ∈ b.die, d.2.inReset = false) ∧ (∃ d ∈ fmod b.die 3 fun x => { x with inReset := true }, d.2.inReset = true)) ∧
    (let s := powered .clear
     s.body.kpr.pwr.noAuto = false ∧ s.body.kpr.pwr.lastIssue.toNat + s.body.kpr.pwr.idle ≤ s.clk.tick.toNat) := by decide +kernel

/-- The start in phase `n`. -/
def starting (n : Nat) (f : Body → Body := id) : State := made fun b => f (withStart (fun x => { x with phase := n }) b)

/-- Straps as die `n` should read them, and read twice alike. -/
def strap (n : Fin 4) : StrapRead := ⟨n, n, n, n, true⟩

theorem witness_StartSequence :
    (∀ n ∈ [1, 2, 3, 4, 5, 6, 8], let b := (starting n).body
     b.kpr.start.phase = n ∧ b.kpr.pwr.off = false ∧ b.kpr.pwr.hold = 0 ∧ b.kpr.pwr.stopped = false ∧ b.brd.perst = false ∧ windowOk b = true) ∧
    (starting 2 (withPwr fun p => { p with unlocked := true })).body.kpr.pwr.unlocked = true ∧
    (∀ d : Fin 4, strapCause d.val (strap d) = 0 ∧ (strap d).side = true ∧ strapCause d.val { strap d with pos2 := d + 1 } = 3 ∧
      strapCause d.val { strap d with orient := d + 1, orient2 := d + 1 } = 1 ∧ strapCause d.val (strap (d + 1)) = 2) ∧
    (let b := State.reset.body; linkBad b ⟨15, [3, 4], 0⟩ = true ∧ linkBad b ⟨15, [], 3⟩ = true ∧ linkBad b ⟨15, [3, 543], 0⟩ = false) ∧
    (∀ n ∈ [1, 2], (starting 1 fun b => { b with kpr := { b.kpr with fw := { b.kpr.fw with bootFail := n } } }).body.kpr.fw.bootFail = n) ∧
    (let f := State.reset.body.kpr.fw
     f.attempts = 0 ∧ f.act ≠ 2 ∧ bootable State.reset.body 0 = true ∧ bootable State.reset.body 1 = false ∧
     bootable { State.reset.body with kpr := modSlot1 State.reset.body.kpr } 1 = true) ∧
    dieEnds (made fun b => { b with die := fmod b.die 3 fun x => { x with inReset := true } }).body 3 = true ∧
    State.reset.body.kpr.stage ≠ 3 ∧ State.reset.body.kpr.noAutoMod = false ∧ State.reset.body.kpr.i3c.evOff = false := by decide +kernel

theorem witness_PowerAndPins :
    (∀ o : Bool, (made (withBrd fun r => { r with ovHold := o })).body.brd.ovHold = o) ∧ State.reset.body.kpr.pwr.off = false ∧
    10 ∈ poweredRails (powered .night).body ∧ 0 ∈ poweredRails (powered .clear).body ∧ 0 ∉ poweredRails (powered .dusk).body ∧
    (let b := (powered .dusk).body
     b.kpr.pwr.hold = 0 ∧ b.kpr.pwr.st ≠ .night ∧ b.kpr.start.phase ≠ 1 ∧ b.kpr.start.phase ≠ 2 ∧ b.kpr.start.phase ≠ 3) ∧
    (let b := (starting 2).body
     b.kpr.start.phase = 2 ∧ b.kpr.pwr.hold = 0 ∧ b.kpr.pwr.unlocked = false) := by decide +kernel

/-- The mailbox with argument `a`. -/
def asking (a : BitVec 32) (f : Body → Body := id) : State :=
  made fun b => f { b with kpr := { b.kpr with mbox := { b.kpr.mbox with arg := a } } }

/-- The firmware state changed. -/
def withFw (f : FwSt → FwSt) : State := made (withKpr fun k => { k with fw := f k.fw })

/-- The fuses changed. -/
def withFuse (f : FuseSt → FuseSt) (b : Body) : Body := { b with kpr := { b.kpr with fuse := f b.kpr.fuse } }

theorem witness_MailboxAndFirmware :
    (∀ a ∈ [0x5EA1, 0xA15E, 0], let k := (asking (BitVec.ofNat 32 a)).body.kpr
     k.mbox.busy = false ∧ k.pwr.off = false ∧ k.pwr.hold = 0 ∧ k.start.phase ≠ 1 ∧ k.mbox.arg.toNat = a) ∧
    (∀ a ∈ [(0, false), (1, true), (1024, true), (1025, false)], decide (0 < fld a.1 10 0 ∧ fld a.1 10 0 ≤ 1024) = a.2) ∧
    (imgTgt 0).isSome = true ∧ (imgTgt 0x10).isSome = true ∧ (imgTgt 0x1F).isSome = true ∧ (imgTgt 0x20).isNone = true ∧
    1024 * fld 1024 31 11 + fld 1024 10 0 ≤ 262144 ∧
    fwRefusal (asking 5).body ≠ 0 ∧ fwRefusal { (asking 5).body with kpr := modSlot1 (asking 5).body.kpr } = 0 ∧
    (∀ h : Bool, (blocker (asking 5 (if h then withHolder (grpKey 3 7) 3 true else id)).body (grpKey 0 0) 9).isSome = h) ∧
    fuseable (asking 0).body = true ∧ fuseable (made (withCtx id)).body = false ∧
    (∀ x ∈ [(4000000, false), (4000001, true)], let s := asking 0xA15E (withFuse fun f => { f with armed := true, armTick := BitVec.ofNat 64 x.1 })
     s.body.kpr.fuse.armed = true ∧ armedNow s.env s.body = x.2 ∧ fuseable s.body = true) ∧
    (∀ c : Bool, let b := (asking 0 (if c then withCtx id else id)).body
     decide (∃ x ∈ b.ctx.slot, x.2.id.st ≠ .free) = c ∧ hostHolds b = false ∧ b.kpr.start.phase = 0) ∧
    (let s := withFw fun f => { f with act := 1, armUntil := some 5000000 }
     s.body.kpr.fw.act = 1 ∧ contextFree s.body = true ∧ s.body.kpr.fw.armUntil = some 5000000 ∧ s.clk.tick = 5000000 ∧ s.body.kpr.fw.byScaffold = none) ∧
    contextFree (world runs live).body = false ∧
    (let s := withFw fun f => { f with act := 2 }
     s.body.kpr.fw.act = 2 ∧ s.body.kpr.fw.byScaffold = none) := by decide +kernel

/-- The I3C target with address 9 or none, its tags asked for or not. -/
def onBus (dyn : Bool) (ask : Bool) : State :=
  made (withKpr fun k => { k with i3c := { k.i3c with dyn := if dyn then some 9 else none, askTags := ask } })

theorem witness_I3cAndBoundaryScan :
    (∀ d a : Bool, let b := (onBus d a).body
     b.kpr.pwr.off = false ∧ b.kpr.i3c.dyn.isSome = d ∧ b.kpr.i3c.askTags = a ∧ b.kpr.i3c.evOff = false ∧ i3cServes b = true ∧
     8 ≤ b.kpr.i3c.mwl ∧ 4 ≤ b.kpr.i3c.mrl ∧ served b .fab = true ∧ b.kpr.pwr.hold = 0 ∧ b.kpr.pwr.st ≠ .night ∧ b.brd.perst = false) ∧
    i3cServes (starting 1).body = false := by decide +kernel

theorem witness_ScaffoldGroupsOverlap :
    (∀ t : Fin 9, ∃ n, [1, 4, 36, 8, 1, 4, 16, 6, 4][t.val]? = some n ∧ n - 1 < n) ∧
    grpOverlap (grpKey 0 0) (grpKey 7 5) = true ∧ grpOverlap (grpKey 1 3) (grpKey 2 35) = true ∧ grpOverlap (grpKey 1 3) (grpKey 2 26) = false ∧
    grpOverlap (grpKey 6 11) (grpKey 6 15) = true ∧ grpOverlap (grpKey 6 11) (grpKey 6 14) = false ∧ grpOverlap (grpKey 8 3) (grpKey 3 7) = true ∧
    grpOverlap (grpKey 8 3) (grpKey 3 5) = false ∧ grpOverlap (grpKey 1 3) (grpKey 6 12) = false := by
  refine ⟨fun t => ?_, by decide +kernel⟩
  match t with
  | 0 => exact ⟨1, rfl, by decide⟩
  | 1 => exact ⟨4, rfl, by decide⟩
  | 2 => exact ⟨36, rfl, by decide⟩
  | 3 => exact ⟨8, rfl, by decide⟩
  | 4 => exact ⟨1, rfl, by decide⟩
  | 5 => exact ⟨4, rfl, by decide⟩
  | 6 => exact ⟨16, rfl, by decide⟩
  | 7 => exact ⟨6, rfl, by decide⟩
  | 8 => exact ⟨4, rfl, by decide⟩

theorem witness_StepRunsTheFrontCommand :
    ({ State.reset with pending := [.fast, .idcode] } : State).pending = .fast :: [.idcode] ∧ State.reset.pending = [] := ⟨rfl, rfl⟩

theorem witness_EveryStepAnswers : clockOk State.reset ∧ clockOk { State.reset with clk := ⟨0, 1799, 0⟩ } := by unfold clockOk; decide

/-! ### Ill-formed terms that WellFormed refuses -/

theorem wf_sensors : (Instr.sensorReading (reading 800)).wf = true ∧ (Instr.sensorReading { reading 800 with rails := [] }).wf = false ∧
    (Instr.sensorReading { reading 800 with dies := [1, 2, 3, 4] }).wf = false ∧ (Instr.sensorReading { reading 800 with bad := [11] }).wf = false := by decide

theorem wf_units : (Instr.buddyAck ⟨via 3, 5⟩ (2 ^ 20) (.snapshot 1)).wf = false ∧ (Instr.sealReportArrival ⟨via 3, 5⟩ 1 (2 ^ 20) true).wf = false ∧
    (Instr.discoveryRequest 4 0 (2 ^ 20)).wf = false ∧ (Instr.phaseReport ⟨via 3, 5⟩ 1 3 (2 ^ 20) ⟨none, false⟩).wf = false ∧ (Instr.heartbeatMiss (2 ^ 20) 0).wf = false ∧
    (Instr.heartbeatArrival ⟨2 ^ 20, 0, 1, 0, 0, 0⟩).wf = false ∧ (Instr.squallReceive ⟨5, 7, 2 ^ 20, 0, 0, false, 0, 0⟩).wf = false ∧
    (Instr.packetArrival none (hdr (2 ^ 20) 1 7 2) (.get 0 64)).wf = false ∧ (Instr.heartbeatMiss (2 ^ 20 - 1) 0).wf = true := by decide

theorem wf_phases : (Instr.phaseReport ⟨via 3, 5⟩ 1 256 9 ⟨none, false⟩).wf = false ∧ (Instr.phaseAgreement ⟨via 3, 5⟩ 1 256 ⟨none, false⟩).wf = false ∧
    (Instr.phaseAgreement ⟨via 3, 5⟩ 1 255 ⟨none, false⟩).wf = true := by decide

theorem wf_packets : (Instr.packetArrival none (hdr 9 1 7 2) (put 0)).wf = true ∧
    (Instr.packetArrival none (hdr 9 1 7 2) (.put 0 (List.replicate 65 0) [false])).wf = false ∧
    (Instr.packetArrival none (hdr 9 1 7 2) (.descriptor 0 (List.replicate 63 0) [])).wf = false ∧
    (Instr.completionAck 1 false (List.replicate 64 0) []).wf = false := by decide

theorem wf_lengths : (Instr.memoryTempRead (List.replicate 7 0) (List.replicate 24 0)).wf = false ∧
    (Instr.memoryTempRead (List.replicate 8 0) (List.replicate 23 0)).wf = false ∧ (Instr.contrailDigest ⟨via 3, 5⟩ 1 (List.replicate 31 0)).wf = false ∧
    (Instr.startPhaseComplete ⟨[strap 0], [], [], [], []⟩).wf = false ∧ (Instr.startPhaseComplete ⟨[], [], [], [], []⟩).wf = true ∧
    (Instr.keeperPoll [1, 1] false).wf = false := by decide

theorem wf_ports : (Instr.dieResetComplete 0 true (strap 0) [⟨3, [], 0⟩]).wf = false ∧
    (Instr.dieResetComplete 0 true (strap 0) [⟨2, [], 0⟩, ⟨12, [], 0⟩]).wf = true := by decide

theorem wf_i3c : (Instr.i3cPrivateWrite (List.replicate 6 0)).wf = false ∧ (Instr.i3cPrivateWrite []).wf = false ∧
    (Instr.i3cPrivateWrite (List.replicate 68 0)).wf = false ∧ (Instr.i3cPrivateRead 0).wf = false ∧ (Instr.i3cPrivateRead 65).wf = false ∧
    (Instr.i3cPrivateWrite (List.replicate 8 0)).wf = true := by decide

theorem wf_accesses : (Instr.pairLoRead .pcie 0x4A).wf = false ∧ (Instr.pairHiRead .pcie 0x4E).wf = false ∧ (Instr.pairLoWrite .pcie 0x4A 0).wf = false ∧
    (Instr.pairHiWrite .pcie 0x4E 0).wf = false ∧ (Instr.registerWrite .pcie 0x41 0).wf = false ∧ (Instr.malformedAccess false 0x40 4).wf = false ∧
    (Instr.malformedAccess false 0x42 4).wf = true ∧ (Instr.malformedAccess false 0x44 8).wf = true := by decide

/-! ### Effects on fixed values; the expected results are the spec's own examples, or follow from its tables by hand -/

/-- The state after a command. -/
def after (c : Instr) (s : State) : State :=
  match exec c s with
  | .next t => t
  | _ => State.reset

/-- A 32-bit scalar slot (Table 3-5). -/
def scl (rd rs1 rs2 : Nat) : BitVec 32 := BitVec.ofNat 32 (rd * 2 ^ 21 + rs1 * 2 ^ 16 + rs2 * 2 ^ 11)

/-- The thread of panel 0 after a slot, with s1 and s2 as given. -/
def ran (c : BitVec 32 → Instr) (x y : BitVec 64) (w : BitVec 32) : Thread :=
  threadAt (after (c w) (world { runs with s := [(1, ⟨x, false⟩), (2, ⟨y, false⟩)] } live)) t0 0

theorem test_add_wraps : (ran (.add t0) (2 ^ 64 - 1) 3 (scl 5 1 2)).res = [⟨1600, 1601, .s 5, 2, false⟩] ∧ (ran (.add t0) 1 3 (scl 5 1 2)).pc = 0x1006 := by
  decide +kernel

theorem test_sub_wraps : (ran (.sub t0) 1 3 (scl 5 1 2)).res = [⟨1600, 1601, .s 5, 2 ^ 64 - 2, false⟩] := by decide +kernel

theorem test_shifts_use_six_bits : (ran (.shl t0) 3 65 (scl 5 1 2)).res = [⟨1600, 1601, .s 5, 6, false⟩] ∧
    (ran (.shr t0) (2 ^ 63) 63 (scl 5 1 2)).res = [⟨1600, 1601, .s 5, 1, false⟩] ∧
    (ran (.sra t0) (2 ^ 63) 63 (scl 5 1 2)).res = [⟨1600, 1601, .s 5, 2 ^ 64 - 1, false⟩] := by decide +kernel

theorem test_mul_low_half_after_three_cycles : (ran (.mul t0) (2 ^ 63) 6 (scl 5 1 2)).res = [⟨1600, 1603, .s 5, 0, false⟩] ∧
    (ran (.mul t0) (2 ^ 32 + 1) (2 ^ 32 + 1) (scl 5 1 2)).res = [⟨1600, 1603, .s 5, 2 ^ 33 + 1, false⟩] := by decide +kernel

theorem test_addi_sign_extends : (ran (.addi t0) 3 0 (scl 7 1 0 + 0xFFFF)).res = [⟨1600, 1601, .s 7, 2, false⟩] := by decide +kernel

theorem test_add_poison :
    (threadAt (after (.add t0 (scl 5 1 2)) (world { runs with s := [(1, ⟨4, true⟩), (2, ⟨3, false⟩)] } live)) t0 0).res = [⟨1600, 1601, .s 5, 7, true⟩] := by
  decide +kernel

theorem test_reserved_bit_is_skipped : (ran (.add t0) 1 3 (scl 5 1 2 + 1)).res = [] ∧
    ((ctxAt (after (.add t0 (scl 5 1 2 + 1)) (world runs live)).body 5).log.ill.map fun r => (r.slotc, r.opc, r.th, r.baddr)) = [(0, 1, 0, 0x1000)] := by
  decide +kernel

/-- The bundle of the example after R90: its bytes, and the slots it stands for. -/
theorem test_encoded_bundle :
    Bundle.parse [0x00, 0x94, 0x00, 0x40, 0xA5, 0x40, 0x00, 0x00, 0x00, 0x80, 0x7F, 0x06, 0xA4, 0x04, 0x00, 0x00, 0x80, 0x04] =
      ⟨0, [(0, 0x40A54000), (3, 0x04A4067F80000000), (5, 0x04800000)]⟩ := by decide +kernel

/-- The example after R85: a body of three bundles runs three times. -/
theorem test_loop_counts : loopEnds 0x4010 0x4016 [⟨3, 0x4006, 0x4010⟩] = (0x4006, [⟨2, 0x4006, 0x4010⟩]) ∧
    loopEnds 0x4010 0x4016 [⟨1, 0x4006, 0x4010⟩] = (0x4016, []) := by decide +kernel

/-- Table 5-8. -/
theorem test_split32 : split32 0x3F808000 = (0x3F81, 0x8000) ∧ split32 0x3FFFC123 = (0x4000, 0xC123) ∧ split32 0xBF808000 = (0xBF80, 0x8000) := by
  decide +kernel

/-- Table 5-7: the binary32 pattern 0x3F80_6000 to bfloat16 with stochastic rounding. -/
theorem test_stochastic_rounding : (roundF fBF16 .inf .sr 0x5A3C91E7 (.fin false 0x806000 (-23) false)).1 = 0x3F81 ∧
    (roundF fBF16 .inf .sr 0x60000000 (.fin false 0x806000 (-23) false)).1 = 0x3F80 := by decide +kernel

/-- The example after R182. -/
theorem test_interleave : placeOf State.reset.body 0x12345800 = some (.hbm 0 11 0x48D000) ∧
    placeOf (made (withMem fun m => { m with stack := fmod m.stack 0 fun k => { k with ch := fset k.ch 5 3 } })).body 0x12345800 =
      some (.hbm 0 11 0x49F800) := by decide +kernel

/-- The example after R262. -/
theorem test_handle : mkHandle 0x17 3 = 0x00017003 := by decide

/-- The example after R250: eight participants, a million elements. -/
theorem test_chunks : let p : CumParams := { (default : CumParams) with n := 8, e := 1000000, tgt := 2, rnd := 4 }
    p.c = 125024 ∧ p.cnt 7 = 124832 ∧ 3 * p.c = 375072 := by decide +kernel

/-- `DIR_ENT29` as the example after R409 reads it. -/
theorem test_directory_entry : pageRead State.reset.env State.reset.body .dir 0x1E8 = 0x03100009 ∧
    pageRead State.reset.env State.reset.body .dir 0x1EC = 0x0E012200 := by decide +kernel

/-- The example after R392: 3,100 W, 42 °C in, 57.5 °C out. -/
theorem test_low_flow : flowLow 3100 (42 * 16) 920 = true ∧ leastFlow (42 * 16) = 40 := by decide +kernel

/-- A doorbell with an old handle is discarded and counted; one with the current handle sets the tail of its ring (R268). -/
theorem test_doorbell :
    (after (.doorbell 5 0 8 0x0000200500000003) (ringWorld live)).body.host.dbDrop = 1 ∧
    (ringAt (after (.doorbell 5 0 8 0x0000100500000003) (ringWorld live)).body ring0).tail = 3 := by decide +kernel

/-- A NOP on ring 0 leaves the record of Table 10-6: phase 1, ring 0, status 0, entry 0. -/
theorem test_nop_record : hostRead (after (.commandCompletion ring0 (State.reset.body.uid + 1) ⟨true, [], [], [], []⟩)
    (after (.nopCmd ring0 (word 1 4101)) (ringWorld live))).body 0x20000 16 = [0, 0, 0, 0x80, 0, 0, 0, 0, 0, 0, 0, 0, 0, 0, 0, 0] := by decide +kernel

/-- EVENT_SET sets one event (R271). -/
theorem test_event_set : (ctxAt (after (.eventSet ring0 (word 2 4101 [(24, 8)])) (ringWorld live)).body 5).ev = 8 := by decide +kernel

/-- GETBCR (R364). -/
theorem test_getbcr : (after .getbcr (onBus true true)).body.kpr.i3c.reply = some [0x06] := by decide +kernel

/-- The boundary scan's identification (R378). -/
theorem test_idcode : (after .idcode State.reset).body.brd.tapOut = 0x174325AD := by decide +kernel

/-- A request for HAZE of a quiet module (R344, R345). -/
theorem test_haze : (after (.powerRequestHaze 0) State.reset).body.kpr.pwr.st = .haze := by decide +kernel

/-- An eighth replay in a row of a die-to-die frame fails the link and stops the module (R15). -/
theorem test_link_failure : let t := after (.d2dCrcFail 15 true) (d2dWorld { (default : D2d) with up := true, run := 7 })
    t.body.kpr.pwr.stopped = true ∧ (fget t.body.mem.d2d 15).up = false ∧ (fget t.body.mem.d2d 11).up = false := by decide +kernel

/-- Input undervoltage is a power loss: LASTOFF records it (R379). -/
theorem test_power_loss : let t := after .inputUndervoltage State.reset
    t.body.kpr.pwr.off = true ∧ t.body.brd.lastOffCause = 1 := by decide +kernel

end Sys2Proof.Tests
end

section
/-! PROOF. Every step answers a next state (R3): what a cycle, a run of cycles and a command leave of the clock, the power-on count
and the queue. -/

namespace Sys2Proof.Machine

/-! ### The clock -/

/-- The C cycles that a clock has counted, its ticks among them. -/
def Clock.elapsed (c : Clock) : Nat := 1800 * c.tick.toNat + c.sub

/-- Within a tick, a C cycle moves only the cycles within it. -/
theorem Clock.next_within {c : Clock} (run : Bool) (h : c.sub + 1 < Config.cPerTick) :
    c.next run = { c with sub := c.sub + 1, cyc := if run then c.cyc + 1 else c.cyc } := if_pos h

/-- The last C cycle of a tick moves the tick counter. -/
theorem Clock.next_tick {c : Clock} (run : Bool) (h : ¬ c.sub + 1 < Config.cPerTick) :
    c.next run = { tick := c.tick + 1, sub := 0, cyc := if run then c.cyc + 1 else c.cyc } := if_neg h

/-- The next clock is legal. -/
theorem Clock.next_sub_lt (c : Clock) (run : Bool) : (c.next run).sub < Config.cPerTick := by
  by_cases h : c.sub + 1 < Config.cPerTick
  · rw [c.next_within run h]; exact h
  · rw [c.next_tick run h]; exact Nat.zero_lt_succ _

/-- The next clock is one C cycle on; the tick counter wraps (R3). -/
theorem Clock.next_elapsed {c : Clock} (run : Bool) (hc : c.sub < Config.cPerTick) :
    (c.next run).elapsed % (1800 * 2 ^ 64) = (c.elapsed + 1) % (1800 * 2 ^ 64) := by
  by_cases h : c.sub + 1 < Config.cPerTick
  · rw [c.next_within run h]; rfl
  · have last : c.sub = 1799 := by simp only [Config.cPerTick] at hc h; omega
    rw [c.next_tick run h]
    have one : (1 : BitVec 64).toNat = 1 := rfl
    simp only [Clock.elapsed, BitVec.toNat_add, one, last]
    omega

/-! ### Cycles -/

theorem tickCycle_clockOk (s : State) : clockOk (tickCycle s) := s.clk.next_sub_lt _

@[simp] theorem tickN_pending (n : Nat) (s : State) : (tickN n s).pending = s.pending := by
  induction n generalizing s with
  | zero => rfl
  | succ n ih => exact ih (tickCycle s)

@[simp] theorem tickN_pwrOn (n : Nat) (s : State) : (tickN n s).pwrOn = s.pwrOn := by
  induction n generalizing s with
  | zero => rfl
  | succ n ih => exact ih (tickCycle s)

theorem tickN_clockOk (n : Nat) (s : State) (h : clockOk s) : clockOk (tickN n s) := by
  induction n generalizing s with
  | zero => exact h
  | succ n ih => exact ih _ (tickCycle_clockOk s)

/-- `n` cycles move a legal clock by `n`; that BUNDLE_ISSUE lets as many pass is the model's choice (log entries 1 and 5). -/
theorem tickN_elapsed (n : Nat) (s : State) (h : clockOk s) :
    (tickN n s).clk.elapsed % (1800 * 2 ^ 64) = (s.clk.elapsed + n) % (1800 * 2 ^ 64) := by
  induction n generalizing s with
  | zero => rfl
  | succ n ih =>
    have one : (tickCycle s).clk.elapsed % (1800 * 2 ^ 64) = (s.clk.elapsed + 1) % (1800 * 2 ^ 64) := s.clk.next_elapsed _ h
    calc (tickN n (tickCycle s)).clk.elapsed % (1800 * 2 ^ 64)
      _ = ((tickCycle s).clk.elapsed + n) % (1800 * 2 ^ 64) := ih _ (tickCycle_clockOk s)
      _ = (s.clk.elapsed + 1 + n) % (1800 * 2 ^ 64) := by rw [Nat.add_mod, one, ← Nat.add_mod]
      _ = (s.clk.elapsed + (n + 1)) % (1800 * 2 ^ 64) := by rw [Nat.add_assoc, Nat.add_comm 1 n]

/-! ### Commands -/

/-- Every command but the power-on resets and BUNDLE_ISSUE answers a state with another body and nothing else changed. -/
theorem exec_body_only (c : Instr) (s : State) (hp : ∀ straps, c ≠ .powerOnReset straps) (ho : c ≠ .overvoltageRestart)
    (hb : ∀ p n, c ≠ .bundleIssue p n) : ∃ b, exec c s = .next { s with body := b } := by
  cases c with
  | powerOnReset straps => exact absurd rfl (hp straps)
  | overvoltageRestart => exact absurd rfl ho
  | bundleIssue p n => exact absurd rfl (hb p n)
  | _ => exact ⟨_, rfl⟩

/-- BUNDLE_ISSUE answers the state that its cycles leave, with another body. -/
theorem exec_bundleIssue (p : PanelRef) (n : Nat) (s : State) : ∃ b, exec (.bundleIssue p n) s = .next { tickN n s with body := b } :=
  ⟨_, rfl⟩

/-- The input that was too high is back in range: a power-on reset with the straps as before. -/
theorem exec_overvoltageRestart_held {s : State} (h : s.body.brd.ovHold = true) :
    exec .overvoltageRestart s = .next (powerOn s s.body.brd.slotId) := congrArg Host.Outcome.next (if_pos h)

/-- With no input held off for its voltage, nothing happens. -/
theorem exec_overvoltageRestart_idle {s : State} (h : s.body.brd.ovHold = false) : exec .overvoltageRestart s = .next s :=
  congrArg Host.Outcome.next (if_neg (by simp [h]))

/-! ### Steps -/

theorem step_cons {s : State} {c : Instr} {rest : List Instr} (h : s.pending = c :: rest) : step s = exec c { s with pending := rest } := by
  simp only [step, h]

/-- With an empty queue one C cycle passes (the model's choice: log entry 1). -/
theorem step_nil {s : State} (h : s.pending = []) : step s = .next (tickCycle s) := by
  simp only [step, h]

end Sys2Proof.Machine

open Sys2Proof Sys2Proof.Machine

/-- Settles O59: an empty queue passes one cycle; the two power-on resets and BUNDLE_ISSUE say what they make of clock and count; every
other command answers another body and nothing else. -/
theorem everyStepAnswers : Obligations.EveryStepAnswers := by
  intro s hs
  cases hq : s.pending with
  | nil => exact ⟨_, step_nil hq, hq, tickCycle_clockOk s, rfl, s.clk.next_elapsed _ hs⟩
  | cons c rest =>
    rw [step_cons hq]
    simp only [List.head?_cons, List.tail_cons]
    split
    next straps heq =>
      cases heq
      exact ⟨powerOn { s with pending := rest } straps.val, rfl, rfl, Nat.zero_lt_succ _, rfl, rfl⟩
    next heq =>
      cases heq
      cases hov : s.body.brd.ovHold with
      | true =>
        exact ⟨powerOn { s with pending := rest } s.body.brd.slotId, exec_overvoltageRestart_held hov, rfl, Nat.zero_lt_succ _,
          rfl, rfl⟩
      | false => exact ⟨{ s with pending := rest }, exec_overvoltageRestart_idle hov, rfl, hs, rfl⟩
    next p n heq =>
      cases heq
      obtain ⟨b, hb⟩ := exec_bundleIssue p n { s with pending := rest }
      exact ⟨_, hb, tickN_pending n _, tickN_clockOk n _ hs, tickN_pwrOn n _, tickN_elapsed n _ hs⟩
    next c' hp ho hb heq =>
      cases heq
      obtain ⟨b, hbody⟩ := exec_body_only c { s with pending := rest } hp ho hb
      exact ⟨_, hbody, rfl, hs, rfl, rfl⟩
    next heq => cases heq
end

section
/-! PROOF. What the destruction of contexts leaves of the others (R50, R261, R278, R412): every act on one context leaves every other
context as it is, and what leaves the table of contexts alone altogether. -/

namespace Sys2Proof.Machine

/-- What each step of a fold leaves, the fold leaves. -/
theorem foldl_keeps {α β γ : Type} (g : β → γ) {f : β → α → β} {l : List α} (h : ∀ b, ∀ x ∈ l, g (f b x) = g b) (b : β) :
    g (l.foldl f b) = g b :=
  List.foldlRecOn l f (motive := fun x => g x = g b) rfl fun _ hx a ha => (h _ a ha).trans hx

/-! ### What leaves the contexts alone -/

@[simp] theorem pickPort_ctx (b : Body) (cs : List Nat) : (pickPort b cs).2.ctx = b.ctx := by unfold pickPort; split <;> rfl

@[simp] theorem sendOne_ctx (b : Body) (p : OutPkt) : (sendOne b p).ctx = b.ctx := by
  simp only [sendOne, apply_ite Body.ctx, apply_ite Prod.snd, pickPort_ctx, ite_self]

@[simp] theorem sendJob_ctx (b : Body) (slot : Nat) (f : Frame) : (sendJob b slot f).ctx = b.ctx :=
  foldl_keeps Body.ctx (fun b p _ => sendOne_ctx b p) _

theorem sendJobs_ctx {α : Type} (b : Body) (slot : Nat) (l : List α) (f : α → Frame) :
    (l.foldl (fun b x => sendJob b slot (f x)) b).ctx = b.ctx := foldl_keeps Body.ctx (fun b x _ => sendJob_ctx b slot (f x)) b

@[simp] theorem squallTo_ctx (e : Env) (b : Body) (job origin oh cause step : Nat) (relayed : Bool) (pw : BitVec 32) (u : Nat) :
    (squallTo e b job origin oh cause step relayed pw u).ctx = b.ctx :=
  foldl_keeps Body.ctx (fun b q _ => sendFrame_ctx b (.squall u q job origin oh cause relayed step pw)) b

@[simp] theorem emitSquall_ctx (e : Env) (b : Body) (c : Ctx) (handle cause : Nat) : (emitSquall e b c handle cause).ctx = b.ctx := by
  unfold emitSquall; split
  · rfl
  · exact foldl_keeps Body.ctx (fun b u _ => squallTo_ctx e b _ _ _ _ _ _ _ u) _

@[simp] theorem ledgerErr_ctx (b : Body) (slot : Nat) : (ledgerErr b slot).ctx = b.ctx := rfl

@[simp] theorem unpin_ctx (b : Body) (slot : Nat) (pg : Nat → Bool) : (unpin b slot pg).ctx = b.ctx := rfl

@[simp] theorem dropFar_ctx (b : Body) (slot : Nat) : (dropFar b slot).ctx = b.ctx := rfl

@[simp] theorem releaseWhere_ctx (b : Body) (p : Holder → Bool) : (releaseWhere b p).ctx = b.ctx := rfl

@[simp] theorem finishSeq_admin_ctx (b : Body) (q st : Nat) (res : BitVec 32) : (finishSeq b .admin q st res).ctx = b.ctx := rfl

/-! ### What acts on one context only

`n` is the slot of another context: reading it after the act gives what it gave before. -/

section
variable {n slot : Nat} (h : n ≠ slot)
include h

theorem ctxAt_modCtx_ne (b : Body) (f : Ctx → Ctx) : ctxAt (modCtx b slot f) n = ctxAt b n := fget_fset_ne _ _ h

theorem ctxAt_modLed_ne (b : Body) (f : Ledger → Ledger) : ctxAt (modLed b slot f) n = ctxAt b n := ctxAt_modCtx_ne h b _

theorem ctxAt_modStep_ne (b : Body) (k : Nat) (f : StepRec → StepRec) : ctxAt (modStep b slot k f) n = ctxAt b n := ctxAt_modCtx_ne h b _

theorem ctxAt_dropTags_ne (b : Body) : ctxAt (dropTags b slot) n = ctxAt b n := ctxAt_modCtx_ne h b _

theorem ctxAt_freeRet_ne (b : Body) (p : Nat → RetSlot → Bool) : ctxAt (freeRet b slot p) n = ctxAt b n := ctxAt_modCtx_ne h b _

theorem ctxAt_freeSlot_ne (b : Body) : ctxAt (freeSlot b slot) n = ctxAt b n := fget_fdel_ne _ h

end

/-- Two bodies with the same table of contexts have the same contexts. -/
theorem ctxAt_congr {b b' : Body} (h : b'.ctx = b.ctx) (n : Nat) : ctxAt b' n = ctxAt b n := by simp only [ctxAt, h]

/-- The slots' generation counters stand outside their contexts. -/
theorem ctxAt_advGen (b : Body) (slot n : Nat) : ctxAt (advGen b slot) n = ctxAt b n := rfl

/-- A slot that is left is FREE. -/
theorem ctxAt_freeSlot_same (b : Body) (slot : Nat) : ctxAt (freeSlot b slot) slot = default := fget_fdel_same _ _

/-! ### Rings of a context -/

/-- Every ring of a context is one of its slot. -/
theorem ringSlot_of_mem {slot : Nat} {r : RingRef} (hr : r ∈ ctxRings slot) : ringSlot r = some slot := by
  unfold ctxRings at hr
  split at hr
  · obtain ⟨k, -, rfl⟩ := List.mem_map.mp hr; rfl
  · cases hr

section
variable {n : Nat} {r : RingRef} (h : ringSlot r ≠ some n)
include h

theorem ctxAt_modRing_ne (b : Body) (f : Ring → Ring) : ctxAt (modRing b r f) n = ctxAt b n := by
  cases r with
  | admin => rfl
  | ctx s k => exact ctxAt_modCtx_ne (fun he => h (congrArg some he.symm)) b _

theorem ctxAt_countIrq_ne (e : Env) (b : Body) : ctxAt (countIrq e b r) n = ctxAt b n := by
  cases r with
  | admin => exact ctxAt_congr (raiseVector_ctx b 0) n
  | ctx s k =>
    unfold countIrq; dsimp only; split
    · exact (ctxAt_congr (raiseVector_ctx _ _) n).trans (ctxAt_modRing_ne h b _)
    · exact ctxAt_modRing_ne h b _

theorem ctxAt_writeRecord_ne (e : Env) (b : Body) (kind st i : Nat) (res user : BitVec 32) (irq : Bool) :
    ctxAt (writeRecord e b r kind st i res user irq) n = ctxAt b n := by
  simp only [writeRecord, apply_ite (ctxAt · n), ctxAt_countIrq_ne h, ctxAt_modRing_ne h, ctxAt_congr (hostWrite_ctx _ _ _) n, ite_self]

end

section
variable {n slot : Nat} (h : n ≠ slot)
include h

theorem ringSlot_ne {r : RingRef} (hr : ringSlot r = some slot) : ringSlot r ≠ some n := fun he => h (Option.some.inj (he.symm.trans hr))

/-- The H-die's look at an event goes over the admin ring and the rings of the event's context (R413). -/
theorem ctxAt_latchWev_ne (c : Nat) (b : Body) : ctxAt (latchWev slot c b) n = ctxAt b n := by
  refine foldl_keeps (ctxAt · n) (fun b r hr => ?_) b
  have hs : ringSlot r ≠ some n := by
    rcases List.mem_cons.mp hr with rfl | hr
    · exact nofun
    · exact ringSlot_ne h (ringSlot_of_mem hr)
  split
  · rfl
  · split
    · exact ctxAt_modRing_ne hs b _
    · rfl

theorem ctxAt_setEventNow_ne (e : Env) (b : Body) (v : Nat) : ctxAt (setEventNow e b slot v) n = ctxAt b n :=
  (ctxAt_latchWev_ne h _ _).trans (ctxAt_modCtx_ne h b _)

theorem ctxAt_completeFlight_ne {r : RingRef} (hr : ringSlot r = some slot) (e : Env) (b : Body) (f : Flight) (kind : Nat) :
    ctxAt (completeFlight e b r f kind) n = ctxAt b n := by
  have hs := ringSlot_ne h hr
  unfold completeFlight
  cases f.done with
  | none => rfl
  | some x =>
    simp only [hr, Option.getD_some, apply_ite (ctxAt · n), ctxAt_setEventNow_ne h, ctxAt_modRing_ne hs, ctxAt_writeRecord_ne hs, ite_self]

theorem ctxAt_resetRing_ne {r : RingRef} (hr : ringSlot r = some slot) (e : Env) (b : Body) : ctxAt (resetRing e b r) n = ctxAt b n := by
  have hs := ringSlot_ne h hr
  unfold resetRing; dsimp only
  split
  · rfl
  · rw [ctxAt_writeRecord_ne hs, ctxAt_modRing_ne hs]
    exact foldl_keeps (ctxAt · n) (fun b f _ => ctxAt_completeFlight_ne h hr e b _ 0) b

/-! ### The ledger of a context -/

theorem ctxAt_sealStep_ne (b : Body) (k : Nat) : ctxAt (sealStep b slot k) n = ctxAt b n := by
  simp only [sealStep, ctxAt_dropTags_ne h, ctxAt_congr (sendJobs_ctx _ slot _ fun u => .mirrorSealed u k) n, ctxAt_modLed_ne h]

theorem ctxAt_refuseStep_ne (e : Env) (b : Body) (k : Nat) : ctxAt (refuseStep e b slot k) n = ctxAt b n := by
  simp only [refuseStep, ctxAt_congr (moduleEvent_ctx ..) n, ctxAt_congr (ledgerErr_ctx ..) n, ctxAt_modLed_ne h, ctxAt_modStep_ne h]

theorem ctxAt_decideStep_ne (e : Env) (b : Body) (k : Nat) (sealed : Bool) : ctxAt (decideStep e b slot k sealed) n = ctxAt b n := by
  simp only [decideStep, apply_ite (ctxAt · n), ctxAt_sealStep_ne h, ctxAt_refuseStep_ne h,
    ctxAt_congr (sendJobs_ctx _ slot _ fun q => .sealDecision (Prod.snd q) k sealed) n, ite_self]

theorem ctxAt_sealTry_ne (e : Env) (b : Body) (k : Nat) : ctxAt (sealTry e b slot k) n = ctxAt b n := by
  have sent : ∀ f g, ctxAt (sendJob (modStep b slot k f) slot g) n = ctxAt b n :=
    fun f g => (ctxAt_congr (sendJob_ctx _ slot g) n).trans (ctxAt_modStep_ne h b k f)
  simp only [sealTry, apply_ite (ctxAt · n), ctxAt_decideStep_ne h, sent, ite_self]

theorem ctxAt_reportStep_ne (e : Env) (b : Body) (k : Nat) (clean : Bool) : ctxAt (reportStep e b slot k clean) n = ctxAt b n := by
  simp only [reportStep, apply_ite (ctxAt · n), ctxAt_sealTry_ne h, ctxAt_modStep_ne h, ite_self]

theorem ctxAt_reportAllDirty_ne (e : Env) (b : Body) : ctxAt (reportAllDirty e b slot) n = ctxAt b n :=
  foldl_keeps (ctxAt · n) (fun b k _ => ctxAt_reportStep_ne h e b k false) b

theorem ctxAt_ledgerReset_ne (b : Body) : ctxAt (ledgerReset b slot) n = ctxAt b n := by
  unfold ledgerReset; dsimp only
  rw [ctxAt_modLed_ne h]
  refine (foldl_keeps (ctxAt · n) (fun b r _ => ?_) _).trans ?_
  · rfl
  · split
    · exact foldl_keeps (ctxAt · n) (fun b k _ => ctxAt_congr (releaseWhere_ctx b _) n) b
    · rfl

/-! ### The reset and the end of a context -/

theorem ctxAt_contrailOver_ne (e : Env) (b : Body) (code : Nat) : ctxAt (contrailOver e b slot code) n = ctxAt b n :=
  (ctxAt_congr (moduleEvent_ctx _ _ _ _ _ _ _ _) n).trans (ctxAt_modCtx_ne h b _)

theorem ctxAt_haltCtx_ne (e : Env) (b : Body) : ctxAt (haltCtx e b slot) n = ctxAt b n := by
  have fly : ∀ (l : List (Option Nat × Nat)) (b : Body), ctxAt (l.foldl (fun b x => finishSeq b .admin x.2 0x00 0) b) n = ctxAt b n :=
    fun l b => foldl_keeps (ctxAt · n) (fun b x _ => ctxAt_congr (finishSeq_admin_ctx b (Prod.snd x) 0x00 0) n) b
  simp only [haltCtx, apply_ite (ctxAt · n), ctxAt_freeSlot_ne h, ctxAt_reportAllDirty_ne h, fly, ctxAt_modCtx_ne h, ite_self]

end

/-- A context reset changes no other context (R50, R261, R313). -/
theorem ctxAt_resetContext_ne {n : Nat} (e : Env) (b : Body) (r : FaultReq) (h : n ≠ r.slot) :
    ctxAt (resetContext e b r) n = ctxAt b n := by
  have kill : ∀ (l : List Nat) (b : Body), ctxAt (l.foldl (fun b k => modPanel b k fun p => p.kill r.slot) b) n = ctxAt b n :=
    fun l b => foldl_keeps (ctxAt · n) (fun b k _ => ctxAt_congr (modPanel_ctx b k _) n) b
  have rings : ∀ (b : Body), ctxAt ((ctxRings r.slot).foldl (resetRing e) b) n = ctxAt b n :=
    fun b => foldl_keeps (ctxAt · n) (fun b x hx => ctxAt_resetRing_ne h (ringSlot_of_mem hx) e b) b
  have jobs : ∀ (b : Body) (l : List Job), ctxAt { b with ctx := { b.ctx with jobs := l } } n = ctxAt b n := fun _ _ => rfl
  have quiet : ∀ {b b' : Body}, b'.ctx = b.ctx → ctxAt b' n = ctxAt b n := fun h => ctxAt_congr h n
  simp only [resetContext, apply_ite (ctxAt · n), ctxAt_haltCtx_ne h, ctxAt_modCtx_ne h, jobs, rings, quiet (dropFar_ctx ..),
    quiet (unpin_ctx ..), ctxAt_dropTags_ne h, ctxAt_freeRet_ne h, ctxAt_ledgerReset_ne h, ctxAt_advGen, kill, ctxAt_contrailOver_ne h,
    quiet (emitSquall_ctx ..), quiet (moduleEvent_ctx ..), ite_self]

end Sys2Proof.Machine
end

section
/-! PROOF. What a function-level reset leaves (R278): every context is gone, and what the host has started has stopped. -/

namespace Sys2Proof.Machine

/-! ### The destruction of every context -/

/-- A listed key reads a listed value. -/
theorem fget_mem {α : Type} [Inhabited α] (m : FMap α) (a : Nat) : fget m a = default ∨ (a, fget m a) ∈ m := by
  induction m with
  | nil => exact .inl rfl
  | cons p t ih =>
    obtain ⟨k, v⟩ := p
    by_cases hk : k = a
    · subst hk; simp [fget]
    · simp only [fget, if_neg hk]; exact ih.imp_right (List.mem_cons_of_mem _)

/-- A context that is not among the live ones is FREE. -/
theorem free_of_not_mem_liveSlots {b : Body} {n : Nat} (h : n ∉ liveSlots b) : (ctxAt b n).id.st = .free := by
  rcases fget_mem b.ctx.slot n with hd | hm
  · simp only [ctxAt, hd]; rfl
  · refine Decidable.byContradiction fun hs => h (List.mem_map.mpr ⟨_, List.mem_filter.mpr ⟨hm, ?_⟩, rfl⟩)
    exact bne_iff_ne.mpr hs

/-- One context is reset and destroyed, as `destroyAll` does it for each (R278, R412). -/
def destroySlot (e : Env) (cause : Nat) (b : Body) (s : Nat) : Body :=
  let b := if !(ctxAt b s).id.resetting then resetContext e b (ctxFault s cause 12 0) else b
  let b := ((ctxAt b s).id.scrubs).foldl (fun b k => modPanel b k fun p => { p.release s with ownedAt := e.tick }) b
  let b := modCtx b s fun c => { c with id := { c.id with scrubs := [], resetting := false } }
  freeSlot (reportAllDirty e b s) s

theorem destroyAll_eq (e : Env) (b : Body) (cause : Nat) : destroyAll e b cause = (liveSlots b).foldl (destroySlot e cause) b := rfl

theorem ctxAt_destroySlot_ne {n s : Nat} (h : n ≠ s) (e : Env) (cause : Nat) (b : Body) :
    ctxAt (destroySlot e cause b s) n = ctxAt b n := by
  have hr := fun b => ctxAt_resetContext_ne e b (ctxFault s cause 12 0) h
  have scrubs : ∀ (l : List Nat) (b : Body),
      ctxAt (l.foldl (fun b k => modPanel b k fun p => { p.release s with ownedAt := e.tick }) b) n = ctxAt b n :=
    fun l b => foldl_keeps (ctxAt · n) (fun b k _ => ctxAt_congr (modPanel_ctx b k _) n) b
  simp only [destroySlot, ctxAt_freeSlot_ne h, ctxAt_reportAllDirty_ne h, ctxAt_modCtx_ne h, scrubs, apply_ite (ctxAt · n), hr, ite_self]

theorem ctxAt_destroySlot_same (e : Env) (cause : Nat) (b : Body) (s : Nat) : ctxAt (destroySlot e cause b s) s = default :=
  ctxAt_freeSlot_same _ _

/-- A context destroyed, or FREE before, is FREE after the destruction of a list of contexts. -/
theorem free_foldl_destroySlot (e : Env) (cause n : Nat) (l : List Nat) (b : Body) (h : n ∈ l ∨ (ctxAt b n).id.st = .free) :
    (ctxAt (l.foldl (destroySlot e cause) b) n).id.st = .free := by
  induction l generalizing b with
  | nil => exact h.resolve_left nofun
  | cons s t ih =>
    rw [List.foldl_cons]
    refine ih _ ?_
    by_cases hn : n = s
    · subst hn; rw [ctxAt_destroySlot_same]; exact .inr rfl
    · rw [ctxAt_destroySlot_ne hn]
      exact h.imp_left fun hm => (List.mem_cons.mp hm).resolve_left hn

/-- No context is left. -/
theorem free_destroyAll (e : Env) (b : Body) (cause n : Nat) : (ctxAt (destroyAll e b cause) n).id.st = .free := by
  rw [destroyAll_eq]
  by_cases h : n ∈ liveSlots b
  · exact free_foldl_destroySlot e cause n _ b (.inl h)
  · exact free_foldl_destroySlot e cause n _ b (.inr (free_of_not_mem_liveSlots h))

/-- Causes have no effect where no context is. -/
theorem applyFaults_free (e : Env) (b : Body) (h : ∀ n, (ctxAt b n).id.st = .free) : applyFaults e b = unqueued b := by
  have hf : ∀ n, (ctxAt (unqueued b) n).id.st = .free := h
  refine List.foldlRecOn _ _ (motive := (· = unqueued b)) rfl fun x hx s _ => ?_
  subst hx
  split
  · rfl
  · simp [hf]

/-! ### What the host has started stops -/

/-- A command's end on the admin ring touches neither memory nor the fabric. -/
theorem finishSeq_admin_keeps (b : Body) (q st : Nat) (res : BitVec 32) :
    (finishSeq b .admin q st res).mem = b.mem ∧ (finishSeq b .admin q st res).fab = b.fab := ⟨rfl, rfl⟩

theorem releaseWhere_keeps (b : Body) (p : Holder → Bool) : (releaseWhere b p).mem = b.mem ∧ (releaseWhere b p).fab = b.fab := ⟨rfl, rfl⟩

/-- A swatch's end touches neither contexts nor memory nor the fabric. -/
theorem swatchEnd_keeps (e : Env) (b : Body) (k res : Nat) (sig : Nat × Nat) :
    (swatchEnd e b k res sig).ctx = b.ctx ∧ (swatchEnd e b k res sig).mem = b.mem ∧ (swatchEnd e b k res sig).fab = b.fab := by
  unfold swatchEnd
  cases fget b.kpr.running k with
  | none => exact ⟨rfl, rfl, rfl⟩
  | some r =>
    cases hq : r.seq <;>
      simp [hq, finishSeq_admin_keeps, releaseWhere_keeps, apply_ite Body.ctx, apply_ite Body.mem, apply_ite Body.fab]

theorem swatchStop_keeps (e : Env) (b : Body) (which : Nat → SwRun → Bool) :
    (swatchStop e b which).ctx = b.ctx ∧ (swatchStop e b which).mem = b.mem ∧ (swatchStop e b which).fab = b.fab := by
  have one := fun (b : Body) (k : Nat) => swatchEnd_keeps e b k 3 (0xFF, 0)
  exact ⟨foldl_keeps Body.ctx (fun b k _ => (one b k).1) b, foldl_keeps Body.mem (fun b k _ => (one b k).2.1) b,
    foldl_keeps Body.fab (fun b k _ => (one b k).2.2) b⟩

@[simp] theorem granuleBack_ctx (b : Body) (g : Nat) : (granuleBack b g).ctx = b.ctx := rfl

@[simp] theorem fbSync_ctx (b : Body) (d : Nat) : (fbSync b d).ctx = b.ctx := by
  unfold fbSync; split
  · rfl
  · exact modStr_ctx ..

@[simp] theorem chanBack_ctx (b : Body) (s ch : Nat) : (chanBack b s ch).ctx = b.ctx := by
  simp only [chanBack, fbSync_ctx, setChan_ctx, modStack_ctx, modStr_ctx]
  exact foldl_keeps Body.ctx (fun b g _ => granuleBack_ctx b (Prod.fst g)) b

@[simp] theorem marginAbort_ctx (b : Body) : (marginAbort b).ctx = b.ctx := by
  unfold marginAbort; dsimp only
  split
  · rw [chanBack_ctx]
  · rfl

@[simp] theorem fwEnd_ctx (b : Body) (status : Nat) : (fwEnd b status).ctx = b.ctx := by
  unfold fwEnd; dsimp only
  split <;> rfl

theorem hostRelease_ctx (e : Env) (b : Body) : (hostRelease e b).ctx = b.ctx := by
  simp only [hostRelease, releaseWhere_ctx, apply_ite Body.ctx, fwEnd_ctx, marginAbort_ctx, (swatchStop_keeps e b _).1, ite_self]

/-- No scaffold stays held by a host request. -/
theorem hostRelease_holders (e : Env) (b : Body) : ∀ h ∈ (hostRelease e b).host.holders, h.host = false := by
  intro h hh
  simpa using (List.mem_filter.mp hh).2

theorem functionReset_ctx (e : Env) (b : Body) : (functionReset e b).ctx = (destroyAll e b 0x13).ctx := by
  unfold functionReset
  exact hostRelease_ctx e (destroyAll e b 0x13)

/-- No context is left after a function-level reset. -/
theorem free_functionReset (e : Env) (b : Body) (n : Nat) : (ctxAt (functionReset e b) n).id.st = .free := by
  rw [ctxAt_congr (functionReset_ctx e b), free_destroyAll]

/-- A command that is no slot has its effect and that of the causes it raises, apart from the causes that wait (R310). -/
theorem boundary_eq (f : Env → Body → Body) (e : Env) (b : Body) :
    boundary f e b = requeued b.ctx.faultq (applyFaults e (f e (unqueued b))) := rfl

theorem requeued_unqueued (q : List FaultReq) (b : Body) : requeued q (unqueued b) = requeued q b := rfl

/-- Neither the error summaries nor the causes that wait change a context. -/
theorem ctxAt_errSync_requeued (x b : Body) (q : List FaultReq) (n : Nat) : ctxAt (errSync x (requeued q b)) n = ctxAt b n := rfl

/-- The error summaries leave the count of malformed accesses. -/
theorem errSync_badAcc (x b : Body) : (errSync x b).dir.badAcc = b.dir.badAcc := by
  unfold errSync; rw [errAdd_shape]

/-- What a function-level reset leaves of the PCIe function, and the scaffolds the host no longer holds (R278, Table 13-5). -/
structure FunctionCold (b : Body) : Prop where
  ar : b.host.ar = default
  dbDrop : b.host.dbDrop = 0
  badAcc : b.dir.badAcc = 0
  holders : ∀ h ∈ b.host.holders, h.host = false
  queries : b.host.queries = []
  master : b.host.master = false
  vpend : b.host.vpend = []

theorem functionReset_cold (e : Env) (b : Body) : FunctionCold (functionReset e b) := by
  unfold functionReset
  have holders := hostRelease_holders e (destroyAll e b 0x13)
  exact ⟨rfl, rfl, rfl, holders, rfl, rfl, rfl⟩

/-- Neither the error summaries nor the causes that wait belong to the PCIe function. -/
theorem FunctionCold.sync {b : Body} (h : FunctionCold b) (x : Body) (q : List FaultReq) : FunctionCold (errSync x (requeued q b)) :=
  ⟨h.ar, h.dbDrop, (errSync_badAcc x _).trans h.badAcc, h.holders, h.queries, h.master, h.vpend⟩

/-- FUNCTION_LEVEL_RESET leaves no context for a cause to act on, and the function cold. -/
theorem exec_functionLevelReset (s : State) : ∃ t, exec .functionLevelReset s = .next t ∧ (∀ n, (ctxAt t.body n).id.st = .free) ∧
    FunctionCold t.body := by
  have free := free_functionReset s.env (unqueued s.body)
  have cold := functionReset_cold s.env (unqueued s.body)
  refine ⟨{ s with body := errSync s.body (boundary functionReset s.env s.body) }, rfl, ?_⟩
  have quiet : boundary functionReset s.env s.body = requeued s.body.ctx.faultq (functionReset s.env (unqueued s.body)) := by
    rw [boundary_eq, applyFaults_free s.env _ free, requeued_unqueued]
  simp only [quiet, ctxAt_errSync_requeued]
  exact ⟨free, cold.sync _ _⟩

end Sys2Proof.Machine
end

section
/-! PROOF. What a module reset leaves (Table 13-5), and with it a power-on reset, a loss of power and PERST_N (R3, R348, R374, R379, R382,
R384, R392). -/

namespace Sys2Proof.Machine

/-! ### The module reset -/

/-- Where slots' generations advance, nothing but the table of contexts changes. -/
theorem foldl_advGen_shape (l : List Nat) (b : Body) : ∃ c, l.foldl advGen b = { b with ctx := c } := by
  induction l generalizing b with
  | nil => exact ⟨b.ctx, rfl⟩
  | cons s t ih =>
    obtain ⟨c, hc⟩ := ih (advGen b s)
    exact ⟨c, hc⟩

theorem dropContexts_shape (b : Body) : ∃ c, dropContexts b = { b with ctx := c } ∧ c.slot = [] ∧ c.faultq = [] := by
  obtain ⟨c, hc⟩ := foldl_advGen_shape (liveSlots b) b
  refine ⟨{ c with slot := [], freed := c.freed ++ liveSlots b, jobs := [], faultq := [], evq := [] }, ?_, rfl, rfl⟩
  simp only [dropContexts, hc]

/-- What a module reset leaves of each part that the statements below speak of. -/
structure Cold (b b' : Body) : Prop where
  slot : b'.ctx.slot = []
  faultq : b'.ctx.faultq = []
  mem : b'.mem = b.mem.cold
  host : b'.host = { (default : HostSt) with bytes := b.host.bytes, dbDrop := b.host.dbDrop }
  fab : b'.fab = b.fab.cold
  kpr : b'.kpr = b.kpr.cold
  brd : b'.brd = { b.brd with thr := [], minStep := 0, pLimit := 3200 }

/-- The Module column of Table 13-5. -/
theorem moduleCold_cold (e : Env) (b : Body) : Cold b (moduleCold e b) := by
  obtain ⟨c, hc, hs, hq⟩ := dropContexts_shape (stashGens b)
  simp only [moduleCold, hc]
  exact ⟨hs, hq, rfl, rfl, rfl, rfl, rfl⟩

/-! ### A power-on reset -/

/-- A power-on reset (R3, Table 13-5): the count advances, the clock and phase 1 start; what flash and fuses hold and the host's memory
stay. -/
def PoweredOn (s : State) (straps : Nat) (t : State) : Prop :=
  t.pwrOn = s.pwrOn + 1 ∧ t.clk = ⟨0, 0, 0⟩ ∧ t.body.kpr.start.phase = 1 ∧ t.body.kpr.pwr.off = false ∧ t.body.kpr.pwr.hold = 0 ∧
    t.body.ctx.slot = [] ∧ t.body.mem.bytes = [] ∧ t.body.host.bytes = s.body.host.bytes ∧ t.body.brd.slotId = straps ∧
    t.body.fab.plan = none ∧ t.body.kpr.i3c.dyn = none ∧ t.body.kpr.fuse.identity = s.body.kpr.fuse.identity ∧
    t.body.kpr.hist = s.body.kpr.hist ∧ t.pending = s.pending

theorem powerOn_poweredOn (s : State) (straps : Nat) : PoweredOn s straps (powerOn s straps) := by
  have h := moduleCold_cold ⟨⟨0, 0, 0⟩, s.pwrOn + 1⟩ s.body
  have hold : (powerOn s straps).body.kpr.pwr.hold = 0 := congrArg (·.pwr.hold) h.kpr
  have host : (powerOn s straps).body.host.bytes = s.body.host.bytes := congrArg (·.bytes) h.host
  have identity : (powerOn s straps).body.kpr.fuse.identity = s.body.kpr.fuse.identity := congrArg (·.fuse.identity) h.kpr
  have hist : (powerOn s straps).body.kpr.hist = s.body.kpr.hist := congrArg (·.hist) h.kpr
  exact ⟨rfl, rfl, rfl, rfl, hold, h.slot, rfl, host, rfl, rfl, rfl, identity, hist, rfl⟩

/-! ### A loss of power -/

/-- A command whose effect raises no cause answers what its effect makes of the body, with the outputs of CN-H as the state says. -/
theorem runPin_quiet {f : Env → Body → Body} {s : State} (hq : (f s.env (unqueued s.body)).ctx.faultq = []) :
    runPin f s = .next { s with body := errSync s.body (pinSync (requeued s.body.ctx.faultq (f s.env (unqueued s.body)))) } := by
  have h := boundary_quiet (fun e b => pinSync (f e b)) s.env s.body hq
  unfold runPin runCmd runBody
  rw [h]; rfl

/-- The board once power is lost for a cause on a rail. -/
def Brd.lost (r : Brd) (cause : Nat) (rail : Option Nat) : Brd :=
  { r with thr := [], minStep := 0, pLimit := 3200, lastOffCause := cause, lastOffRail := rail, fast := false }

/-- What a loss of power leaves of the state (R374, R379, R382). -/
structure PoweredOff (b b' : Body) (cause : Nat) (rail : Option Nat) : Prop where
  off : b'.kpr.pwr.off = true
  slot : b'.ctx.slot = []
  faultq : b'.ctx.faultq = []
  bytes : b'.mem.bytes = []
  brd : b'.brd = b.brd.lost cause rail

theorem powerLoss_poweredOff (e : Env) {b : Body} (hoff : b.kpr.pwr.off = false) (cause : Nat) (rail : Option Nat) :
    PoweredOff b (powerLoss e b cause rail) cause rail := by
  have h := moduleCold_cold e b
  simp only [powerLoss, hoff, Bool.false_eq_true, if_false]
  exact {
    off := rfl, bytes := rfl
    slot := h.slot
    faultq := h.faultq
    brd := congrArg (fun r : Brd => { r with lastOffCause := cause, lastOffRail := rail, fast := false }) h.brd }

/-- Without power neither PWRGD nor ALERT_N is driven (R375). -/
theorem pinSync_brd_off {b : Body} (h : b.kpr.pwr.off = true) :
    ∃ out, (pinSync b).brd = { b.brd with pwrgd := false, alertN := false, pins := out } := by
  refine ⟨(pinSync b).brd.pins, ?_⟩
  simp only [pinSync, modBrd_brd, alertLow, h, Bool.not_true, Bool.false_and]

/-- A command loses power, with its cause and rail recorded, and leaves the board so that `pins` holds of it. -/
def LosesPower (o : Out) (cause : Nat) (rail : Option Nat) (pins : Brd → Prop) : Prop :=
  ∃ t, o = .next t ∧ t.body.kpr.pwr.off = true ∧ t.body.brd.lastOffCause = cause ∧ t.body.brd.lastOffRail = rail ∧
    t.body.brd.fast = false ∧ t.body.brd.pwrgd = false ∧ t.body.brd.alertN = false ∧ t.body.ctx.slot = [] ∧
    t.body.mem.bytes = [] ∧ pins t.body.brd

/-- A command that loses power and changes the board by `g`, which leaves what is recorded of the loss. -/
theorem losesPower_of {f : Env → Body → Body} {s : State} {cause : Nat} {rail : Option Nat} {pins : Brd → Prop} (g : Brd → Brd)
    (hoff : s.body.kpr.pwr.off = false)
    (hf : f s.env (unqueued s.body) = modBrd (powerLoss s.env (unqueued s.body) cause rail) g)
    (hg : ∀ r, (g r).lastOffCause = r.lastOffCause ∧ (g r).lastOffRail = r.lastOffRail ∧ (g r).fast = r.fast)
    (hp : ∀ pwrgd alertN out, pins { g (s.body.brd.lost cause rail) with pwrgd := pwrgd, alertN := alertN, pins := out }) :
    LosesPower (runPin f s) cause rail pins := by
  have h := powerLoss_poweredOff s.env (b := unqueued s.body) hoff cause rail
  obtain ⟨hc, hr, hfast⟩ := hg (s.body.brd.lost cause rail)
  refine ⟨_, runPin_quiet (by rw [hf]; exact h.faultq), ?_⟩
  rw [hf]
  generalize powerLoss s.env (unqueued s.body) cause rail = x at h
  obtain ⟨out, hout⟩ := pinSync_brd_off (b := requeued s.body.ctx.faultq (modBrd x g)) h.off
  have hbrd : (requeued s.body.ctx.faultq (modBrd x g)).brd = g (s.body.brd.lost cause rail) := congrArg g h.brd
  simp only [errSync_kpr, errSync_ctx, errSync_mem, errSync_brd, pinSync_kpr, pinSync_ctx, pinSync_mem, hout, hbrd]
  exact ⟨h.off, hc, hr, hfast, trivial, trivial, h.slot, h.bytes, hp false false out⟩

/-! ### The causes of a loss of power -/

theorem undervoltage_losesPower {s : State} (hoff : s.body.kpr.pwr.off = false) :
    LosesPower (exec .inputUndervoltage s) (if s.body.kpr.start.offOk then 5 else 1) none
      fun r => r.inputOn = false ∧ r.faultN = false ∧ r.thermTrip = false :=
  losesPower_of (fun r => { r with inputOn := false, faultN := false, thermTrip := false }) hoff rfl
    (fun _ => ⟨rfl, rfl, rfl⟩) fun _ _ _ => ⟨rfl, rfl, rfl⟩

theorem overvoltage_losesPower {s : State} (hoff : s.body.kpr.pwr.off = false) :
    LosesPower (exec .inputOvervoltage s) 2 none fun r => r.inputOn = false ∧ r.ovHold = true :=
  losesPower_of (fun r => { r with inputOn := false, ovHold := true }) hoff rfl
    (fun _ => ⟨rfl, rfl, rfl⟩) fun _ _ _ => ⟨rfl, rfl⟩

theorem presenceOpen_losesPower {s : State} (hoff : s.body.kpr.pwr.off = false) :
    LosesPower (exec .prsntNOpen s) 6 none fun r => r.inputOn = false ∧ r.prsntOpen = true ∧ r.faultN = false ∧ r.thermTrip = false :=
  losesPower_of (fun r => { r with inputOn := false, faultN := false, thermTrip := false, prsntOpen := true }) hoff rfl
    (fun _ => ⟨rfl, rfl, rfl⟩) fun _ _ _ => ⟨rfl, rfl, rfl, rfl⟩

theorem thermalTrip_losesPower {s : State} (hoff : s.body.kpr.pwr.off = false) :
    LosesPower (exec .thermalTrip s) 4 none fun r => r.thermTrip = true :=
  losesPower_of (fun r => { r with thermTrip := true }) hoff (by simp only [thermalTrip, unqueued, hoff, Bool.false_eq_true, if_false])
    (fun _ => ⟨rfl, rfl, rfl⟩) fun _ _ _ => rfl

theorem railFault_losesPower {s : State} (hoff : s.body.kpr.pwr.off = false) {n : Fin 11} (hn : n.val ∈ poweredRails s.body)
    (h10 : n.val ≠ 10) : LosesPower (exec (.railFault n) s) 3 (some n.val) fun r => r.faultN = true := by
  have powered : (poweredRails (unqueued s.body)).contains n.val = true := List.contains_iff_mem.mpr hn
  have hoff' : (unqueued s.body).kpr.pwr.off = false := hoff
  refine losesPower_of (fun r => { r with faultN := true }) hoff ?_ (fun _ => ⟨rfl, rfl, rfl⟩) fun _ _ _ => rfl
  simp only [railFault, hoff', powered, h10, Bool.false_eq_true, Bool.not_true, or_self, if_false]

/-- With rail 10 gone nothing more is recorded, and FAULT_N stays as it was (R382; log entry 37). -/
theorem railFault_ten_losesPower {s : State} (hoff : s.body.kpr.pwr.off = false) (hn : 10 ∈ poweredRails s.body) :
    LosesPower (exec (.railFault 10) s) s.body.brd.lastOffCause s.body.brd.lastOffRail fun r => r.faultN = s.body.brd.faultN := by
  have powered : (poweredRails (unqueued s.body)).contains 10 = true := List.contains_iff_mem.mpr hn
  have hoff' : (unqueued s.body).kpr.pwr.off = false := hoff
  refine losesPower_of id hoff ?_ (fun _ => ⟨rfl, rfl, rfl⟩) fun _ _ _ => rfl
  have ten : (10 : Fin 11).val = 10 := rfl
  simp only [railFault, ten, hoff', powered, Bool.false_eq_true, Bool.not_true, or_self, if_false, if_true]
  rfl

/-- A command without effect leaves the state. -/
theorem runPin_idle {f : Env → Body → Body} {s : State} (h : f s.env (unqueued s.body) = unqueued s.body) :
    Answers (runPin f s) s s.body :=
  answers_runPin (by rw [h]; rfl) (by rw [h]; rfl)

/-- A rail that is not powered, or any without input power, has no fault. -/
theorem railFault_idle {s : State} {n : Fin 11} (h : s.body.kpr.pwr.off = true ∨ n.val ∉ poweredRails s.body) :
    Answers (exec (.railFault n) s) s s.body := by
  have unpowered : n.val ∉ poweredRails s.body → (!(poweredRails (unqueued s.body)).contains n.val) = true := fun hn => by
    rw [Bool.not_eq_true', ← Bool.not_eq_true]
    exact fun hc => hn (List.contains_iff_mem.mp hc)
  exact runPin_idle (if_pos (h.imp_right unpowered))

theorem thermalTrip_idle {s : State} (h : s.body.kpr.pwr.off = true) : Answers (exec .thermalTrip s) s s.body := runPin_idle (if_pos h)

/-! ### PERST_N -/

/-- Does PERST_N reset the module: in CLEAR, HAZE and DUSK, out of HOLD and past phase 1 (R348, R384)? -/
def PerstResets (b : Body) : Prop :=
  b.kpr.pwr.off = false ∧ b.kpr.pwr.hold = 0 ∧ b.kpr.pwr.st ≠ .night ∧ b.kpr.start.phase ≠ 1

/-- The module reset that PERST_N asks for: contexts are gone, the plan record and memory stay, phase 2 begins. -/
structure PerstReset (b b' : Body) : Prop where
  phase : b'.kpr.start.phase = 2
  slot : b'.ctx.slot = []
  faultq : b'.ctx.faultq = []
  plan : b'.fab.plan = b.fab.plan
  bytes : b'.mem.bytes = b.mem.bytes

theorem moduleReset_perst (e : Env) {b : Body} (h : PerstResets b) : PerstReset b (moduleReset e b false) := by
  obtain ⟨hoff, hhold, hst, hph⟩ := h
  have night : (b.kpr.pwr.st == .night) = false := by simpa using hst
  have boot : (b.kpr.pwr.hold == 7 || (b.kpr.start.phase == 1 && b.kpr.pwr.hold == 0)) = false := by simp [hhold, hph]
  obtain ⟨-, hmem, hfab⟩ := swatchStop_keeps e b fun _ _ => true
  have cold := moduleCold_cold e (swatchStop e b fun _ _ => true)
  simp only [moduleReset, hoff, night, boot, Bool.false_eq_true, if_false]
  exact {
    phase := rfl
    slot := cold.slot
    faultq := cold.faultq
    plan := (congrArg (·.plan) cold.fab).trans (congrArg (·.plan) hfab)
    bytes := (congrArg (·.bytes) cold.mem).trans (congrArg (·.bytes) hmem) }

theorem not_perstResets {b : Body} :
    ¬ PerstResets b ↔ b.kpr.pwr.off = true ∨ b.kpr.pwr.hold ≠ 0 ∨ b.kpr.pwr.st = .night ∨ b.kpr.start.phase = 1 := by
  simp only [PerstResets, Decidable.not_and_iff_not_or_not, Bool.not_eq_false, ne_eq, Decidable.not_not]

theorem perstAssert_of_resets (e : Env) {b : Body} (h : PerstResets b) :
    perstAssert e b = modBrd (moduleReset e b false) fun r => { r with perst := true } := by
  simp only [perstAssert, if_neg fun hc => not_perstResets.mpr hc h]

theorem perstAssert_of_not_resets (e : Env) {b : Body} (h : ¬ PerstResets b) :
    perstAssert e b = modBrd b fun r => { r with perst := true } := by
  simp only [perstAssert, if_pos (not_perstResets.mp h)]

theorem perstNAssert_resets {s : State} (h : PerstResets s.body) : ∃ t, exec .perstNAssert s = .next t ∧ t.body.brd.perst = true ∧
    t.body.kpr.start.phase = 2 ∧ t.body.ctx.slot = [] ∧ t.body.fab.plan = s.body.fab.plan ∧ t.body.mem.bytes = s.body.mem.bytes ∧
    t.pwrOn = s.pwrOn := by
  have reset := moduleReset_perst s.env (b := unqueued s.body) h
  have run := perstAssert_of_resets s.env (b := unqueued s.body) h
  refine ⟨_, runPin_quiet (by rw [run]; exact reset.faultq), ?_⟩
  rw [run]
  exact ⟨rfl, reset.phase, reset.slot, reset.plan, reset.bytes, rfl⟩

theorem perstNAssert_idle {s : State} (h : ¬ PerstResets s.body) :
    Answers (exec .perstNAssert s) s { s.body with brd := { s.body.brd with perst := true } } := by
  have run := perstAssert_of_not_resets s.env (b := unqueued s.body) h
  exact answers_runPin (by rw [run]; rfl) (by rw [run]; rfl)

/-- A start that is in neither phase 2 nor phase 3 waits for no pin (R351). -/
theorem startGo_idle {b : Body} (h2 : b.kpr.start.phase ≠ 2) (h3 : b.kpr.start.phase ≠ 3) : startGo b = b := by
  simp only [startGo, h2, h3, false_and, if_false]

/-- Phase 2 with Zenith locked and PERST_N high goes on to phase 3, and with its window met to phase 4 (R351, R353). -/
theorem startGo_from_two {b : Body} (hph : b.kpr.start.phase = 2) (hhold : b.kpr.pwr.hold = 0) (hlock : b.kpr.pwr.unlocked = false)
    (hperst : b.brd.perst = false) :
    (startGo b).brd = b.brd ∧ (startGo b).ctx = b.ctx ∧ 3 ≤ (startGo b).kpr.start.phase ∧ (startGo b).kpr.pwr.clocksOff = false := by
  have begun : b.kpr.start.phase = 2 ∧ (!b.kpr.pwr.unlocked) = true ∧ (!b.brd.perst) = true ∧ b.kpr.pwr.hold = 0 := by
    simp [hph, hhold, hlock, hperst]
  simp only [startGo, if_pos begun]
  split
  · exact ⟨rfl, rfl, Nat.le_succ 3, rfl⟩
  · exact ⟨rfl, rfl, Nat.le_refl 3, rfl⟩

theorem perstNDeassert_idle {s : State} (h2 : s.body.kpr.start.phase ≠ 2) (h3 : s.body.kpr.start.phase ≠ 3) :
    Answers (exec .perstNDeassert s) s { s.body with brd := { s.body.brd with perst := false } } := by
  have run := startGo_idle (b := modBrd (unqueued s.body) fun r => { r with perst := false }) h2 h3
  exact answers_runPin (by rw [run]; rfl) (by rw [run]; rfl)

theorem perstNDeassert_starts {s : State} (hph : s.body.kpr.start.phase = 2) (hhold : s.body.kpr.pwr.hold = 0)
    (hlock : s.body.kpr.pwr.unlocked = false) : ∃ t, exec .perstNDeassert s = .next t ∧ t.body.brd.perst = false ∧
    3 ≤ t.body.kpr.start.phase ∧ t.body.kpr.pwr.clocksOff = false := by
  obtain ⟨hbrd, hctx, hphase, hclocks⟩ :=
    startGo_from_two (b := modBrd (unqueued s.body) fun r => { r with perst := false }) hph hhold hlock rfl
  exact ⟨_, runPin_quiet (congrArg (·.faultq) hctx), congrArg (·.perst) hbrd, hphase, hclocks⟩

end Sys2Proof.Machine

open Sys2Proof Sys2Proof.Machine

/-- Settles O52: each event's effect, from what a module reset, a loss of power and a function-level reset leave. -/
theorem powerAndPins : Obligations.PowerAndPins := by
  intro s
  refine ⟨fun straps => ⟨_, rfl, powerOn_poweredOn s straps.val⟩, fun hov => ⟨_, exec_overvoltageRestart_held hov, powerOn_poweredOn s _⟩,
    exec_overvoltageRestart_idle,
    fun hoff => ⟨undervoltage_losesPower hoff, overvoltage_losesPower hoff, presenceOpen_losesPower hoff, thermalTrip_losesPower hoff,
      fun n hn h10 => railFault_losesPower hoff hn h10, railFault_ten_losesPower hoff, fun n hn => railFault_idle (.inr hn)⟩,
    fun hoff => ⟨thermalTrip_idle hoff, fun n => railFault_idle (.inl hoff)⟩,
    ⟨perstNAssert_resets, perstNAssert_idle⟩, perstNDeassert_idle, perstNDeassert_starts, ?_⟩
  obtain ⟨t, ht, free, cold⟩ := exec_functionLevelReset s
  exact ⟨t, ht, fun n _ => free n, cold.ar, cold.dbDrop, cold.badAcc, cold.holders, cold.queries, cold.master, cold.vpend⟩
end

section
/-! PROOF. The start of Trowel's slots (R99, R102): the plan of a slot that is carried out, and what a 64-bit slot leaves whose only
effect is on its own panel's engines. -/

namespace Sys2Proof.Machine

/-! ### Plans that are carried out -/

/-- The bits of a slot below its opcode are those of the word given. -/
theorem bit_withOpc {sl opc w i : Nat} (h : i < slotBits sl - 6) : bit (withOpc sl opc w) i = bit w i := by
  simp only [bit, withOpc, Nat.add_comm (w % _), Nat.mul_comm opc]
  rw [Nat.testBit_two_pow_mul_add _ (Nat.mod_lt _ (Nat.two_pow_pos _)), if_pos h, Nat.testBit_mod_two_pow]
  simp [h]

/-- A field of a field. -/
theorem fld_fld {w hi lo h l : Nat} (hh : lo + h ≤ hi) : fld (fld w hi lo) h l = fld w (lo + h) (lo + l) := by
  apply Nat.eq_of_testBit_eq
  intro i
  simp only [fld, Nat.testBit_mod_two_pow, Nat.testBit_shiftRight]
  by_cases hi' : i < h + 1 - l
  · simp [show l + i < hi + 1 - lo by omega, Nat.add_assoc, show lo + (h + 1) - (lo + l) = h + 1 - l by omega]
  · simp [hi', Nat.add_assoc, show lo + (h + 1) - (lo + l) = h + 1 - l by omega]

/-- A bit of a field. -/
theorem bit_fld {w hi lo i : Nat} (h : lo + i ≤ hi) : bit (fld w hi lo) i = bit w (lo + i) := by
  simp only [bit, fld, Nat.testBit_mod_two_pow, Nat.testBit_shiftRight]
  simp [show i < hi + 1 - lo by omega]

/-- A source reference in bits `lo + 7` to `lo` of a slot: a line register, and an expected stamp where its bit is set (R66). -/
theorem oref_place {s : State} {t : ThreadRef} {k sl w lo : Nat} : oref (place s t k sl) (fld w (lo + 7) lo) =
    ⟨(threadAt s t k).areg (fld w (lo + 7) (lo + 4)), if bit w (lo + 3) then some (fld w (lo + 2) lo) else none⟩ := by
  simp only [oref, fld_fld (Nat.le_refl _), fld_fld (show lo + 2 ≤ lo + 7 by omega), bit_fld (show lo + 3 ≤ lo + 7 by omega)]
  rfl

/-- What is carried out asks for what its plan lists behind its checks. -/
theorem Carried.plan_eq {plan : IC → Nat → Plan} {s : State} {t : ThreadRef} {k sl opc w : Nat} {l : List (Bool × Nat)}
    {tok : Option Nat} {a : Act} (h : Carried plan s t k sl opc w) (hp : plan (place s t k sl) (withOpc sl opc w) = planOf l tok a) :
    plan (place s t k sl) (withOpc sl opc w) = .go a := by
  simp only [Carried, hp, planOf] at h ⊢
  cases hl : lowest l with
  | none => rfl
  | some r => simp only [hl] at h

/-! ### A slot that starts an engine of its panel -/

/-- What a slot leaves whose only effect is a change `f` of its panel, which neither reads nor changes the panel's sequencer. -/
theorem issued_engine {s : State} {t : ThreadRef} {k sl opc w : Nat} {plan : IC → Nat → Plan} {g : Ins → Body → Body}
    {f : Panel → Panel} (h : MayIssue s t k) (hp : plan (place s t k sl) (withOpc sl opc w) = .go (effect g))
    (hg : ∀ b, physOf b t.die.val t.lp.val = physOf s.body t.die.val t.lp.val → g (insAt s t k sl opc) b = modPanel b k f)
    (hf : ∀ P q, f { P with seq := q } = { f P with seq := q }) :
    Issued (runSlotRow sl opc plan t w s) s t k (goesOn (2 + slotBits sl / 8)) f id := by
  have hseq (P : Panel) : (f P).seq = P.seq := (congrArg Panel.seq (hf P P.seq) :)
  refine issued_of h hp (Nat.zero_le _) nofun ((congrArg _ (ite_self _)).trans (seq_flow s t k _)) f id ?run (fun _ => rfl) (fun _ => rfl)
    (fun _ _ _ => rfl) _ _ ?panel
  case run =>
    intro b hb _
    exact ⟨_, hg b hb, fget_fset_same .., fun j hj => fget_fset_ne _ _ hj⟩
  case panel =>
    rintro P rfl
    have untaken : (panelAt s.body k).takeTags 0 = panelAt s.body k := rfl
    simp only [panelAfter, effect, untaken, Panel.modThread, Panel.setThread, Panel.thread, hseq, goesOn, threadAt, Option.map,
      fget_fset_same, Nat.add_assoc]
    exact ⟨rfl, fun th hth => fget_fset_ne _ _ hth, (hf _ _).symm⟩

/-! ### LOADW and PASS -/

section
variable {v w : Nat} (hf : ∀ hi lo, hi < 58 → fld v hi lo = fld w hi lo) (hb : ∀ i, i < 58 → bit v i = bit w i)

include hf in
/-- The plan of a LOADW reads its word below the opcode only. -/
theorem planLoadw_congr (ic : IC) : planLoadw ic v = planLoadw ic w := by
  simp (disch := decide) only [planLoadw, hf]

include hf hb in
/-- The plan of a PASS reads its word below the opcode only. -/
theorem planPass_congr (ic : IC) : planPass ic v = planPass ic w := by
  simp (disch := decide) only [planPass, hf, hb]

end

/-- Which opcode stands in the word does not matter to the plan. -/
theorem planLoadw_withOpc (ic : IC) (opc w : Nat) : planLoadw ic (withOpc 2 opc w) = planLoadw ic w :=
  planLoadw_congr (fun _ _ h => fld_withOpc (sl := 2) h) ic

/-- Which opcode stands in the word does not matter to the plan. -/
theorem planPass_withOpc (ic : IC) (opc w : Nat) : planPass ic (withOpc 2 opc w) = planPass ic w :=
  planPass_congr (fun _ _ h => fld_withOpc (sl := 2) h) (fun _ h => bit_withOpc (sl := 2) h) ic

end Sys2Proof.Machine

open Sys2Proof Sys2Proof.Machine

/-- Settles O19: each slot's plan is carried out, its engine is free, and so its whole effect is the start on its own panel. -/
theorem trowelSlotsStart : Obligations.TrowelSlotsStart := by
  intro s t k w h
  -- `Carried …` stays unnamed: Lean's linter of variable names evaluates a named hypothesis's type, here the whole plan.
  refine ⟨fun _ => ?_, fun _ => ?_⟩
  · have plan := Carried.plan_eq ‹Carried planLoadw s t k 2 0x01 w.toNat› (planLoadw_withOpc ..)
    intro free
    refine issued_engine h plan (fun b hb => ?_) fun _ _ => rfl
    rw [if_neg (by exact Bool.eq_false_iff.mp free), oref_place (lo := 50)]
    exact congrArg (modPanel b · _) (insKey_eq h b hb)
  · have plan := Carried.plan_eq ‹Carried planPass s t k 2 0x02 w.toNat› (planPass_withOpc ..)
    intro rows pair ps free clean
    refine issued_engine h plan (fun b hb => ?_) fun _ _ => rfl
    -- Trowel is free, and the region's lines bring no hazard: nothing is noted, no row is poisoned.
    rw [if_neg (by exact Bool.eq_false_iff.mp free), oref_place (lo := 38), oref_place (lo := 30), ite_eq_right_iff.mpr (by exact clean)]
    exact congrArg (modPanel b · _) (insKey_eq h b hb)
end

section
/-! PROOF. The start of Skim's slots (R152, R157, R160): what the read of a chain descriptor finds (R198) depends on no panel and on no
time of issue, so a slot's other effects on its panel may come first or last. -/

namespace Sys2Proof.Machine

/-! ### Errors found, and the panels -/

/-- The body with other panels and another tick of the module's last issue: what issuing a slot that starts an engine changes besides
the instruction count. -/
def Body.withIssue (b : Body) (p : FMap Panel) (l : BitVec 64) : Body :=
  { b with panel := p, kpr := { b.kpr with pwr := { b.kpr.pwr with lastIssue := l } } }

section
variable (e : Env) (b : Body) (p : FMap Panel) (l : BitVec 64)

theorem raiseVector_withIssue (v : Nat) : raiseVector (b.withIssue p l) v = (raiseVector b v).withIssue p l := by
  simp only [raiseVector, apply_ite (Body.withIssue · p l)]; rfl

theorem raiseIbi_withIssue (m x : Nat) : raiseIbi (b.withIssue p l) m x = (raiseIbi b m x).withIssue p l := by
  simp only [raiseIbi, apply_ite (Body.withIssue · p l)]; rfl

theorem moduleEvent_withIssue (k c d h u n : Nat) :
    moduleEvent e (b.withIssue p l) k c d h u n = (moduleEvent e b k c d h u n).withIssue p l := by
  simp only [moduleEvent, ← raiseIbi_withIssue, ← raiseVector_withIssue]
  congr 2
  by_cases hk : b.kpr.ev.length < 64
  · simp only [Body.withIssue, hk, if_true]
  · simp only [Body.withIssue, hk, if_false]

/-- Whether a unit that is no panel is gone depends on no panel (Table 12-21). -/
theorem unitGone_withIssue {ut : Nat} (h : ut ≠ 0) (u : Nat) : unitGone (b.withIssue p l) ut u = unitGone b ut u := by
  unfold unitGone
  split
  · exact absurd rfl h
  all_goals rfl

theorem classOf_withIssue {ut : Nat} (h : ut ≠ 0) (u : Nat) (out : Bool) : classOf (b.withIssue p l) ut u out = classOf b ut u out := by
  unfold classOf
  rw [unitGone_withIssue b p l h]
  rfl

theorem classify_withIssue {ut : Nat} (h : ut ≠ 0) (u : Nat) (out : Bool) :
    classify e (b.withIssue p l) ut u out = (classify e b ut u out).withIssue p l := by
  simp only [classify, classOf_withIssue b p l h, apply_ite (Body.withIssue · p l), ← moduleEvent_withIssue]
  rfl

theorem histPut_withIssue {ut : Nat} (h : ut ≠ 0) (u k d : Nat) (temp : BitVec 16) (die : Option Nat) (cls sig row : Nat) :
    histPut e (b.withIssue p l) ut u k d temp die cls sig row = (histPut e b ut u k d temp die cls sig row).withIssue p l := by
  simp only [histPut, ← classify_withIssue e _ p l h]
  rfl

/-- An error of an instruction or descriptor cache counts for its die, never for a panel (log entry 77). -/
theorem memNote_withIssue {d : Nat} {r : MemRec} (hs : r.src = 4) (hc : 9 ≤ r.ch) (sig : Nat) :
    memNote e (b.withIssue p l) (.stratum d) r sig = (memNote e b (.stratum d) r sig).withIssue p l := by
  have unit : (memHist (.stratum d) r).1 ≠ 0 := by
    simp [memHist, hs, Nat.not_lt.mpr hc]
  exact histPut_withIssue e (modStr b d fun x => { x with log := x.log.add r }) p l unit ..

theorem chipCe_withIssue {d ch : Nat} (hc : 9 ≤ ch) (row slot : Nat) (ws : List (Nat × Nat)) :
    chipCe e (b.withIssue p l) d 4 ch row slot ws = (chipCe e b d 4 ch row slot ws).withIssue p l := by
  cases ws with
  | nil => rfl
  | cons w ws =>
    simp only [chipCe, apply_ite (Body.withIssue · p l)]
    rw [← memNote_withIssue e _ p l rfl hc]
    rfl

theorem chipUe_withIssue {d ch : Nat} (hc : 9 ≤ ch) (row slot : Nat) :
    chipUe e (b.withIssue p l) d 4 ch row slot = (chipUe e b d 4 ch row slot).withIssue p l := by
  have counted (f : Stratum → Stratum) : modStr (b.withIssue p l) d f = (modStr b d f).withIssue p l := rfl
  have record (b : Body) : memRec e (b.withIssue p l) (some slot) 0x2 4 ch row = memRec e b (some slot) 0x2 4 ch row := rfl
  simp only [chipUe, counted, record]
  rw [memNote_withIssue e _ p l rfl hc]
  rfl

/-- What a read of an instruction or descriptor cache finds depends on no panel, and changes none. -/
theorem cacheRead_withIssue {d ch : Nat} (hc : 9 ≤ ch) (row slot : Nat) (x : WordErr) (lo hi : Nat) :
    (cacheRead e (b.withIssue p l) d ch row slot x lo hi).1 = (cacheRead e b d ch row slot x lo hi).1.withIssue p l := by
  simp only [cacheRead, apply_ite (Body.withIssue · p l), chipCe_withIssue e b p l hc, chipUe_withIssue e _ p l hc]

end

/-! ### What errors found leave alone -/

section
variable (e : Env) (b : Body)

theorem chipCe_die (d src ch row slot : Nat) (ws : List (Nat × Nat)) : (chipCe e b d src ch row slot ws).die = b.die := by
  cases ws <;> simp [chipCe, memNote, histPut, apply_ite Body.die]

theorem cacheRead_die (d ch row slot : Nat) (x : WordErr) (lo hi : Nat) : (cacheRead e b d ch row slot x lo hi).1.die = b.die := by
  simp [cacheRead, apply_ite Body.die, chipUe, memNote, histPut, chipCe_die]

theorem chipCe_ctx (d src ch row slot : Nat) (ws : List (Nat × Nat)) : (chipCe e b d src ch row slot ws).ctx = b.ctx := by
  cases ws <;> simp [chipCe, memNote, histPut, apply_ite Body.ctx]

/-- A reported step is no fault. -/
theorem reportDirty_faultq (slot : Nat) : (reportDirty b slot).ctx.faultq = b.ctx.faultq := rfl

theorem cacheRead_faultq (d ch row slot : Nat) (x : WordErr) (lo hi : Nat) :
    (cacheRead e b d ch row slot x lo hi).1.ctx.faultq = b.ctx.faultq := by
  simp [cacheRead, apply_ite Body.ctx, apply_ite CtxTable.faultq, chipUe, reportDirty_faultq, memNote, histPut, chipCe_ctx]

/-- A read of a whole line delivers poison when some word of it is uncorrectable. -/
theorem cacheRead_line_poison (d ch row slot : Nat) (x : WordErr) : (cacheRead e b d ch row slot x 0 16).2 = (x.ue != 0) := by
  have zero (i : Nat) : (0 : BitVec 16).getLsbD i = false := BitVec.getLsbD_zero
  have word : (∃ i < 16, x.ue.getLsbD i = true ∧ i < 16) ↔ x.ue ≠ 0 := by
    refine ⟨fun ⟨i, _, h, _⟩ h0 => ?_, fun h => Classical.byContradiction fun clean => h (BitVec.eq_of_getLsbD_eq fun i hi => ?_)⟩
    · rw [h0, zero] at h
      exact Bool.false_ne_true h
    · rw [zero]
      exact Bool.eq_false_iff.mpr fun hb => clean ⟨i, hi, hb, hi⟩
  rw [Bool.eq_iff_iff, bne_iff_ne, ← word]
  simp only [cacheRead, List.any_eq_true, List.mem_range, Bool.and_eq_true, decide_eq_true_eq, Nat.zero_le, true_and]

end

/-! ### A slot that starts an engine of its panel and changes something apart from the panels -/

/-- What a slot leaves that starts an engine of its panel, by a change `f` of the panel, and makes a change `rest` that neither reads
nor changes what an issue changes, and queues no fault. -/
theorem issued_engine_rest {s : State} {t : ThreadRef} {k sl opc w : Nat} {plan : IC → Nat → Plan} {g : Ins → Body → Body}
    {f : Panel → Panel} {rest : Body → Body} (h : MayIssue s t k)
    (hp : plan (place s t k sl) (withOpc sl opc w) = .go (effect g))
    (hr : ∀ b p l, rest (b.withIssue p l) = (rest b).withIssue p l) (hq : ∀ b, (rest b).ctx.faultq = b.ctx.faultq)
    (hg : ∀ b, physOf b t.die.val t.lp.val = physOf s.body t.die.val t.lp.val →
      g (insAt s t k sl opc) b = modPanel (rest b) k f)
    (hf : ∀ P q, f { P with seq := q } = { f P with seq := q }) :
    Issued (runSlotRow sl opc plan t w s) s t k (goesOn (2 + slotBits sl / 8)) f rest := by
  have hseq (P : Panel) : (f P).seq = P.seq := (congrArg Panel.seq (hf P P.seq) :)
  have still (b : Body) : rest b = (rest b).withIssue b.panel b.kpr.pwr.lastIssue := hr b b.panel b.kpr.pwr.lastIssue
  refine issued_of h hp (Nat.zero_le _) nofun ((congrArg _ (ite_self _)).trans (seq_flow s t k _)) f rest ?run
    (fun b => (congrArg Body.panel (still b) :)) hq hr _ _ ?panel
  case run =>
    intro b hb _
    refine ⟨fset b.panel k (f (panelAt b k)), ?_, fget_fset_same .., fun j hj => fget_fset_ne _ _ hj⟩
    calc g (insAt s t k sl opc) b
      _ = modPanel (rest b) k f := hg b hb
      _ = modPanel ((rest b).withIssue b.panel b.kpr.pwr.lastIssue) k f := congrArg (modPanel · k f) (still b)
      _ = rest { b with panel := fset b.panel k (f (panelAt b k)) } := (hr b _ b.kpr.pwr.lastIssue).symm
  case panel =>
    rintro P rfl
    have untaken : (panelAt s.body k).takeTags 0 = panelAt s.body k := rfl
    simp only [panelAfter, effect, untaken, Panel.modThread, Panel.setThread, Panel.thread, hseq, goesOn, threadAt, Option.map,
      fget_fset_same, Nat.add_assoc]
    exact ⟨rfl, fun th hth => fget_fset_ne _ _ hth, (hf _ _).symm⟩

/-! ### CHAIN, CHAINH and FILL -/

section
variable {s : State} {t : ThreadRef} {k : Nat}

/-- The read of a chain descriptor at issue is one of a whole line of the die's descriptor cache (R198). -/
theorem descRead_place (opc w : Nat) (b : Body) :
    let x := fget (fget (ctxAt s.body (threadAt s t k).slot).chainErr t.die.val) (fld w 57 48)
    descRead (place s t k 1) (withOpc 1 opc w) b =
      ((cacheRead s.env b t.die.val 31 (fld w 57 48) (threadAt s t k).slot x 0 16).1, x.ue != 0) := by
  simp only [descRead, fld_withOpc (sl := 1) (hi := 57) (by decide)]
  exact Prod.ext rfl (cacheRead_line_poison ..)

/-- What a slot leaves that starts an engine of its panel, by a change `f` of the panel, after the read of its chain descriptor, which
delivers `b'` and whether it came poisoned. -/
theorem issued_with_descriptor {opc w : Nat} {plan : IC → Nat → Plan} {g : Ins → Body → Body} {f : Panel → Panel}
    (h : MayIssue s t k) (hp : plan (place s t k 1) (withOpc 1 opc w) = .go (effect g)) :
    let x := fget (fget (ctxAt s.body (threadAt s t k).slot).chainErr t.die.val) (fld w 57 48)
    (∀ b b', insKey b' (insAt s t k 1 opc) = k → descRead (place s t k 1) (withOpc 1 opc w) b = (b', x.ue != 0) →
      g (insAt s t k 1 opc) b = modPanel b' k f) →
    (∀ P q, f { P with seq := q } = { f P with seq := q }) →
    Issued (runSlotRow 1 opc plan t w s) s t k (goesOn 10) f fun b =>
      (cacheRead s.env b t.die.val 31 (fld w 57 48) (threadAt s t k).slot x 0 16).1 := by
  intro x hg hf
  refine issued_engine_rest h hp (fun b p l => cacheRead_withIssue _ b p l (by decide) ..) (fun b => cacheRead_faultq ..)
    (fun b hb => hg b _ (insKey_eq h _ ?_) (descRead_place opc w b)) hf
  simpa only [physOf, cacheRead_die] using hb

/-- The descriptor that a slot names in its word. -/
theorem descAt_place (opc w : Nat) : descAt (place s t k 1) (withOpc 1 opc w) =
    descOf (fget (fget (ctxAt s.body (threadAt s t k).slot).chain t.die.val) (fld w 57 48)) := by
  simp only [descAt, fld_withOpc (sl := 1) (hi := 57) (by decide)]
  rfl

end

end Sys2Proof.Machine

open Sys2Proof Sys2Proof.Machine

/-- Settles O20: each slot's plan is carried out and Skim is free, so its whole effect is the read of its descriptor and the start on its
own panel. -/
theorem skimSlotsStart : Obligations.SkimSlotsStart := by
  intro s t k w h
  -- `Carried …` stays unnamed, as for Trowel's slots.
  refine fun free => ⟨fun _ => ?chain, fun _ => ?chainh, fun _ => ?fill⟩
  case chain | chainh | fill =>
    refine issued_with_descriptor h (Carried.plan_eq ‹_› rfl) (fun b b' key read => ?_) fun _ _ => rfl
    -- Skim is free; below its opcode the slot's word is the word given, and the fields of its place are the state's.
    rw [if_neg (by exact Nat.not_lt.mpr free), read]
    simp (disch := decide) only [key, descAt_place, fld_withOpc]
    rfl
end

section
/-! PROOF. What EVENT, TAG_RELEASE, the route sets, PROG_LOAD and the transfers do at their start (R177, R178, R239, R241, R244, R271, R272,
R274, R275): for each the equation of its act where its conditions hold, and how an act gives what its row leaves. -/

namespace Sys2Proof.Machine

/-! ### From an act to what its row leaves -/

section
variable {s : State} {r : RingRef} {w : BitVec 512} {opc : Nat} {k : CmdSpec} {f : Body → Body}

/-- A command that starts, and whose act completes it, ends so. -/
theorem Starts.ends {st : Nat} {res : BitVec 32} (h : Starts s r w opc k)
    (act : k.act (cmdOf s r w opc) (begun s r w opc) = finish (f (begun s r w opc)) (cmdOf s r w opc) st res) :
    Ends (runCmd (startRow opc k r w) s) s r w opc st res f := by
  have run := starts_run h
  rw [act] at run
  exact run

/-- A command that starts, and whose act does not complete it, stays in flight. -/
theorem Starts.stays (h : Starts s r w opc k) (act : k.act (cmdOf s r w opc) (begun s r w opc) = f (begun s r w opc)) :
    Stays (runCmd (startRow opc k r w) s) s r w opc f := by
  have run := starts_run h
  rw [act] at run
  exact run

end

variable {c : Cmd} {b : Body}

/-! ### EVENT, tags, route sets, PROG_LOAD -/

theorem doEvent_set (op : c.at 16 1 = 0) :
    doEvent c b = finishOk (latchWev c.slot c.e.cyc
      (modCtx (if eventWakes b c.slot (BitVec.ofNat 64 (c.at 24 8)) then leaveHaze c.e b else b) c.slot fun x =>
        x.evChange ⟨c.e.cyc, none, BitVec.ofNat 64 (c.at 24 8), 0⟩)) c := by
  simp only [doEvent, op, true_and, if_true]

theorem doEvent_clear (op : c.at 16 1 = 1) :
    doEvent c b = finishOk (modCtx b c.slot fun x => x.evChange ⟨c.e.cyc, none, 0, BitVec.ofNat 64 (c.at 24 8)⟩) c := by
  simp only [doEvent, op, Nat.one_ne_zero, false_and, if_false, if_true]

theorem doTagRelease_frees (tag : c.at 16 1 ≤ 63) (own : tagForeign b c.slot (c.at 16 1) = false) :
    doTagRelease c b = finishOk (dropTags (freeRet b c.slot fun _ y => y.st != .free && y.tag == c.at 16 1) c.slot) c := by
  simp only [doTagRelease, if_neg (Nat.not_lt.mpr tag), own, Bool.false_eq_true, if_false]

theorem doRouteLoad_loads {d : List (BitVec 8)} (job : (ctxAt b c.slot).id.job ≠ 0) (set : c.at 16 1 ≤ 3) (pos : 1 ≤ c.at 20 4)
    (cap : c.at 20 4 ≤ 16384) (va : c.at 24 8 + 4 * c.at 20 4 ≤ 2 ^ 48) (fitted : setFitted b (c.at 16 1) = true)
    (idle : c.at 16 1 ≠ (ctxAt b c.slot).far.active)
    (room : c.at 20 4 ≤ routeFree (findRange c.e c.slot b (c.at 24 8) (4 * c.at 20 4)) + fget (ctxAt b c.slot).far.loaded (c.at 16 1))
    (bytes : ctxBytes (findRange c.e c.slot b (c.at 24 8) (4 * c.at 20 4)) c.slot (c.at 24 8) (4 * c.at 20 4) = some d) :
    doRouteLoad c b = finishOk (modCtx (findRange c.e c.slot b (c.at 24 8) (4 * c.at 20 4)) c.slot fun x => { x with far := { x.far with
      sets := fset x.far.sets (c.at 16 1) (fsetMany [] 0 ((List.range (c.at 20 4)).map fun i => BitVec.ofNat 32 (bytesAt d (4 * i) 4)))
      loaded := fset x.far.loaded (c.at 16 1) (c.at 20 4) } }) c := by
  have valid : ¬ ((ctxAt b c.slot).id.job = 0 ∨ 3 < c.at 16 1 ∨ c.at 20 4 = 0 ∨ 16384 < c.at 20 4 ∨
      (!vaOk (c.at 24 8) (4 * c.at 20 4)) = true) := by
    simp only [vaOk, va, decide_true, Bool.not_true, Bool.false_eq_true, or_false]
    omega
  simp only [doRouteLoad, if_neg valid, fitted, Bool.not_true, Bool.false_eq_true, if_false, if_neg idle, bytes, if_neg (Nat.not_lt.mpr room)]

theorem doRedraw_pends (job : (ctxAt b c.slot).id.job ≠ 0) (set : c.at 16 1 ≤ 3) (idle : (ctxAt b c.slot).far.pend = none)
    (fitted : setFitted b (c.at 16 1) = true) (loaded : fget (ctxAt b c.slot).far.loaded (c.at 16 1) ≠ 0) :
    doRedraw c b = modCtx b c.slot fun x => { x with far := { x.far with pend := some (c.at 16 1, c.at 17 1, c.seq) } } := by
  have valid : ¬ ((ctxAt b c.slot).id.job = 0 ∨ 3 < c.at 16 1 ∨ (ctxAt b c.slot).far.pend.isSome = true) := by
    simp only [idle, Option.isSome_none, Bool.false_eq_true, or_false]
    omega
  simp only [doRedraw, if_neg valid, fitted, Bool.not_true, Bool.false_eq_true, if_false, if_neg loaded]

/-- A PROG_LOAD that reads its requirement block does what the block allows. -/
theorem doProgLoad_reads {d : List (BitVec 8)} (line : c.at 24 8 % 64 = 0) (va : c.at 24 8 < 2 ^ 48)
    (bytes : ctxBytes (findRange c.e c.slot b (c.at 24 8) 64) c.slot (c.at 24 8) 64 = some d) :
    doProgLoad c b = if imageOk d then
        finishOk (modCtx (findRange c.e c.slot b (c.at 24 8) 64) c.slot fun x => { x with set :=
          { x.set with chainBase := (c.at 24 8 + bytesAt d 24 8) % 2 ^ 48, chainCnt := bytesAt d 20 2 } }) c
      else finish (findRange c.e c.slot b (c.at 24 8) 64) c 0x0D 0 := by
  have valid : ¬ (c.at 24 8 % 64 ≠ 0 ∨ 2 ^ 48 ≤ c.at 24 8) := by omega
  simp only [doProgLoad, if_neg valid, bytes]

/-! ### COPY -/

theorem doCopy_starts {g h : List Seg} (pos : c.at 32 8 ≠ 0) (cap : c.at 32 8 ≤ 2 ^ 40)
    (apart : c.at 24 6 + c.at 32 8 ≤ c.at 16 6 ∨ c.at 16 6 + c.at 32 8 ≤ c.at 24 6)
    (src : xlate b c.slot (c.at 16 6) (c.at 32 8) false = .ok g) (dst : xlate b c.slot (c.at 24 6) (c.at 32 8) true = .ok h) :
    doCopy c b = (newJob c b 0 (copyItems b c.slot (c.at 16 6) (c.at 24 6) (c.at 32 8) none) none).2 := by
  have valid : ¬ (c.at 32 8 = 0 ∨ 2 ^ 40 < c.at 32 8 ∨ c.at 16 6 < c.at 24 6 + c.at 32 8 ∧ c.at 24 6 < c.at 16 6 + c.at 32 8) := by
    omega
  simp only [doCopy, if_neg valid, src, dst]

/-! ### GATHER -/

/-- A gather's retention slot holds `y` from now on, and its context the gather's tag (R177, R178). -/
def putRet (b : Body) (slot : Nat) (m : MoveCmd) (y : RetSlot) : Body :=
  modCtx b slot fun x => { x with ret := { x.ret with slot := fset x.ret.slot m.rslot y, tags := x.ret.tags ||| evMask m.tag } }

theorem retReserve_room {slot o : Nat} {m : MoveCmd} (pool : (ctxAt b slot).ret.size ≠ 0) (room : retRoom (ctxAt b slot) m.granules = some o) :
    retReserve b slot m = (putRet b slot m { st := .pending, tag := m.tag, gran := m.granules, off := o, filler := (freshUid b).1 },
      some (((ctxAt b slot).ret.base + o) * 2 ^ 21)) := by
  simp only [retReserve, if_neg pool, room]
  rfl

theorem retReserve_full {slot : Nat} {m : MoveCmd} (full : (ctxAt b slot).ret.size = 0 ∨ retRoom (ctxAt b slot) m.granules = none) :
    retReserve b slot m = (putRet b slot m { st := .dropped, tag := m.tag, gran := 0, off := 0, filler := 0 }, none) := by
  have dropped : (if (ctxAt b slot).ret.size = 0 then none else retRoom (ctxAt b slot) m.granules) = none := by
    rcases full with size | room
    · exact if_pos size
    · rw [room, ite_self]
  simp only [retReserve, dropped]
  rfl

/-- A gather that is not refused belongs to a job. -/
theorem gatherRefusal_job {slot : Nat} {m : MoveCmd} {ranked : Bool} (ok : gatherRefusal b slot m ranked = 0) :
    (ctxAt b slot).id.job ≠ 0 := by
  intro job
  simp [gatherRefusal, job] at ok

/-- The fields by which GATHER chooses its act are valid; only REUSE and FREE name a retention slot before they move anything. -/
theorem gather_valid (job : (ctxAt b c.slot).id.job ≠ 0) (cls : (moveOf c).cls ≤ 3) (slot : 2 ≤ (moveOf c).cls → (moveOf c).rslot ≤ 63) :
    ¬ ((ctxAt b c.slot).id.job = 0 ∨ 3 < (moveOf c).cls ∨ 2 ≤ (moveOf c).cls ∧ 63 < (moveOf c).rslot) := by
  omega

/-- A gather of class NONE or RETAIN always moves its tensor. -/
theorem doGather_moves (job : (ctxAt b c.slot).id.job ≠ 0) (cls : (moveOf c).cls < 2) : doGather c b = gatherMove c b (moveOf c) := by
  have free : (moveOf c).cls ≠ 3 := by omega
  have reuse : (moveOf c).cls ≠ 2 := by omega
  simp only [doGather, if_neg (gather_valid job (by omega) (by omega)), if_neg free, if_neg reuse]

theorem doGather_free (job : (ctxAt b c.slot).id.job ≠ 0) (slot : (moveOf c).rslot ≤ 63) (cls : (moveOf c).cls = 3) :
    doGather c b = finishOk (dropTags (freeRet b c.slot fun k _ => k == (moveOf c).rslot) c.slot) c := by
  simp only [doGather, if_neg (gather_valid job (by omega) fun _ => slot), if_pos cls]

/-- What a gather of class REUSE does when its retention slot is in the given state (R177). -/
def reuseAct (c : Cmd) (b : Body) : RState → Body
  | .free => finish b c 0x07 0
  | .pending => { b with host := { b.host with reuse := b.host.reuse ++ [⟨c.seq, c.slot, ringNum c.r, c.w⟩] } }
  | .retained => finishOk b c
  | .dropped => gatherMove c b (moveOf c)

theorem doGather_reuse {st : RState} (job : (ctxAt b c.slot).id.job ≠ 0) (slot : (moveOf c).rslot ≤ 63) (cls : (moveOf c).cls = 2)
    (hst : (fget (ctxAt b c.slot).ret.slot (moveOf c).rslot).st = st) : doGather c b = reuseAct c b st := by
  have keeps : (moveOf c).cls ≠ 3 := by omega
  cases st <;> simp only [doGather, if_neg (gather_valid job (by omega) fun _ => slot), if_neg keeps, if_pos cls, hst, reuseAct]

/-! ### Transfers among participants

`us` are the participants in rank order and `rank` is this module's own rank among them. -/

section
variable {us : List Nat} {rank : Nat}

section
variable {m : MoveCmd} (participants : members (ctxAt b c.slot) m.set m.first m.n = some us) (own : ownRank b us = some rank)
  (ok : gatherRefusal b c.slot m true = 0)
include participants own ok

/-- A gather of another class than RETAIN moves its tensor to its destination only. -/
theorem gatherMove_plain (cls : m.cls ≠ 1) : gatherMove c b m = gatherGo c b m us rank none none := by
  simp only [gatherMove, participants, Option.bind_some, own, Option.isSome_some, ok, ne_eq, not_true_eq_false, if_false, if_neg cls]

/-- A RETAIN gather reserves its slot before it moves its tensor. -/
theorem gatherMove_reserves {b' : Body} {pool : Option Nat} (cls : m.cls = 1) (reserve : retReserve b c.slot m = (b', pool)) :
    gatherMove c b m = gatherGo c b' m us rank pool (if pool.isSome then some m.rslot else none) := by
  simp only [gatherMove, participants, Option.bind_some, own, Option.isSome_some, ok, ne_eq, not_true_eq_false, if_false, if_pos cls,
    reserve]

end

theorem doScatter_starts (participants : members (ctxAt b c.slot) (moveOf c).set (moveOf c).first (moveOf c).n = some us)
    (own : ownRank b us = some rank) (ok : scatterRefusal b c.slot (moveOf c) true = 0) :
    doScatter c b = scatterGo c b (moveOf c) us rank := by
  simp only [doScatter, participants, Option.bind_some, own, Option.isSome_some, ok, ne_eq, not_true_eq_false, if_false]

/-- The sub-form of a REDUCE is its kind. -/
theorem cumParamsOf_kind (s : State) (r : RingRef) (w : BitVec 512) (k opc : Nat) :
    (cumParamsOf (cmdOf s r (putBits w 128 1 k) opc)).kind = k % 2 := bit16_put w k opc

theorem doReduce_starts (participants : reduceUnits c b = some us) (own : ownRank b us = some rank)
    (ok : reduceRefusal b (reduceOf c b rank) true = 0) : doReduce c b = reduceGo c.e b (reduceOf c b rank) us := by
  simp only [doReduce, participants, Option.bind_some, own, Option.isSome_some, Option.getD_some, ok, ne_eq, not_true_eq_false, if_false]

end

end Sys2Proof.Machine

open Sys2Proof Sys2Proof.Machine

/-- Settles O29: a command that starts leaves its act (`Starts.ends`, `Starts.stays`), which where its conditions hold completes it or begins
its transfer. -/
theorem eventTagRouteAndTransferCommands : Obligations.EventTagRouteAndTransferCommands := by
  refine ⟨fun s r w => ⟨?eventSet, ?eventClear, ?tagRelease, ?routeLoad, ?redraw, ?progLoad⟩,
    fun s r w => ⟨?copy, ?gather, ?gatherRetain, ?gatherReuse, ?retainFree, ?scatter, ?reduce⟩⟩
  case eventSet => exact fun h => h.ends (doEvent_set (at16_put w 0 0x02))
  case eventClear => exact fun h => h.ends (doEvent_clear (at16_put w 1 0x02))
  case tagRelease => exact fun h tag own => h.ends (doTagRelease_frees tag own)
  case routeLoad =>
    exact fun h job set pos cap va fitted idle room d bytes => h.ends (doRouteLoad_loads job set pos cap va fitted idle room bytes)
  case redraw => exact fun h job set idle fitted loaded => h.stays (doRedraw_pends job set idle fitted loaded)
  case progLoad =>
    intro c b a h line va read d bytes
    have act := doProgLoad_reads (c := c) line va bytes
    exact ⟨fun good => h.ends (act.trans (if_pos good)), fun bad => h.ends (act.trans (if_neg (by simp [bad])))⟩
  case copy => exact fun h pos cap apart g d src dst => h.stays (doCopy_starts pos cap apart src dst)
  case gather =>
    rintro us rank v rfl h cls c b m participants own ok
    have plain : m.cls ≠ 1 := fun retain => absurd (cls.symm.trans retain) (by decide)
    have moves : doGather c b = gatherMove c b m :=
      doGather_moves (gatherRefusal_job ok) (Nat.lt_of_le_of_lt (Nat.le_of_eq cls) (by decide))
    exact h.stays (moves.trans (gatherMove_plain participants own ok plain))
  case gatherRetain =>
    rintro us rank v rfl h cls c b m x participants own ok put
    have moves : doGather c b = gatherMove c b m :=
      doGather_moves (gatherRefusal_job ok) (Nat.lt_of_le_of_lt (Nat.le_of_eq cls) (by decide))
    exact ⟨fun o pool room => h.stays (moves.trans (gatherMove_reserves participants own ok cls (retReserve_room pool room))),
      fun full => h.stays (moves.trans (gatherMove_reserves participants own ok cls (retReserve_full full)))⟩
  case gatherReuse =>
    rintro v rfl h cls c b m x y job slot
    have plain : m.cls ≠ 1 := fun retain => absurd (cls.symm.trans retain) (by decide)
    exact ⟨fun st => h.ends (doGather_reuse job slot cls st), fun st => h.ends (doGather_reuse job slot cls st),
      fun st => h.stays (doGather_reuse job slot cls st),
      fun us rank st participants own ok =>
        h.stays ((doGather_reuse job slot cls st).trans (gatherMove_plain participants own ok plain))⟩
  case retainFree =>
    rintro v rfl h cls c k job slot
    exact h.ends (doGather_free job slot cls)
  case scatter => exact fun us rank h participants own ok => h.stays (doScatter_starts participants own ok)
  case reduce =>
    rintro us rank k v hk rfl h c b q participants own ok
    have kind : q.p.kind = k := (cumParamsOf_kind s r w k 0x09).trans (Nat.mod_eq_of_lt (by omega))
    have go := doReduce_starts participants own ok
    exact ⟨kind, fun sub => by subst sub; exact h.stays go, fun sub => by subst sub; exact h.stays go⟩
end

section
/-! PROOF. What SCAFFOLD does at its start (R277, R338, R357 to R359, R371, R372): the word each row of it spells, the equation of each
operation where its conditions hold, and what each activity begins with. -/

namespace Sys2Proof.Machine

/-! ### The words of SCAFFOLD's rows -/

/-- Setting a field to what it holds changes nothing. -/
theorem putBits_self {w : BitVec 512} {lo n v : Nat} (h : w.toNat / 2 ^ lo % 2 ^ n = v % 2 ^ n) : putBits w lo n v = w := by
  have high : w.toNat / 2 ^ (lo + n) * 2 ^ (lo + n) = w.toNat / 2 ^ lo / 2 ^ n * 2 ^ n * 2 ^ lo := by
    rw [Nat.pow_add, Nat.div_div_eq_div_mul, Nat.mul_assoc, Nat.mul_comm (2 ^ n)]
  have parts : w.toNat % 2 ^ lo + v % 2 ^ n * 2 ^ lo + w.toNat / 2 ^ (lo + n) * 2 ^ (lo + n) = w.toNat := by
    rw [high, ← h, Nat.add_assoc, ← Nat.add_mul, Nat.mod_add_div', Nat.mod_add_div']
  rw [putBits, parts, BitVec.ofNat_toNat, BitVec.setWidth_eq]

/-- The word that spells SCAFFOLD's operation `op` for activity `act`. -/
def scafWord (w : BitVec 512) (op act : Nat) : BitVec 512 := putBits (putBits w 128 8 op) 136 8 act

theorem scafWord_op (w : BitVec 512) (op act : Nat) : putBits (scafWord w op act) 128 8 op = scafWord w op act := by
  refine putBits_self ?_
  simp only [scafWord, putBits, BitVec.toNat_ofNat]
  have := w.isLt
  omega

theorem scafWord_act (w : BitVec 512) (op act : Nat) : putBits (scafWord w op act) 136 8 act = scafWord w op act := by
  refine putBits_self ?_
  simp only [scafWord, putBits, BitVec.toNat_ofNat]
  have := w.isLt
  omega

/-- The rows of the activities that a command runs, each with its activity (Table 13-9). -/
def runRows (v : BitVec 512) : List (Instr × Nat) :=
  [(.builtInTest .admin v, 1), (.scrub .admin v, 2), (.undercoatCopy .admin v, 4), (.postPackageRepair .admin v, 5), (.retrain .admin v, 6),
   (.weathervaneMeasurement .admin v, 7), (.swatchRun .admin v, 8), (.firmwareActivation .admin v, 9)]

/-- The row of an activity spells the command itself. -/
theorem exec_runRow {j : Instr} {v : BitVec 512} {act : Nat} (s : State) (row : (j, act) ∈ runRows v) :
    exec j s = runCmd (startRow 0x26 scafSpec .admin (putBits (putBits v 128 8 0) 136 8 act)) s := by
  simp only [runRows, List.mem_cons, Prod.mk.injEq, List.not_mem_nil, or_false] at row
  rcases row with
    ⟨rfl, rfl⟩ | ⟨rfl, rfl⟩ | ⟨rfl, rfl⟩ | ⟨rfl, rfl⟩ | ⟨rfl, rfl⟩ | ⟨rfl, rfl⟩ | ⟨rfl, rfl⟩ | ⟨rfl, rfl⟩ <;> rfl

theorem exec_runRow_scafWord {j : Instr} {act : Nat} (s : State) (w : BitVec 512) (row : (j, act) ∈ runRows (scafWord w 0 act)) :
    exec j s = runCmd (startRow 0x26 scafSpec .admin (scafWord w 0 act)) s := by
  rw [exec_runRow s row, scafWord_op, scafWord_act]

theorem exec_scaffoldAcquire (s : State) (w : BitVec 512) (act : Nat) :
    exec (.scaffoldAcquire .admin (scafWord w 1 act)) s = runCmd (startRow 0x26 scafSpec .admin (scafWord w 1 act)) s :=
  congrArg (fun v => runCmd (startRow 0x26 scafSpec .admin v) s) (scafWord_op w 1 act)

theorem exec_scaffoldRelease (s : State) (w : BitVec 512) (act : Nat) :
    exec (.scaffoldRelease .admin (scafWord w 2 act)) s = runCmd (startRow 0x26 scafSpec .admin (scafWord w 2 act)) s :=
  congrArg (fun v => runCmd (startRow 0x26 scafSpec .admin v) s) (scafWord_op w 2 act)

/-! ### The operations -/

section
variable {c : Cmd} {b : Body}

theorem scafOff_iff : scafOff b = true ↔ b.kpr.pwr.st = .dusk ∨ b.kpr.pwr.st = .night := by
  simp only [scafOff, Bool.or_eq_true, beq_iff_eq]

theorem scafOff_eq_false (dusk : b.kpr.pwr.st ≠ .dusk) (night : b.kpr.pwr.st ≠ .night) : scafOff b = false := by
  rw [← Bool.not_eq_true, scafOff_iff]
  exact not_or.mpr ⟨dusk, night⟩

theorem doScaffold_off (off : scafOff b = true) : doScaffold c b = finish b c 0x16 0 := if_pos off

theorem doScaffold_run (on : scafOff b = false) (op : c.at 16 1 = 0) : doScaffold c b = doRun c b := by
  simp only [doScaffold, on, op, Bool.false_eq_true, if_false]

theorem doScaffold_acquire (on : scafOff b = false) (op : c.at 16 1 = 1) : doScaffold c b = doAcquire c b := by
  simp only [doScaffold, on, op, Bool.false_eq_true, if_false]

theorem doScaffold_release (on : scafOff b = false) (op : c.at 16 1 = 2) : doScaffold c b = doRelease c b := by
  simp only [doScaffold, on, op, Bool.false_eq_true, if_false]

section
variable (act : c.at 17 1 = 3) (group : actAccepts 3 (c.at 18 1) (c.at 19 1) = true) (arg : c.at 24 8 = 0)
include act group arg

theorem doAcquire_free (free : blocker b (grpKey (c.at 18 1) (c.at 19 1)) 3 = none) :
    doAcquire c b = finishOk (takeGroup b ⟨grpKey (c.at 18 1) (c.at 19 1), 3, true, none, 0⟩) c := by
  simp only [doAcquire, act, group, arg, ne_eq, not_true_eq_false, Bool.not_true, Bool.false_eq_true, or_self, if_false, scafBusy, free,
    Option.map_none]

theorem doAcquire_busy {h : Holder} (busy : blocker b (grpKey (c.at 18 1) (c.at 19 1)) 3 = some h) :
    doAcquire c b = finish b c 0x16 (busyResult h) := by
  simp only [doAcquire, act, group, arg, ne_eq, not_true_eq_false, Bool.not_true, Bool.false_eq_true, or_self, if_false, scafBusy, busy,
    Option.map_some]

theorem doRelease_held (held : holds b (grpKey (c.at 18 1) (c.at 19 1)) 3 true = true) :
    doRelease c b = finishOk (releaseGroup b (grpKey (c.at 18 1) (c.at 19 1)) 3 true) c := by
  simp only [doRelease, act, group, arg, held, ne_eq, not_true_eq_false, Bool.not_true, Bool.false_eq_true, or_self, if_false]

end

/-- The body once the group of a command that runs activity `act` is taken for it. -/
def runHeld (c : Cmd) (act : Nat) (b : Body) : Body :=
  takeGroup b ⟨grpKey (c.at 18 1) (c.at 19 1), act, true, some c.seq, BitVec.ofNat 64 (c.at 24 8)⟩

/-- A RUN that no check refuses takes its group and begins. -/
theorem doRun_begins {act : Nat} (field : c.at 17 1 = act) (run : act ≠ 3) (ok : runBad b act (c.at 18 1) (c.at 19 1) (c.at 24 8) = false)
    (unused : runInUse b act (c.at 18 1) (c.at 19 1) = false) (free : blocker b (grpKey (c.at 18 1) (c.at 19 1)) act = none) :
    doRun c b = runBegin c (runHeld c act b) act (c.at 18 1) (c.at 19 1) (c.at 24 8) := by
  simp only [doRun, field, run, ok, unused, scafBusy, free, Bool.false_eq_true, or_self, if_false, Option.map_none]
  rfl

end

/-! ### What an activity begins with -/

section
variable {c : Cmd} {b : Body} {act t i arg : Nat}

/-- The start of a built-in test, a scrub, a copy, a repair or a measurement is its group's alone. -/
theorem runBegin_holds (plain : act ∈ [1, 2, 4, 5, 7]) : runBegin c b act t i arg = b := by
  simp only [List.mem_cons, List.not_mem_nil, or_false] at plain
  rcases plain with rfl | rfl | rfl | rfl | rfl <;> rfl

theorem runBegin_retrain_port (port : t = 7) : runBegin c b 6 t i arg = portDown b i 0x0 := by
  simp only [runBegin, if_pos port]

theorem runBegin_retrain_link (link : t = 6) : runBegin c b 6 t i arg = d2dUp b i false := by
  have notPort : t ≠ 7 := by omega
  simp only [runBegin, if_neg notPort, if_pos link]

theorem runBegin_retrain_other (port : t ≠ 7) (link : t ≠ 6) : runBegin c b 6 t i arg = b := by
  simp only [runBegin, if_neg port, if_neg link]

theorem runBegin_firmware_arms (ok : fwRefusal b = 0) : runBegin c b 9 t i arg = fwArm c.e b arg (some c.seq) := by
  simp only [runBegin, if_pos ok]

theorem runBegin_firmware_refused (bad : fwRefusal b ≠ 0) :
    runBegin c b 9 t i arg =
      finish (releaseWhere b fun h => h.seq == some c.seq && h.act == 9) c 0x00 (BitVec.ofNat 32 (fwRefusal b)) := by
  simp only [runBegin, if_neg bad]

end

end Sys2Proof.Machine

open Sys2Proof Sys2Proof.Machine

/-- Settles O32: each row spells the command itself, whose operation is its act (`doScaffold`); a RUN that is not refused takes its group and
begins its activity. -/
theorem scaffoldCommands : Obligations.ScaffoldCommands := by
  intro s w op act hop hact only v c b t i arg g held runs h
  have op_eq : c.at 16 1 = op := (at16_put2 w op act 0x26).trans (Nat.mod_eq_of_lt (by omega))
  have act_eq : c.at 17 1 = act := (at17_put2 w op act 0x26).trans (Nat.mod_eq_of_lt hact)
  refine ⟨fun off => ?off, fun dusk night => ?on⟩
  case off =>
    have refuses : doScaffold c b = finish b c 0x16 0 := doScaffold_off (scafOff_iff.mpr off)
    have ends := h.ends (f := id) refuses
    refine ⟨?_, ?_, ?_⟩
    · rintro rfl
      exact (exec_scaffoldAcquire s w act) ▸ ends
    · rintro rfl
      exact (exec_scaffoldRelease s w act) ▸ ends
    · rintro rfl j row
      exact (exec_runRow_scafWord s w row) ▸ ends
  case on =>
    have on := scafOff_eq_false dusk night
    refine ⟨?acquire, ?release, ?run⟩
    case acquire =>
      rintro rfl group noArg
      have act3 : c.at 17 1 = 3 := act_eq.trans (only Nat.one_ne_zero)
      have acquires := doScaffold_acquire on op_eq
      exact ⟨fun free => (exec_scaffoldAcquire s w act) ▸ h.ends (acquires.trans (doAcquire_free act3 group noArg free)),
        fun x busy => (exec_scaffoldAcquire s w act) ▸ h.ends (acquires.trans (doAcquire_busy act3 group noArg busy))⟩
    case release =>
      rintro rfl group noArg host
      have act3 : c.at 17 1 = 3 := act_eq.trans (only (by decide))
      exact (exec_scaffoldRelease s w act) ▸ h.ends ((doScaffold_release on op_eq).trans (doRelease_held act3 group noArg host))
    case run =>
      rintro rfl run ok unused free
      have begins : doScaffold c b = runBegin c (held b) act t i arg :=
        (doScaffold_run on op_eq).trans (doRun_begins act_eq run ok unused free)
      have stays {j : Instr} {f : Body → Body} (row : (j, act) ∈ runRows v) (eq : runBegin c (held b) act t i arg = f b) :
          Stays (exec j s) s .admin v 0x26 f :=
        (exec_runRow_scafWord s w row) ▸ h.stays (begins.trans eq)
      refine ⟨?test, ?scrub, ?copy, ?repair, ?retrain, ?port, ?link, ?measure, ?swatch, ?arms, ?refused⟩
      case test | scrub | copy | repair | measure =>
        rintro rfl
        exact stays (by simp [runRows]) (runBegin_holds (by decide))
      case retrain =>
        rintro rfl port link
        exact stays (by simp [runRows]) (runBegin_retrain_other port link)
      case port =>
        rintro rfl port
        exact stays (by simp [runRows]) (runBegin_retrain_port port)
      case link =>
        rintro rfl link
        exact stays (by simp [runRows]) (runBegin_retrain_link link)
      case swatch => rintro rfl; exact stays (by simp [runRows]) rfl
      case arms =>
        rintro rfl good
        exact stays (by simp [runRows]) (runBegin_firmware_arms good)
      case refused =>
        rintro rfl bad
        have row : (Instr.firmwareActivation .admin v, 9) ∈ runRows v := by simp [runRows]
        exact (exec_runRow_scafWord s w row) ▸ h.ends (begins.trans (runBegin_firmware_refused bad))
end

section
/-! PROOF. What Sander, the controllers' retrains and the losses of channels and packages do (R201, R202, R207, R208, R210): for each the
equation of its effect where its conditions hold. -/

namespace Sys2Proof.Machine

/-! ### Commands that raise no cause -/

/-- A command that raises no cause answers what its effect makes of the body, with the error summaries it sets. -/
theorem runCmd_quiet {f : Env → Body → Body} {s : State} (quiet : (f s.env (unqueued s.body)).ctx.faultq = []) :
    runCmd f s = .next { s with body := errSync s.body (requeued s.body.ctx.faultq (f s.env (unqueued s.body))) } := by
  rw [runCmd, runBody, boundary_quiet f _ _ quiet]

/-- Such a command answers the body `b` that its effect leaves, the causes that wait set back. -/
theorem answers_quiet {f : Env → Body → Body} {s : State} {c b : Body} (eq : f s.env (unqueued s.body) = c) (quiet : c.ctx.faultq = [])
    (same : requeued s.body.ctx.faultq c = b) : Answers (runCmd f s) s b := by
  subst eq
  exact answers_runCmd quiet same

/-- A command without effect leaves the body. -/
theorem runCmd_idle {f : Env → Body → Body} {s : State} (idle : f s.env (unqueued s.body) = unqueued s.body) :
    Answers (runCmd f s) s s.body := answers_quiet idle rfl rfl

/-- Commands of one effect answer the same. -/
theorem runCmd_congr {f g : Env → Body → Body} {s : State} (same : f s.env (unqueued s.body) = g s.env (unqueued s.body)) :
    runCmd f s = runCmd g s := by
  simp only [runCmd, runBody, boundary_eq, same]

section
variable {e : Env} {b : Body} {s ch : Nat}

/-! ### The module's own scaffolds -/

theorem ownGroup_free {t i act : Nat} (free : blocker b (grpKey t i) act = none) :
    ownGroup b t i act = some (takeGroup b ⟨grpKey t i, act, false, none, 0⟩) := by
  simp only [ownGroup, tryGroup, free, Option.isSome_none, Bool.false_eq_true, if_false]

theorem ownGroup_busy {t i act : Nat} (busy : (blocker b (grpKey t i) act).isSome = true) : ownGroup b t i act = none := by
  simp only [ownGroup, tryGroup, busy, if_true]

theorem holds_releaseGroup (b : Body) (g act : Nat) (host : Bool) : holds (releaseGroup b g act host) g act host = false := by
  simp only [holds, releaseGroup, releaseWhere, List.any_eq_false, List.mem_filter]
  rintro h ⟨-, other⟩ same
  rw [same] at other
  exact absurd other (by decide)

/-! ### Sander -/

/-- Sander with the segment after `n` as its next. -/
def sanderNext (b : Body) (n : Nat) : Body := { b with mem := { b.mem with snd := { b.mem.snd with next := n + 1 } } }

/-- The sweep ends when no segment is left (R201). -/
def sanderClosed (b : Body) : Body := { b with mem := { b.mem with snd := sanderEnd b.mem.snd } }

/-- Sander with segment `n` skipped. -/
def sanderSkipped (b : Body) (n : Nat) : Body := { b with mem := { b.mem with snd := { b.mem.snd with skipped := b.mem.snd.skipped ++ [n] } } }

theorem sanderSegment_idle {found : List ErrLine} (off : b.mem.snd.period = 0 ∨ memRuns b = false) : sanderSegment e b found = b := by
  have stops : b.mem.snd.period = 0 ∨ (!memRuns b) = true := off.imp_right fun h => by rw [h]; rfl
  simp only [sanderSegment, if_pos stops]

section
variable {n : Nat} {found : List ErrLine} (on : b.mem.snd.period ≠ 0) (runs : memRuns b = true) (again : b.mem.snd.again = [])
  (next : b.mem.snd.next = n) (last : n < 2564) (swept : segOn b.mem.snd n = true) (fresh : n ∉ b.mem.snd.first)
include on runs again next last swept fresh

/-- Sander takes its next segment: it skips the segment or scrubs it. -/
theorem sanderSegment_takes : sanderSegment e b found = sanderClosed
    (if (ownGroup (sanderNext b n) (segGroup n).1 (segGroup n).2 2).isNone || segWritten (sanderNext b n) n then sanderSkipped (sanderNext b n) n
     else scrubErrors e (some b.mem.snd.sweep) (segGroup n).1 (segGroup n).2 (found ++ segBad (sanderNext b n) n) (sanderNext b n)) := by
  have works : ¬ (b.mem.snd.period = 0 ∨ (!memRuns b) = true) := by simp [on, runs]
  simp only [sanderSegment, if_neg works, again, find_next _ n next last swept fresh, Option.map_some, sanderNext, sanderSkipped,
    sanderClosed]

theorem sanderSegment_scrubs (free : blocker b (grpKey (segGroup n).1 (segGroup n).2) 2 = none) (still : segWritten b n = false) :
    sanderSegment e b found = sanderClosed
      (scrubErrors e (some b.mem.snd.sweep) (segGroup n).1 (segGroup n).2 (found ++ segBad (sanderNext b n) n) (sanderNext b n)) := by
  have free' : blocker (sanderNext b n) (grpKey (segGroup n).1 (segGroup n).2) 2 = none := free
  have still' : segWritten (sanderNext b n) n = false := still
  rw [sanderSegment_takes on runs again next last swept fresh, ownGroup_free free', still']
  rfl

theorem sanderSegment_skips
    (held : (blocker b (grpKey (segGroup n).1 (segGroup n).2) 2).isSome = true ∨ segWritten b n = true) :
    sanderSegment e b found = sanderClosed (sanderSkipped (sanderNext b n) n) := by
  have skips : ((ownGroup (sanderNext b n) (segGroup n).1 (segGroup n).2 2).isNone || segWritten (sanderNext b n) n) = true := by
    rcases held with busy | written
    · have busy' : (blocker (sanderNext b n) (grpKey (segGroup n).1 (segGroup n).2) 2).isSome = true := busy
      rw [ownGroup_busy busy']
      rfl
    · have written' : segWritten (sanderNext b n) n = true := written
      rw [written', Bool.or_true]
  rw [sanderSegment_takes on runs again next last swept fresh, if_pos skips]

end

/-! ### Retrains of a channel -/

theorem channelRetrain_idle (idle : memRuns b = false ∨ retrainDue e b s ch = false) : channelRetrain e b s ch = b := by
  rcases idle with off | early
  · simp only [channelRetrain, off, Bool.not_false, Bool.true_or, if_true]
  · simp only [channelRetrain, early, Bool.not_false, Bool.or_true, Bool.true_or, if_true]

theorem channelRetry_idle (idle : channelRetrain e b s ch = b) : channelRetry e b s ch = b := by
  simp only [channelRetry, idle, ite_self]

theorem channelRetry_due (set : fget (fget b.mem.stack s).retryAt ch ≠ 0) (past : fget (fget b.mem.stack s).retryAt ch ≤ e.tick) :
    channelRetry e b s ch = channelRetrain e b s ch := by
  have due : ¬ (fget (fget b.mem.stack s).retryAt ch = 0 ∨ e.tick < fget (fget b.mem.stack s).retryAt ch) := by omega
  simp only [channelRetry, if_neg due]

theorem retrainDue_iff : retrainDue e b s ch = true ↔
    1024 < ((fget (fget b.mem.stack s).ceTicks ch).filter fun t => decide (e.tick ≤ t + 10 ^ 9)).length ∨
      240 ≤ (fget b.brd.stackTemp s - fget (fget b.mem.stack s).trainTemp ch).natAbs := by
  rw [retrainDue, Bool.or_eq_true, decide_eq_true_eq, decide_eq_true_eq]
  rfl

/-- A controller that has asked for its stack's scaffold in vain asks again at a later tick (R208). -/
def retrainLater (e : Env) (b : Body) (s ch : Nat) : Body :=
  modStack b s fun x => { x with retryAt := fset x.retryAt ch (e.tick + 1000000) }

/-- A channel's retrain begins, with its record (R208). -/
def retrainBegun (e : Env) (b : Body) (s ch : Nat) : Body :=
  modStack (setChan (memNote e b (.hbm s) (memRec e b none 0x8 0 ch 0)) s ch 1) s fun x => { x with retryAt := fset x.retryAt ch 0 }

section
variable (runs : memRuns b = true) (inService : chState b s ch = 0) (due : retrainDue e b s ch = true)
  (alone : ∀ t, t = s / 2 * 2 ∨ t = s / 2 * 2 + 1 → ∀ j, j < 32 → chState b t j ≠ 1)
include runs inService due alone

/-- With no other retrain on its die, a controller whose condition holds asks for its stack's scaffold. -/
theorem channelRetrain_asks : channelRetrain e b s ch = ((ownGroup b 3 s 6).map fun b => retrainBegun e b s ch).getD (retrainLater e b s ch) := by
  have quiet : ([s / 2 * 2, s / 2 * 2 + 1].any fun t => (List.range 32).any fun c => chState b t c == 1) = false := by
    simp only [List.any_eq_false, List.mem_cons, List.not_mem_nil, or_false, Bool.not_eq_true, List.mem_range, beq_eq_false_iff_ne]
    exact alone
  simp only [channelRetrain, runs, inService, due, quiet, Bool.not_true, bne_self_eq_false, Bool.or_self, Bool.false_eq_true, if_false]
  cases ownGroup b 3 s 6 <;> rfl

theorem channelRetrain_begins (free : blocker b (grpKey 3 s) 6 = none) :
    channelRetrain e b s ch = retrainBegun e (takeGroup b ⟨grpKey 3 s, 6, false, none, 0⟩) s ch := by
  rw [channelRetrain_asks runs inService due alone, ownGroup_free free]
  rfl

theorem channelRetrain_waits (busy : (blocker b (grpKey 3 s) 6).isSome = true) : channelRetrain e b s ch = retrainLater e b s ch := by
  rw [channelRetrain_asks runs inService due alone, ownGroup_busy busy]
  rfl

end

theorem channelDone_passes (retrains : chState b s ch = 1) (held : holds b (grpKey 3 s) 6 false = true) :
    channelDone e b s ch true = chanBack (releaseGroup b (grpKey 3 s) 6 false) s ch := by
  simp only [channelDone, retrains, held, ne_eq, not_true_eq_false, Bool.not_true, Bool.false_eq_true, or_self, if_false, if_true]

theorem channelDone_fails (retrains : chState b s ch = 1) (held : holds b (grpKey 3 s) 6 false = true) :
    channelDone e b s ch false = proposeChannel e none (chanFail (releaseGroup b (grpKey 3 s) 6 false) s ch) s (chanLine ch) := by
  simp only [channelDone, retrains, held, ne_eq, not_true_eq_false, Bool.not_true, Bool.false_eq_true, or_self, if_false]

/-! ### Channels and packages that fail -/

theorem chanFail_host (b : Body) (s ch : Nat) : (chanFail b s ch).host = b.host := by
  unfold chanFail; dsimp only; split <;> rfl

theorem chanFail_faultq (b : Body) (s ch : Nat) : (chanFail b s ch).ctx.faultq = b.ctx.faultq := by
  unfold chanFail; dsimp only; split <;> rfl

theorem chState_setChan (b : Body) (s ch v : Nat) : chState (setChan b s ch v) s ch = v := by
  simp only [chState, setChan, modStack_mem, fget_fmod_same, fget_fset_same]

/-- A channel that fails is FAILED. -/
theorem chState_chanFail (b : Body) (s ch : Nat) : chState (chanFail b s ch) s ch = 2 := by
  refine Eq.trans ?_ (chState_setChan b s ch 2)
  unfold chanFail; dsimp only; split <;> rfl

theorem chanFail_aborts (run : b.mem.mrg.run = some (0, 32 * s + ch)) :
    (chanFail b s ch).mem.mrg = { b.mem.mrg with busy := false, status := 2, run := none } := by
  unfold chanFail; dsimp only; split
  · rfl
  next other => exact absurd run other

/-- A lost channel fails; a retrain of it gives up its scaffold. -/
theorem channelLost_eq (st : chState b s ch = 0 ∨ chState b s ch = 1) : channelLost b s ch =
    if (chState b s ch == 1 && holds b (grpKey 3 s) 6 false) = true then releaseGroup (chanFail b s ch) (grpKey 3 s) 6 false
    else chanFail b s ch := by
  simp only [channelLost, if_pos st]

/-- Giving up a scaffold changes the holders alone. -/
theorem channelLost_fails (st : chState b s ch = 0 ∨ chState b s ch = 1) :
    (channelLost b s ch).mem = (chanFail b s ch).mem ∧ (channelLost b s ch).ctx = (chanFail b s ch).ctx := by
  rw [channelLost_eq st]
  split <;> exact ⟨rfl, rfl⟩

theorem holds_channelLost (st : chState b s ch = 1) : holds (channelLost b s ch) (grpKey 3 s) 6 false = false := by
  have fails : ∀ g act host, holds (chanFail b s ch) g act host = holds b g act host := fun g act host => by
    simp only [holds, chanFail_host]
  rw [channelLost_eq (.inr st), st]
  cases held : holds b (grpKey 3 s) 6 false with
  | true => exact holds_releaseGroup ..
  | false => exact (fails ..).trans held

theorem packageFail_eq {p : Nat} (inService : fget b.mem.tb.out p = false) (idle : b.mem.mrg.run ≠ some (1, p)) :
    packageFail b p = modTb b fun x => { x with failed := fset x.failed p true } := by
  have idle' : ¬ (modTb b fun x => { x with failed := fset x.failed p true }).mem.mrg.run = some (1, p) := idle
  simp only [packageFail, inService, Bool.false_eq_true, if_false, if_neg idle']

end

/-- CHANNEL_FAIL raises no cause: it leaves the memory of the failed channel, and the holders of a lost one. -/
theorem exec_channelFail {s : State} {k : Fin 8} {ch : Fin 32} (st : chState s.body k.val ch.val = 0 ∨ chState s.body k.val ch.val = 1) :
    ∃ t, exec (.channelFail k ch) s = .next t ∧ t.body.mem = (chanFail (unqueued s.body) k.val ch.val).mem ∧
      t.body.host = (channelLost (unqueued s.body) k.val ch.val).host := by
  obtain ⟨mem, ctx⟩ := channelLost_fails (b := unqueued s.body) st
  have quiet : (channelLost (unqueued s.body) k.val ch.val).ctx.faultq = [] := by
    rw [ctx]
    exact chanFail_faultq ..
  exact ⟨_, runCmd_quiet (f := fun _ b => channelLost b k.val ch.val) quiet, mem, rfl⟩

end Sys2Proof.Machine

open Sys2Proof Sys2Proof.Machine

/-- Settles O41: Sander scrubs or skips its next segment (`sanderSegment_scrubs`, `sanderSegment_skips`), a controller begins its retrain, asks
again later or has no reason to (`channelRetrain_begins`, `channelRetrain_waits`, `channelRetrain_idle`), and what fails raises no cause. -/
theorem memoryMaintenance : Obligations.MemoryMaintenance := by
  intro s b
  refine ⟨?sander, ?sanderOff, ?idle, ?retrain, ?done, ?fail, ?package⟩
  case sander =>
    intro found n q on runs again next last swept fresh g b1 after
    exact ⟨fun free still => answers_settled (sanderSegment_scrubs on runs again next last swept fresh free still),
      fun held => answers_settled (sanderSegment_skips on runs again next last swept fresh held)⟩
  case sanderOff => exact fun found off => runCmd_idle (sanderSegment_idle off)
  case idle =>
    intro k ch off
    have idle : channelRetrain s.env (unqueued s.body) k.val ch.val = unqueued s.body := channelRetrain_idle off
    exact ⟨runCmd_idle idle, runCmd_idle (channelRetry_idle idle)⟩
  case retrain =>
    intro k ch runs inService due alone
    have due' : retrainDue s.env (unqueued s.body) k.val ch.val = true := retrainDue_iff.mpr due
    refine ⟨fun free => answers_settled (channelRetrain_begins runs inService due' alone free),
      fun busy => answers_quiet (channelRetrain_waits runs inService due' alone busy) rfl rfl,
      fun set past => runCmd_congr (channelRetry_due set past)⟩
  case done =>
    intro k ch retrains held free
    exact ⟨answers_settled (channelDone_passes retrains held), answers_settled (channelDone_fails retrains held)⟩
  case fail =>
    intro k ch st
    obtain ⟨t, runs, mem, host⟩ := exec_channelFail st
    refine ⟨t, runs, ?_, fun run => ?_, fun retrains => ?_⟩
    · simp only [chState, mem]
      exact chState_chanFail ..
    · have aborted := chanFail_aborts (b := unqueued s.body) run
      simp only [mem, aborted, and_self]
    · simp only [holds, host]
      exact holds_channelLost retrains
  case package =>
    intro p inService idle
    exact answers_quiet (packageFail_eq inService idle) rfl rfl
end

section
/-! PROOF. What a reading of the memories' temperatures, a margin run from its start to its end, and the initialisation of memory leave
(R183, R187, R213, R214, R350). -/

namespace Sys2Proof.Machine

/-! ### Values at consecutive keys -/

section
variable {α : Type} [Inhabited α] [DecidableEq α]

/-- A key of the range written reads its value. -/
theorem fget_fsetMany_add {xs : List α} {k : Nat} {x : α} (m : FMap α) (a : Nat) (h : xs[k]? = some x) : fget (fsetMany m a xs) (a + k) = x := by
  induction xs generalizing m a k with
  | nil => cases h
  | cons y t ih =>
    rw [fsetMany]
    cases k with
    | zero =>
      rw [List.getElem?_cons_zero] at h
      have before : fget (fsetMany (fset m a y) (a + 1) t) a = fget (fset m a y) a := fget_fsetMany_ne t _ _ _ (.inl (Nat.lt_succ_self a))
      exact before.trans ((fget_fset_same m a y).trans (Option.some.inj h))
    | succ k =>
      rw [List.getElem?_cons_succ] at h
      rw [Nat.add_comm k 1, ← Nat.add_assoc]
      exact ih _ _ h

theorem foldl_zip_range' (xs : List α) (m : FMap α) (a : Nat) :
    ((List.range' a xs.length).zip xs).foldl (fun m x => fset m x.1 x.2) m = fsetMany m a xs := by
  induction xs generalizing m a with
  | nil => rfl
  | cons y t ih =>
    rw [List.length_cons, List.range'_succ, List.zip_cons_cons, List.foldl_cons, ih]
    rfl

theorem fget_foldl_zip_range (m : FMap α) {xs : List α} {k : Nat} {x : α} (h : xs[k]? = some x) :
    fget (((List.range xs.length).zip xs).foldl (fun m x => fset m x.1 x.2) m) k = x := by
  rw [List.range_eq_range', foldl_zip_range', ← Nat.zero_add k]
  exact fget_fsetMany_add m 0 h

end

/-! ### Packets that are sent, and the causes that wait -/

theorem pickPort_requeued (q : List FaultReq) (b : Body) (cs : List Nat) :
    pickPort (requeued q b) cs = ((pickPort b cs).1, requeued q (pickPort b cs).2) := by
  unfold pickPort
  split <;> rfl

theorem sendOne_requeued (q : List FaultReq) (b : Body) (p : OutPkt) : sendOne (requeued q b) p = requeued q (sendOne b p) := by
  have cs : ∀ lv, carriers (requeued q b) lv = carriers b lv := fun _ => rfl
  have sh : shadowing (requeued q b) p.slot = shadowing b p.slot := rfl
  have fab : (requeued q b).fab = b.fab := rfl
  simp only [sendOne, cs, sh, fab, pickPort_requeued]
  rw [apply_ite (requeued q)]
  -- A packet waits, or goes to this module itself or by a port.
  refine ite_congr rfl (fun _ => rfl) fun _ => ?_
  cases frameDst p.frame == some b.fab.addr <;> rfl

theorem sendHeld_requeued (q : List FaultReq) (b : Body) : sendHeld (requeued q b) = requeued q (sendHeld b) :=
  List.foldl_hom (requeued q) (sendOne_requeued q)

@[simp] theorem sendHeld_ctx (b : Body) : (sendHeld b).ctx = b.ctx := foldl_keeps Body.ctx (fun b p _ => sendOne_ctx b p) b

theorem portDown_requeued (q : List FaultReq) (b : Body) (n cause : Nat) :
    portDown (requeued q b) n cause = requeued q (portDown b n cause) := by
  -- What goes DOWN is of the fabric alone; then held packets move.
  refine Eq.trans ?_ (sendHeld_requeued q _)
  rfl

@[simp] theorem portDown_ctx (b : Body) (n cause : Nat) : (portDown b n cause).ctx = b.ctx := sendHeld_ctx _

/-! ### The start of a margin run -/

/-- The registers of a margin run in progress (Table 8-18). -/
def marginBusy (b : Body) (type unit sel : Nat) : Body :=
  { b with mem := { b.mem with mrg := { b.mem.mrg with
    type := type, unit := unit, sel := sel, busy := true, status := 0, lanes := [], run := some (type, unit) } } }

/-- The body once a margin run has started: its channel retrains, or its port is DOWN (R214). -/
def marginRuns (b : Body) (type unit sel : Nat) : Body :=
  if type = 0 then setChan (marginBusy b type unit sel) (unit / 32) (unit % 32) 1
  else if type = 3 then portDown (marginBusy b type unit sel) unit 0xA else marginBusy b type unit sel

/-- The registers of a margin run that is refused (Table 8-18). -/
def marginRefused (b : Body) (type unit sel : Nat) : Body :=
  { b with mem := { b.mem with mrg := { b.mem.mrg with type := type, unit := unit, sel := sel, status := 1 } } }

theorem marginRuns_requeued (q : List FaultReq) (b : Body) (type unit sel : Nat) :
    marginRuns (requeued q b) type unit sel = requeued q (marginRuns b type unit sel) := by
  simp only [marginRuns]
  split
  · rfl
  · split
    · exact portDown_requeued q (marginBusy b type unit sel) unit 0xA
    · rfl

theorem marginRuns_ctx (b : Body) (type unit sel : Nat) : (marginRuns b type unit sel).ctx = b.ctx := by
  have busy : (marginBusy b type unit sel).ctx = b.ctx := rfl
  simp only [marginRuns, apply_ite Body.ctx, setChan_ctx, portDown_ctx, busy, ite_self]

/-- No run starts while one is in progress. -/
theorem marginOk_idle {b : Body} {type unit : Nat} (ok : marginOk b type unit = true) : b.mem.mrg.busy = false := by
  simp only [marginOk, Bool.and_eq_true, Bool.not_eq_true'] at ok
  obtain ⟨⟨-, idle⟩, -⟩ := ok
  exact idle

section
variable {b : Body} {v : Nat} (start : fld v 31 31 = 1)
include start

theorem marginCtl_starts (ok : marginOk b (fld v 29 27) (fld v 26 19) = true) :
    marginCtl b v = marginRuns b (fld v 29 27) (fld v 26 19) (fld v 18 10) := by
  simp only [marginCtl, marginWrite, start, ok, marginOk_idle ok, Nat.one_ne_zero, Bool.not_true, Bool.false_eq_true, if_false, marginRuns]
  -- A channel retrains for a run of type 0, a port is DOWN for one of type 3; the others change the registers alone.
  generalize fld v 29 27 = type
  match type with
  | 0 | 1 | 2 | 3 | n + 4 => rfl

theorem marginCtl_refuses (bad : marginOk b (fld v 29 27) (fld v 26 19) = false) :
    marginCtl b v = marginRefused b (fld v 29 27) (fld v 26 19) (fld v 18 10) := by
  simp only [marginCtl, marginWrite, start, bad, Nat.one_ne_zero, Bool.not_false, if_false, if_true, marginRefused]
  cases b.mem.mrg.busy <;> rfl

end

/-- A field depends on the bits up to its highest alone. -/
theorem fld_congr {x y hi lo : Nat} (order : lo ≤ hi) (same : x % 2 ^ (hi + 1) = y % 2 ^ (hi + 1)) : fld x hi lo = fld y hi lo := by
  have width : 2 ^ (hi + 1) = 2 ^ lo * 2 ^ (hi + 1 - lo) := by
    rw [← Nat.pow_add]
    congr 1
    omega
  simp only [fld, Nat.shiftRight_eq_div_pow, ← Nat.mod_mul_right_div_self, ← width, same]

/-- `START` leaves the other fields of a word. -/
theorem fld_start (n : Nat) {hi lo : Nat} (below : hi ≤ 30) (order : lo ≤ hi) : fld (n % 2 ^ 31 + 2 ^ 31) hi lo = fld n hi lo := by
  have dvd : 2 ^ (hi + 1) ∣ 2 ^ 31 := Nat.pow_dvd_pow 2 (by omega)
  refine fld_congr order ?_
  rw [Nat.add_mod, Nat.mod_mod_of_dvd _ dvd, Nat.mod_eq_zero_of_dvd dvd, Nat.add_zero, Nat.mod_mod]

theorem fld_start_itself (n : Nat) : fld (n % 2 ^ 31 + 2 ^ 31) 31 31 = 1 := by
  simp only [fld, Nat.shiftRight_eq_div_pow]
  omega

theorem pageWrite_margin (e : Env) (b : Body) (v : Nat) : pageWrite e b .mrg 0x40 v = marginCtl b v := by
  simp only [pageWrite, Nat.lt_irrefl, if_false, if_true]

/-- MARGIN_START is a write of `MRG_CTL`, once the access is noted. -/
theorem exec_marginStart {s : State} {w : BitVec 32} {c : Body} (serves : served s.body .mrg = true)
    (writes : marginCtl (requeued [] (touched s.body)) (w.toNat % 2 ^ 31 + 2 ^ 31) = requeued [] c) (causes : c.ctx = s.body.ctx) :
    Answers (exec (.marginStart w) s) s c := by
  have eq : pageWrite s.env (noteWrite (unqueued s.body) (reqNum .pcie)) .mrg 0x40 (w.toNat % 2 ^ 31 + 2 ^ 31) = requeued [] c :=
    (pageWrite_margin ..).trans writes
  refine pcie_runs s .mrg 0x40 (w.toNat % 2 ^ 31 + 2 ^ 31) c serves (by rw [eq]; rfl) ?_
  rw [eq, ← causes]
  rfl

/-! ### The end of a margin run -/

@[simp] theorem fbSync_mrg (b : Body) (d : Nat) : (fbSync b d).mem.mrg = b.mem.mrg := by
  unfold fbSync; split <;> rfl

@[simp] theorem chanBack_mrg (b : Body) (s ch : Nat) : (chanBack b s ch).mem.mrg = b.mem.mrg := by
  simp only [chanBack, fbSync_mrg, setChan, modStack_mem, modStr_mem]
  exact foldl_keeps (f := fun b (g : Nat × Bool) => granuleBack b g.1) (fun b => b.mem.mrg) (fun _ _ _ => rfl) b

theorem marginSample_keeps (b : Body) (type unit : Nat) (lanes : List (BitVec 32)) :
    (marginSample b type unit lanes).1.ctx = b.ctx ∧ (marginSample b type unit lanes).1.mem = b.mem := by
  unfold marginSample; dsimp only
  split <;> exact ⟨rfl, rfl⟩

/-- The results of a margin run, lane by lane. -/
def marginResults (lanes : List (BitVec 32)) : FMap (BitVec 32) :=
  ((List.range lanes.length).zip lanes).foldl (fun m x => fset m x.1 x.2) []

/-- The registers of a margin run that has ended. -/
def marginEnded (b : Body) (lanes : List (BitVec 32)) : Body :=
  { b with mem := { b.mem with mrg := { b.mem.mrg with busy := false, run := none, lanes := marginResults lanes } } }

/-- A MARGINAL lane goes to the unit history. -/
def marginNote (e : Env) (type unit : Nat) (b : Body) (x : Nat × BitVec 32) : Body :=
  histAdd e b (laneUnit type unit x.1).1 (laneUnit type unit x.1).2 0x0B 0 (marginDie type unit) 0x30 0 x.1

/-- The body of a run that has ended, with the MARGINAL lanes in the history and an HBM4 channel back in service. -/
def marginBack (e : Env) (b : Body) (type unit : Nat) (lanes : List (BitVec 32)) : Body :=
  let b := (((List.range lanes.length).zip lanes).filter fun x => laneMarginal type x.2).foldl (marginNote e type unit) (marginEnded b lanes)
  if type = 0 then chanBack b (unit / 32) (unit % 32) else b

theorem marginBack_keeps (e : Env) (b : Body) (type unit : Nat) (lanes : List (BitVec 32)) :
    (marginBack e b type unit lanes).ctx = b.ctx ∧ (marginBack e b type unit lanes).mem.mrg = (marginEnded b lanes).mem.mrg := by
  have notes_ctx (l : List (Nat × BitVec 32)) : ∀ b, (l.foldl (marginNote e type unit) b).ctx = b.ctx :=
    foldl_keeps Body.ctx fun _ _ _ => histAdd_ctx ..
  have notes_mem (l : List (Nat × BitVec 32)) : ∀ b, (l.foldl (marginNote e type unit) b).mem = b.mem :=
    foldl_keeps Body.mem fun _ _ _ => histAdd_mem ..
  unfold marginBack; dsimp only
  split
  · rw [chanBack_ctx, chanBack_mrg, notes_ctx, notes_mem]
    exact ⟨rfl, rfl⟩
  · rw [notes_ctx, notes_mem]
    exact ⟨rfl, rfl⟩

section
variable {e : Env} {b : Body} {type unit : Nat} {lanes : List (BitVec 32)} (busy : b.mem.mrg.busy = true)
  (run : b.mem.mrg.run = some (type, unit))
include busy run

/-- A run in progress ends with its results, and Weathervane takes its measurement. -/
theorem marginDone_eq : marginDone e b lanes = wvTakeHeld (marginSample (marginBack e b type unit lanes) type unit lanes).1
    (marginSample (marginBack e b type unit lanes) type unit lanes).2 := by
  simp only [marginDone, busy, run]
  rfl

theorem marginDone_ctx : (marginDone e b lanes).ctx = b.ctx := by
  rw [marginDone_eq busy run]
  exact (marginSample_keeps ..).1.trans (marginBack_keeps ..).1

theorem marginDone_mrg : (marginDone e b lanes).mem.mrg = { b.mem.mrg with busy := false, run := none, lanes := marginResults lanes } := by
  rw [marginDone_eq busy run]
  exact (congrArg MemSt.mrg (marginSample_keeps ..).2).trans (marginBack_keeps ..).2

end

/-! ### Initialisation -/

section
variable {b : Body} {k : Nat} (at_ : b.mem.initAt = some k) (runs : memRuns b = true) (started : b.kpr.start.phase = 0)
include at_ runs started

theorem initPage_next (more : k + 1 < ((initRanges b).map (·.2)).sum) : initPage b = { b with mem := { b.mem with initAt := some (k + 1) } } := by
  simp only [initPage, at_, runs, started, more, Bool.not_true, bne_self_eq_false, Bool.false_and, Bool.or_self, Bool.false_eq_true, if_false,
    if_true]

theorem initPage_last (last : ((initRanges b).map (·.2)).sum ≤ k + 1) :
    initPage b = { b with mem := { b.mem with initAt := none, initEarly := [] } } := by
  simp only [initPage, at_, runs, started, if_neg (Nat.not_lt.mpr last), Bool.not_true, bne_self_eq_false, Bool.false_and, Bool.or_self,
    Bool.false_eq_true, if_false]

end

/-! ### Temperatures -/

/-- The temperatures of what a reading names, by its place (R183, R187). -/
def tempsRead (m : FMap Int) (l : List Int) : FMap Int := ((List.range l.length).zip l).foldl (fun m x => fset m x.1 x.2) m

theorem memTemps_runs {b : Body} {hs ps : List Int} (runs : memRuns b = true) : memTemps b hs ps =
    modTb { b with brd := { b.brd with stackTemp := tempsRead b.brd.stackTemp (hs.take 8) } } fun t =>
      { t with temp := tempsRead t.temp (ps.take 24) } := by
  simp only [memTemps, runs, Bool.not_true, Bool.false_eq_true, if_false]
  rfl

theorem fget_tempsRead (m : FMap Int) {l : List Int} {n k : Nat} {x : Int} (bound : k < n) (h : l[k]? = some x) :
    fget (tempsRead m (l.take n)) k = x :=
  fget_foldl_zip_range m ((List.getElem?_take_of_lt bound).trans h)

end Sys2Proof.Machine

open Sys2Proof Sys2Proof.Machine

/-- Settles O42: a reading's places, the registers of a margin run at its start and at its end, and the next page of an initialisation; none of
these raises a cause. -/
theorem marginAndInitialisation : Obligations.MarginAndInitialisation := by
  intro s
  refine ⟨?temps, ?start, ?done, ?init⟩
  case temps =>
    intro hs ps runs
    have reads := memTemps_runs (b := unqueued s.body) (hs := hs) (ps := ps) runs
    refine ⟨_, runCmd_quiet (f := fun _ b => memTemps b hs ps) (by rw [reads]; rfl), fun k x bound h => ?_, fun p x bound h => ?_⟩
    · rw [reads]
      exact fget_tempsRead _ bound h
    · rw [reads]
      exact fget_tempsRead _ bound h
  case start =>
    intro w ty u serves
    have type_eq : fld (w.toNat % 2 ^ 31 + 2 ^ 31) 29 27 = ty := fld_start w.toNat (by decide) (by decide)
    have unit_eq : fld (w.toNat % 2 ^ 31 + 2 ^ 31) 26 19 = u := fld_start w.toNat (by decide) (by decide)
    have sel_eq : fld (w.toNat % 2 ^ 31 + 2 ^ 31) 18 10 = fld w.toNat 18 10 := fld_start w.toNat (by decide) (by decide)
    have go := fld_start_itself w.toNat
    refine ⟨fun ok => exec_marginStart (c := marginRuns (touched s.body) ty u (fld w.toNat 18 10)) serves ?_ (marginRuns_ctx ..),
      fun bad => exec_marginStart (c := marginRefused (touched s.body) ty u (fld w.toNat 18 10)) serves ?_ rfl⟩
    · rw [marginCtl_starts go (by rw [type_eq, unit_eq]; exact ok), type_eq, unit_eq, sel_eq, marginRuns_requeued]
    · rw [marginCtl_refuses go (by rw [type_eq, unit_eq]; exact bad), type_eq, unit_eq, sel_eq]
      rfl
  case done =>
    intro lanes ty u busy run
    have mrg := marginDone_mrg (e := s.env) (b := unqueued s.body) (lanes := lanes) busy run
    have ctx := marginDone_ctx (e := s.env) (b := unqueued s.body) (lanes := lanes) busy run
    have quiet : (marginDone s.env (unqueued s.body) lanes).ctx.faultq = [] := congrArg (·.faultq) ctx
    refine ⟨_, runCmd_quiet (f := fun e b => marginDone e b lanes) quiet, congrArg Margin.busy mrg, congrArg Margin.run mrg, fun i x h => ?_⟩
    refine (congrArg (fun m => fget (Margin.lanes m) i) mrg).trans ?_
    exact fget_foldl_zip_range [] h
  case init =>
    intro k at_ runs started
    exact ⟨fun more => answers_quiet (initPage_next at_ runs started more) rfl rfl,
      fun last => answers_quiet (initPage_last at_ runs started last) rfl rfl⟩
end
